-- ==== Sys2Proof/Word.lean ====
section
/-! DEFINITION. The word types of the OC9640: bytes, 16-, 32- and 64-bit words, and the value kept with its one's
complement (R28). -/

namespace Sys2Proof

abbrev Byte := BitVec 8
abbrev W16 := BitVec 16
abbrev W32 := BitVec 32
abbrev W64 := BitVec 64
abbrev Digest := BitVec 256

/-- An AES-256-XTS key: the data key and the tweak key, 256 bits each (R216). -/
abbrev Key := BitVec 512

/-- A berth number (R140). -/
abbrev BerthId := Fin 512

/-- A value that rests as itself followed by its one's complement (R28, Table ARCH-4). The two halves are
separate data, so that a broken pair is a state like any other. -/
structure Pair (n : Nat) where
  val : BitVec n
  cpl : BitVec n
  deriving DecidableEq, Repr

/-- The pair a writer forms from a value (R28). -/
def Pair.mk' {n : Nat} (v : BitVec n) : Pair n := { val := v, cpl := ~~~v }

/-- The check every consumer makes on every read (R28). -/
def Pair.ok {n : Nat} (p : Pair n) : Bool := p.cpl == ~~~p.val

end Sys2Proof
end

