-- ==== Sys2Proof/Syntax.lean ====
section
/-! DEFINITION. The commands of the OC9640: one constructor of `Instr` per row of spec/opcode_table.json, in the
table's order, with the operands that the row's event carries. -/

namespace Sys2Proof

/-- The header of a parcel but for START and TYPE, which the command's row fixes (Table LANE-4). The 16-bit
fields keep their reserved bits, which R121 checks. -/
structure Hdr where
  ackv : Bool
  nak : Bool
  last : Bool
  busy : Bool
  unseq : Bool
  rsvd : BitVec 3
  seq : W16
  ackseq : W16
  len : W16
  berth : W16
  tag : W16
  cret : Byte
  code : Byte
  hcrc : W16
  deriving DecidableEq, Repr

/-- An ordered-set block as it arrives: its symbol 0 and the lanes it stands on (R116, Table LANE-3). -/
structure OrderedSet where
  symbol0 : Byte
  lanes : BitVec 6
  deriving DecidableEq, Repr

/-- A parcel as it arrives on the lanes: header, payload and the CRC-32 that followed it (R118). -/
structure Parcel where
  hdr : Hdr
  payload : List Byte
  crc : W32
  deriving DecidableEq, Repr

/-- The stage at which a block was recovered, in the order of R27. -/
inductive Decode where
  | hard (bits : Nat)
  | soft
  | rebuilt
  | lost
  deriving DecidableEq, Repr

/-- How a copy of a logbook record reads (R287, R288). -/
inductive CopyRead where
  | good
  | decodeFails
  | cplFails
  /-- It decodes and its CPL holds, but its PREV reads as this. -/
  | otherPrev (prev : Digest)
  deriving DecidableEq, Repr

/-- How the copies of a record read; copy B is read when copy A fails (R287). -/
structure LogFail where
  seq : W64
  copyA : CopyRead
  copyB : CopyRead
  deriving DecidableEq, Repr

/-- How a die operation ended (R21, R27, R287, R320, R322, R323). -/
inductive DieResult where
  /-- The operation succeeded, a read by hard decode within the refresh threshold. -/
  | ok
  /-- A read: the blocks, by offset in the read, that did not decode plainly, and the decodes that converged while
  their CRC failed (R339). -/
  | decoded (blocks : List (Nat × Decode)) (miscor : Nat)
  /-- A read of logbook records: the records of which a copy failed its decode or CPL check. -/
  | logDecoded (fails : List LogFail)
  /-- A program failed on a block; `second` when that block was already suspect (R323). -/
  | programFail (die : Fin 128) (second : Bool)
  /-- An erase failed on a block (R322). -/
  | eraseFail (die : Fin 128)
  /-- The die fails every read of a row, or an erase check twice (R320). -/
  | dieDead (die : Fin 128)
  deriving DecidableEq, Repr

/-- What the monitor block reads at a tide boundary (R350). -/
structure Measure where
  bankMv : W16
  vinMv : W16
  deriving DecidableEq, Repr

/-- The answer of one block to a domain request (R381, R382). -/
inductive PmuReply where
  | accept
  | delay (tides : Nat)
  | refuse (reason : BitVec 4)
  deriving DecidableEq, Repr

/-- The part a power switch or rail feeds (Table POWER-6). -/
inductive PowerUnit where
  | rail (k : Fin 6)
  | switch (domain : Fin 16)
  deriving DecidableEq, Repr

/-- A clock that the monitor block finds lost (R397). -/
inductive Clock where
  | crystal
  | pll (k : Fin 4)
  deriving DecidableEq, Repr

/-- What the exit sequence of a reset of cold reach or wider reads (R410, R412, R421, R483). -/
structure ExitReading where
  /-- The strap resistance in ohms; none when the reading is open. -/
  strapOhms : Option Nat
  /-- The 12-bit ADC reading. -/
  strapRaw : BitVec 12
  /-- The number of the first trim record that fails, if one does. -/
  trimFail : Option Byte
  /-- TMODE at the exit. -/
  tmode : Bool
  /-- Junction at 120 °C or more. -/
  hot : Bool
  /-- Lanes that pass loop-back. -/
  lanesOk : BitVec 6
  deriving DecidableEq, Repr

/-- The result of a self-test slice (Table FLT-3). -/
inductive SliceResult where
  | pass
  | fail
  deriving DecidableEq, Repr

/-- What a member reports of itself (R445, Table CASC-4). -/
structure MemberReport where
  /-- The position it reports; it must match the port (R443). -/
  position : Fin 4
  strapMaster : Bool
  bankAbsent : Bool
  readyLevel : BitVec 2
  capacityMib : Nat
  ledger : BitVec 2
  euMj : Nat
  faultClass : Byte
  stickies : Nat
  deriving DecidableEq, Repr

/-- A member's answer to a sub-instruction (R450, R452). -/
structure SubAnswer where
  id : Nat
  /-- The part is in the member's buffer and covered, or its read data stand in `payload`. -/
  status : Byte
  writeThrough : Bool
  payload : List Byte
  /-- Of logbook records: the offset of the first that failed (R288). -/
  first : Option Nat
  deriving DecidableEq, Repr

/-- A part of an instruction that lies on this member (R450). -/
structure SubInstr where
  id : Nat
  write : Bool
  region : Fin 64
  unit : Nat
  payload : List Byte
  /-- The piece is split over two controllers (R453). -/
  split : Bool
  /-- A read of this many records of the member's logbook, from number `unit` on (R285). -/
  records : Option Nat
  deriving DecidableEq, Repr

/-- The cartridge-wide orders a member receives (Table CASC-6, R282, R459). -/
inductive CartridgeEvent where
  | checkpointFetch
  | forcedErase
  | releaseCommit
  | masterHalt
  | factoryEntry
  | quayWake (domains : BitVec 16)
  deriving DecidableEq, Repr

/-- The TAP operations of R483. -/
inductive TapOp where
  | bypass
  | idcode
  | samplePreload
  | extest
  deriving DecidableEq, Repr

/-- The steps of the part. A constructor's docstring names the row. -/
inductive Instr where
  -- Narrow mode (03)
  | manifest (tag : Byte) (arg : W32)
  | propose (tag : Byte) (arg : W32)
  | lanes (tag : Byte) (arg : W32)
  | status (tag : Byte) (arg : W32)
  | ctlRd (tag : Byte) (arg : W32)
  | ctlWr (tag : Byte) (arg : W32)
  | put (tag : Byte) (arg : W32)
  | get (tag : Byte) (arg : W32)
  | reset (tag : Byte) (arg : W32)
  /-- A token whose opcode Table NARROW-3 does not define. -/
  | unknownOpcodeToken (op : Byte) (tag : Byte) (arg : W32)
  | narrowTokenBad
  /-- The block's payload bytes and the CRC-16 that followed them. -/
  | hostDataBlock (payload : List Byte) (crc : W16)
  | narrowBlockTimeout
  | narrowSyncMarker
  | nclkRestart
  | ncmdWakePattern
  | ncmdWakeTimeout
  /-- The lanes that failed; none failed when 0. -/
  | laneTrainingEnd (failed : BitVec 6)
  -- Parcels and ordered sets (04)
  | instructionPush (p : Parcel)
  | dataParcel (p : Parcel)
  | timeSyncParcel (p : Parcel)
  | controlParcel (p : Parcel)
  | nakReceived (p : Parcel)
  | replayTimeout
  | dozeParcel (p : Parcel)
  | electricalIdleSet
  | dozeAcceptTimeout
  | signalDetect
  | wakeParcel (p : Parcel)
  | syncOrderedSet (number : Byte) (complement : Byte)
  | realignOrderedSet
  -- Time (02)
  | tideBoundary (m : Measure)
  | timeStep
  | syncageTimeout
  | holdmaxTimeout
  | alarmFire
  | timNowlRead
  | timHtgo (seq : Byte)
  | timAlmctlArm
  -- Berth commands on the berth in BTH_SEL (05)
  | alloc
  | load
  | start
  | stop
  | free
  | restart
  | bthCfgWrite (v : W32)
  | bthResvRequest (v : W32)
  | bthUnrepclr
  -- Tsuilaza: the turn of one berth (06)
  | nop (b : BerthId)
  | halt (b : BerthId)
  | jump (b : BerthId)
  | branch (b : BerthId)
  | call (b : BerthId)
  | ret (b : BerthId)
  | loop (b : BerthId)
  | waitt (b : BerthId)
  | waittWake (b : BerthId)
  | waite (b : BerthId)
  | waiteTimeout (b : BerthId)
  | signal (b : BerthId)
  | order (b : BerthId)
  | ldi (b : BerthId)
  | mov (b : BerthId)
  | add (b : BerthId)
  | sub (b : BerthId)
  | and (b : BerthId)
  | or (b : BerthId)
  | xor (b : BerthId)
  | shl (b : BerthId)
  | shr (b : BerthId)
  | cmp (b : BerthId)
  | ldc (b : BerthId)
  | unknownOp (b : BerthId)
  | read (b : BerthId)
  | write (b : BerthId)
  | append (b : BerthId)
  | copy (b : BerthId)
  | verify (b : BerthId)
  | trim (b : BerthId)
  | weed (b : BerthId)
  | hold (b : BerthId)
  | release (b : BerthId)
  | harvest (b : BerthId)
  | ringpos (b : BerthId)
  | seal (b : BerthId)
  | logread (b : BerthId)
  | checkpt (b : BerthId)
  | ctrinc (b : BerthId)
  | ctrread (b : BerthId)
  | timerd (b : BerthId)
  | alarm (b : BerthId)
  | session (b : BerthId)
  | challengePauseEnd (b : BerthId)
  | guard (b : BerthId)
  | gateTimeout
  | lock (b : BerthId)
  | unlock (b : BerthId)
  | ferase (b : BerthId)
  | feraseEraseDone (seconds : W32)
  | health (b : BerthId)
  | quiesce (b : BerthId)
  | quiesceDeadline
  | apply (b : BerthId)
  | resume (b : BerthId)
  | stc (b : BerthId)
  | patch (b : BerthId)
  | haltctl (b : BerthId)
  -- Ledger, media and logbook events (09, 10, 12)
  | ledgerWaitExpiry (b : BerthId)
  | dieOperationDone (id : Nat) (r : DieResult)
  | rootWrite
  | autoCheckpoint
  | checkpointSigned
  | counterJournalSwitch (mirrorB : Bool)
  | logArchgo
  | logCertdatRead
  | ctrVallRead
  | ringTaillRead
  -- Memories and codes (11)
  | dramScrub (badPages : List Nat)
  | memoryCorrected (mem : Fin 10) (addr : W32) (recurs : Bool)
  | memoryUncorrectable (mem : Fin 10) (addr : W32)
  | memFlipctlArm
  | codPeakClr
  | lnkClr
  -- Hold-up (12)
  | capTestStart
  | hupCaptestGo
  | capTestEnd (deltaMv : Nat)
  | hupEuRead
  /-- The energy the bank really yields from step 1 on, in 0.25 mJ, and whether VIN is back at step 6. -/
  | detFall (yieldMj4 : Nat) (vinBack : Bool)
  | vinCollapse (yieldMj4 : Nat) (vinBack : Bool)
  | pmuRestartTimeout
  /-- A press that lasted that many milliseconds. -/
  | btnPress (ms : Nat)
  | hupRelDone
  | releaseTimeout
  -- Power domains and clocks (13)
  | pmuReqGo (v : W32)
  | pmuAnswer (replies : List PmuReply)
  | pmuDelayEnd (replies : List PmuReply)
  | domainWakeDone (domain : Fin 16)
  | railPgoodTimeout (unit : PowerUnit)
  | pllReady
  | pllReadyTimeout
  | clockLost (c : Clock)
  | rcOscFail (crystalToo : Bool)
  | hrefLost
  -- Reset (14)
  | vinRise (x : ExitReading)
  | vaonFail
  | brownOut
  | hrstFall
  | hrstWarmSource
  | hrstColdSource
  | hrstRelease
  | mrstFall
  | mrstRise
  | aonWatchdog
  | coreWatchdog
  | firmwareResetRequest
  | resetDeferralEnd (us : W16)
  | deferralFenceTimeout (dies : List (Fin 128))
  | resetExit (x : ExitReading)
  | recoveryComplete (ms : W16) (orphansK : W16)
  | rstBlkGo (v : W32)
  | rstBkcmdWrite
  | rstBklRead
  -- Faults, self-test, microcode (15)
  | fltAck (block : Fin 16) (bits : BitVec 4)
  | fltForce (block : Fin 16) (bits : BitVec 4)
  | factoryModeEntry
  | selftestSlice (r : SliceResult)
  | thermalThrottle (a b : W16)
  | throttleEnd
  | thermalShutdown (a b : W16)
  | sensorDisagree (a b : W16)
  | engineParityError
  | sequencerParityError (channel : Fin 16)
  -- Cascade (16)
  | quaySubInstruction (i : SubInstr)
  | quaySubAnswer (a : SubAnswer)
  | quayTimeFrame (time : W64) (period : BitVec 2) (quality : W16)
  /-- The member's offset at the edge in ns, before QUY_ALIGN.DELAY is taken off. -/
  | tideioEdge (offsetNs : Int)
  | tideStrobeLost
  | quayRemovalFrame (yieldMj4 : Nat) (vinBack : Bool)
  | quayWarmResetFrame
  | quayPortTrainingEnd (port : Fin 3) (up : Bool)
  | quayReplayTimeout (port : Fin 3)
  | memberManifestReport (port : Fin 3) (r : MemberReport)
  | memberJoinTimeout
  | memberReadyTimeout
  | memberSilent (position : Fin 4)
  | masterSilent
  -- The rest
  | registerWrite (addr : W16) (v : W32)
  /-- The 16 header bytes, the payload and the CRC-32 as they arrived. -/
  | malformedParcel (hdr : List Byte) (payload : List Byte) (crc : W32)
  /-- A set that Table LANE-3 does not name, or one of the table on the wrong lanes (R116). -/
  | unknownOrderedSet (arrival : OrderedSet)
  | hrefStable
  | quayCartridgeEventFrame (e : CartridgeEvent)
  | tapInstruction (op : TapOp)
  deriving DecidableEq, Repr

end Sys2Proof
end

