-- ==== Sys2Proof/Decode.lean ====
section
/-! DEFINITION. The decoder of commands from table words. Every row of spec/opcode_table.json has an empty field
list, so no word spells a command. -/

namespace Sys2Proof

/-- The command that a word spells by the table's bits: none, since no row gives bits. -/
def decodeTableWord (_nbits _w : Nat) : Option Instr := none

end Sys2Proof
end

