-- ==== Sys2Proof/Machine/Bits.lean ====
section
/-! DEFINITION. Bytes and words (R13), CRC-16/CCITT (R76) and CRC-32 (R118). -/

namespace Sys2Proof.Machine

/-- The low `n` bytes of a value, least significant first (R13). -/
def leBytes (n : Nat) (v : Nat) : List Byte :=
  (List.range n).map fun i => BitVec.ofNat 8 (v >>> (8 * i))

/-- The value of bytes, least significant first. -/
def ofLe : List Byte → Nat
  | [] => 0
  | b :: bs => b.toNat + 256 * ofLe bs

/-- The bytes of a value, most significant first. -/
def beBytes (n : Nat) (v : Nat) : List Byte := (leBytes n v).reverse

def ofBe (bs : List Byte) : Nat := ofLe bs.reverse

/-- Bits [lo + n - 1 : lo] of a word as a number. -/
def bits {w : Nat} (v : BitVec w) (lo n : Nat) : Nat := (v.toNat >>> lo) % 2 ^ n

/-- One bit of a word. -/
def bit {w : Nat} (v : BitVec w) (i : Nat) : Bool := v.getLsbD i

/-- A 32-bit word from fields, each given with its lowest bit. -/
def word (fs : List (Nat × Nat)) : W32 := BitVec.ofNat 32 ((fs.map fun f => f.1 <<< f.2).foldl (· ||| ·) 0)

/-- Add one, staying at the maximum. -/
def satInc {w : Nat} (v : BitVec w) : BitVec w := if v = BitVec.allOnes w then v else v + 1

/-- A count that saturates at the width of its field. -/
def satNat (w : Nat) (n : Nat) : BitVec w := BitVec.ofNat w (min n (2 ^ w - 1))

/-- A value held within bounds. -/
def clampNat (lo hi n : Nat) : Nat := max lo (min hi n)

/-- Zero bytes. -/
def zeros (n : Nat) : List Byte := List.replicate n 0

/-- Bytes at an offset, padded with zeros past the end. -/
def slice (bs : List Byte) (off n : Nat) : List Byte :=
  let t := (bs.drop off).take n
  t ++ zeros (n - t.length)

/-- `bs` with `d` written at `off`. -/
def splice (bs : List Byte) (off : Nat) (d : List Byte) : List Byte :=
  bs.take off ++ d ++ bs.drop (off + d.length)

/-- One bit of CRC-16/CCITT: polynomial 0x1021, most significant bit first (R76). -/
def crc16Bit (c : W16) : W16 := if bit c 15 then (c <<< 1) ^^^ 0x1021 else c <<< 1

def crc16Byte (c : W16) (b : Byte) : W16 :=
  (List.range 8).foldl (fun c _ => crc16Bit c) (c ^^^ (b.setWidth 16 <<< 8))

/-- CRC-16/CCITT over bytes, initial value 0xFFFF (R76). -/
def crc16 (bs : List Byte) : W16 := bs.foldl crc16Byte 0xFFFF

/-- One bit of the reflected CRC-32 (R118). -/
def crc32Bit (c : W32) : W32 := if bit c 0 then (c >>> 1) ^^^ 0xEDB88320 else c >>> 1

def crc32Byte (c : W32) (b : Byte) : W32 :=
  (List.range 8).foldl (fun c _ => crc32Bit c) (c ^^^ b.setWidth 32)

/-- CRC-32 of IEEE 802.3 (R118). -/
def crc32 (bs : List Byte) : W32 := bs.foldl crc32Byte 0xFFFFFFFF ^^^ 0xFFFFFFFF

/-- The bit set of a list of flags, bit 0 first. -/
def flagBits (n : Nat) (f : Nat → Bool) : Nat :=
  (List.range n).foldl (fun a i => if f i then a + 2 ^ i else a) 0

end Sys2Proof.Machine
end

