-- ==== Sys2Proof/Config.lean ====
section
/-! DEFINITION. What one part fixes for good (fuses, ROM, keys) and the FREE VALUES: constants with no body, so
that no proof can see what they are. Each is named in the assumption log (entries 4 and 5 and the entry its
docstring names). -/

namespace Sys2Proof.Config

/-! ### Fuses and ROM (log 4) -/

/-- Serial number, bytes 8-15 of manifest field 0x01 (Table NARROW-8). -/
opaque serial : W64
/-- Silicon revision, byte 4 of manifest field 0x01. -/
opaque siliconRev : Byte
/-- Firmware version, bytes 5-7 of manifest field 0x01. -/
opaque fwVersion : BitVec 24
/-- IDCODE bits [11:0]; the manual gives bits [31:12] only (R483). -/
opaque idcodeLow : BitVec 12
/-- TIM_RXLAT.LANE and .NARROW (Table TIDE-9). -/
opaque rxlatLane : W16
opaque rxlatNarrow : W16
/-- HUP_CFG and HUP_CHG as the fuses hold them (Table HUP-10). -/
opaque fuseVmin : Byte
opaque fuseCapmin : W16
opaque fuseVtgt : BitVec 7
opaque fusePlim : BitVec 4
/-- QUY_ALIGN.DELAY (Table CASC-8). -/
opaque quayDelay : Byte
/-- UCS_ROMID (Table FLT-6). -/
opaque romEngine : W16
opaque romSeq : W16
/-- Bit c - 8: colour c has a provisioned key (GRD_CRED.KEY), and the keys themselves (R220). -/
opaque colourKeyMask : Byte
opaque colourKey : Nat → List Byte
/-- The device chain key (R278), which never leaves the seal block. -/
opaque chainKey : List Byte
/-- The device certificate in DER, at most 1024 bytes (R283). -/
opaque certificate : List Byte
/-- The largest credit depth the part offers, 4 to 32 (R101, R126). -/
opaque creditDepth : Byte

/-! ### Functions the manual names but does not give (log 4) -/

/-- The ECDSA P-256 signature under the device key: r then s, 64 bytes big-endian (R281). The number of the
signature is an argument, since a signature may be randomised. -/
opaque ecdsaSign : Nat → Digest → BitVec 512
/-- One parity byte of an LDPC codeword, of the light code or the strong one: the manual names the codes and gives no
parity-check matrix (R331, log 148). Arguments: light, data and metadata, the byte's place. -/
opaque ldpcParity : Bool → List Byte → Nat → Byte
/-- Whether a patch blob's signature holds under Oluoc's patch key (R437). -/
opaque patchSignatureOk : List Byte → Bool
/-- The patch identity a blob carries, its words of patch RAM, its match enables, the silicon revision it names
and whether it fits the firmware (R437): the blob's layout is not given. -/
opaque patchIdentity : List Byte → W32
opaque patchWords : List Byte → List (BitVec 96)
opaque patchMatches : List Byte → List (W16 × Byte)
opaque patchSiliconRev : List Byte → Byte
opaque patchFirmwareFits : List Byte → Bool
/-- The salted HMAC kept of a password (R221); its form is not given. -/
opaque passwordMac : W64 → List Byte → Digest

/-! ### Free values: an argument is the free-value counter of State (log 5) -/

/-- A fresh 64-bit value (challenges, salts, keys). -/
opaque freeWord : Nat → W64
/-- A fresh region key (R216). -/
opaque freeKey : Nat → Key
/-- How far the disciplined counter has moved since it was last seen, before the next boundary (log 6). -/
opaque freeElapsed : Nat → Nat
/-- A choice the manual leaves to the device (a row, an open block, what survives an unclean removal). -/
opaque freeChoice : Nat → Nat
opaque freeBool : Nat → Bool

/-- The 4 KiB page of the retained SRAM that holds one of the contents of R414, in the order of the rule (log 158). -/
opaque retainedPage : Nat → Nat

/-- Whether a figure in 0.25 mJ is rounded up (log 12). Arguments: the exact figure in 1e-10 mJ. -/
opaque roundUpEnergy : Nat → Bool
/-- Whether a measured capacitance is rounded up to the next µF (log 12). Argument: the drop in mV. -/
opaque roundUpCap : Nat → Bool
/-- TIM_FREQ.CORR where the exact correction is no multiple of 2^-10 ppm, and its saturation (log 13). -/
opaque roundFreq : Int → W32

/-- Whether a figure shown in % (or a fraction of it) is rounded up (log 47). Arguments: the exact ratio's two terms. -/
opaque roundUpPct : Nat → Nat → Bool

end Sys2Proof.Config
end

