-- ==== Sys2Proof/Machine/State.lean ====
section
/-! DEFINITION. The state of one OC9640 as plain data, block by block, and `State.reset`, the state at the end of a
Total reset, before its exit sequence runs (log 3). Registers that software writes are kept as words under the
register's name; RO registers that only report are computed (Machine/Registers.lean). -/

namespace Sys2Proof.Machine

/-! ### Why a step may stop -/

/-- No rule leaves the chip without a state: HALT (R419), the strap and trim safe states (R411, R412) and power
off are states. So there is no fault, and `exec` never answers one. -/
inductive Fault
  deriving DecidableEq, Repr

/-- Why a command has no meaning. -/
inductive Refusal where
  /-- Raised by a dispatch arm whose meaning is not written yet. Safe: nothing can be proved of such a step. -/
  | notModelled (mnemonic : String)
  deriving DecidableEq, Repr

/-! ### Names of the manual's codes -/

/-- Status codes (Table BERTH-9). -/
inductive Status where
  | ok | part
  | unknownOp | badField | blockCrc | oversize | range | truncatedPush | badRegion | notInStream | badTarget
  | stackFault | poolFull | badSignature
  | denied | locked | badPassword | entryBlocked | notService | gateTimeout | counterBound
  | readOnly | holdLimit | belowMinimum | mediaExhausted | logbookFull | mediaLost | saturated
  | energyWait | writeThrough
  | busy | overReserved | wrongState | queueFull | aborted | flushed | domainOff
  | fenced | memberLost | memUncorrectable | machineCheck | colourFault
  | halted
  deriving DecidableEq, Repr

/-- Berth states (Table BERTH-3). -/
inductive BState where
  | empty | unallocated | loading | loaded | ready | running | waiting | quiesced | stopped
  deriving DecidableEq, Repr

/-- Wait causes (Table BERTH-4); `none` is code 0. -/
inductive WaitWhy where
  | none | waitt | waite | data | ledger | order | gate | upPath | die | cascade
  deriving DecidableEq, Repr

/-- Fault classes, lowest first (R422). -/
inductive Cls where
  | note | degrade | fence | halt
  deriving DecidableEq, Repr

/-- Reset reaches (Table RST-1), narrowest first. -/
inductive Reach where
  | block | warm | cold | total
  deriving DecidableEq, Repr

/-! ### Time (02) -/

/-- Quality states (Table TIDE-6). -/
inductive Quality where
  | synced | holdover | freeRunning
  deriving DecidableEq, Repr

/-- A latched counter value and its quality (R57). -/
structure Snapshot where
  ns : Pair 64
  qual : W16
  deriving DecidableEq, Repr

/-- A sync marker whose time has not come yet (R62). -/
structure Marker where
  number : Byte
  instant : W64
  lane : Bool
  tidesLeft : Nat
  /-- It came while a step was pending: its time counts nowhere (R62, R65). -/
  dropped : Bool
  deriving DecidableEq, Repr

structure Tim where
  /-- The disciplined counter (R56). -/
  counter : W64
  /-- The next tide boundary (R37, R39). -/
  next : W64
  period : BitVec 2
  /-- A period that starts at the first common boundary (R36). -/
  newPeriod : Option (BitVec 2)
  /-- A boundary has just opened the tide and no time has passed: a pending step may be applied (R39). -/
  opened : Bool
  tideCount : W32
  quality : Quality
  /-- Magnitude of the last used marker's offset in ns, and the counter when it was used (Table TIDE-7, log 130). -/
  usedOffset : Nat
  usedAt : W64
  qualified : Nat
  outliers : Nat
  markers : Byte
  /-- Markers seen whose times may still come. -/
  marks : List Marker
  /-- Offset of a step that waits for the next boundary (R65). -/
  step : Option Int
  /-- The pair of R57 for the host. -/
  snap : Snapshot
  htl : W32
  hth : W32
  htSeq : Byte
  servo : W32
  stepThr : W32
  syncAge : W32
  holdMax : W32
  /-- The values in force since the last boundary (R71). -/
  servoNow : W32
  stepThrNow : W32
  syncAgeNow : W32
  holdMaxNow : W32
  /-- Last offset in ns, and the frequency and rate corrections in 2^-25 ppm (R65, log 13). -/
  offset : Int
  freq : Int
  rate : Int
  mkAcc : W32
  mkOutlier : W16
  mkLate : W16
  steps : W16
  alml : W32
  almh : W32
  /-- The alarm in AON with its complement (R206). -/
  alarm : Pair 64
  armed : Bool
  fired : Bool
  /-- A boundary has come whose time is at or past the armed alarm's: the alarm fires (R59, R206). -/
  alarmDue : Bool
  /-- A time snapshot has failed its check in this tide: a second one marks time free-running (Table ARCH-4). -/
  snapBad : Bool
  overCount : W16
  overMax : W16
  /-- Rung-5 share of the last tide in 0.1 % (Table TIDE-9). -/
  bgUse : Byte
  deriving DecidableEq, Repr

def Tim.init : Tim where
  counter := 0
  next := 125000
  period := 1
  newPeriod := none
  opened := false
  tideCount := 0
  quality := .freeRunning
  usedOffset := 0
  usedAt := 0
  qualified := 0
  outliers := 0
  markers := 0
  marks := []
  step := none
  snap := { ns := Pair.mk' 0, qual := 0x8000 }
  htl := 0
  hth := 0
  htSeq := 0
  servo := 0xC863
  stepThr := 1000
  syncAge := 2000
  holdMax := 3600
  servoNow := 0xC863
  stepThrNow := 1000
  syncAgeNow := 2000
  holdMaxNow := 3600
  offset := 0
  freq := 0
  rate := 0
  mkAcc := 0
  mkOutlier := 0
  mkLate := 0
  steps := 0
  alml := 0
  almh := 0
  alarm := Pair.mk' 0
  armed := false
  fired := false
  alarmDue := false
  snapBad := false
  overCount := 0
  overMax := 0
  bgUse := 0

/-! ### Completions, events and the up path (05) -/

/-- A completion parcel's payload (Table BERTH-6). -/
structure Completion where
  status : Status
  z : Bool
  n : Bool
  c : Bool
  e : Bool
  interim : Bool
  resident : Bool
  opcode : Byte
  qfree : Byte
  done : W32
  first : W32
  cseq : W32
  result : W64
  /-- Final, and counted by CSEQ: neither an interim one nor that of a refused push (R162, R497). -/
  counted : Bool
  deriving DecidableEq, Repr

/-- An event parcel's payload (R163). -/
structure EventRec where
  code : Byte
  arg : W32
  time : W64
  qual : W16
  deriving DecidableEq, Repr

inductive UpBody where
  | data (bytes : List Byte) (last : Bool)
  | completion (c : Completion)
  | event (e : EventRec)
  deriving DecidableEq, Repr

structure UpParcel where
  berth : W16
  tag : W16
  body : UpBody
  deriving DecidableEq, Repr

/-! ### Narrow mode (03) -/

structure Token where
  op : Byte
  tag : Byte
  arg : W32
  deriving DecidableEq, Repr

/-- A response token (Table NARROW-2); its CRC-16 is computed. -/
structure Response where
  status : Status
  tag : Byte
  result : W32
  deriving DecidableEq, Repr

/-- The host-driven block the card waits for (R89). -/
inductive Awaited where
  | ctlWr (addr : W16)
  | put (len : Nat)
  deriving DecidableEq, Repr

structure Narrow where
  /-- The last token executed, what answered it and the card-driven block with its CRC-16 (R77, R88). -/
  last : Option Token
  response : Option Response
  block : Option (List Byte)
  dataResponse : Option Response
  awaiting : Option Awaited
  /-- The parcel of the last PUT has been received (R82). -/
  putDone : Bool
  /-- Up parcels in order; the front one has been fetched by GET (R83). -/
  up : List UpParcel
  fetched : Bool
  /-- Negotiation: counters in a row, PROPOSE shut until a reset (R103). -/
  counters : Nat
  shut : Bool
  tokCrc : Byte
  oversize : Byte
  timeout : Byte
  deriving DecidableEq, Repr

def Narrow.init : Narrow where
  last := none
  response := none
  block := none
  dataResponse := none
  awaiting := none
  putDone := false
  up := []
  fetched := false
  counters := 0
  shut := false
  tokCrc := 0
  oversize := 0
  timeout := 0

/-! ### The link in lane mode (04) -/

inductive LinkMode where
  | narrow | training | lane | doze
  deriving DecidableEq, Repr

/-- What the receiver discards after a NAK (Table LANE-6). -/
inductive RxMode where
  | normal
  | untilSeq
  | untilRealign
  deriving DecidableEq, Repr

/-- What the card has put on its up lanes; `busy` is the header's BUSY bit, as SB0 stood when it was sent (R129). -/
inductive UpFrame where
  | control (ackSeq : BitVec 12) (nak : Option Byte) (cret : Byte) (busy : Bool)
  | doze (answer reason : Byte) (busy : Bool)
  | wake (busy : Bool)
  | realign
  | electricalIdle
  | parcel (seq : BitVec 12) (p : UpParcel) (busy : Bool)
  deriving DecidableEq, Repr

structure Link where
  mode : LinkMode
  trainFail : Bool
  /-- Agreed parameters with their complement (R105). -/
  agreed : Pair 26
  /-- An accepted proposal with lanes stands (Table NARROW-5). -/
  accepted : Bool
  /-- Payload maximum in force (R81). -/
  pay : Nat
  depth : Byte
  usable : BitVec 6
  dn1 : BitVec 6
  dn2 : BitVec 6
  dn3 : BitVec 6
  up1 : BitVec 6
  up2 : BitVec 6
  up3 : BitVec 6
  active : BitVec 6
  down : BitVec 6
  /-- The training in progress is a fast retrain (R115). -/
  fast : Bool
  txNext : BitVec 12
  txAcked : BitVec 12
  replayBuf : List (BitVec 12 × UpParcel)
  headReplays : Nat
  /-- Parcels of the replay buffer were crossing in a loop-back slice: their next replay counts for nothing (R125). -/
  sliceLost : Bool
  /-- When its fast retrains of the last second began (R124). -/
  retrainAt : List W64
  rxLast : BitVec 12
  rxMode : RxMode
  creditDown : Nat
  creditUp : Nat
  /-- Credits owed to the host until the write share has room (R127). -/
  withheld : Nat
  replayUs : Byte
  replayCount : W16
  hcrc : Byte
  pcrc : Byte
  format : Byte
  oversize : Byte
  retrainCount : Byte
  seqGap : Byte
  noCredit : Byte
  dozeAllow : Bool
  dozeDecline : Byte
  dozeAccepted : Bool
  wakeEn : Bool
  wakeLow : Bool
  hrefOk : Bool
  armed : Bool
  /-- Frames sent on the up lanes since the last command on the lanes began. -/
  sent : List UpFrame
  /-- A NAK of reason 0x06 stands: the replay waits for a credit (Table LANE-6). -/
  replayOnCredit : Bool
  deriving DecidableEq, Repr

def Link.init : Link where
  mode := .narrow
  trainFail := false
  agreed := Pair.mk' 0
  accepted := false
  pay := 512
  depth := 0
  usable := 0x3F
  dn1 := 0
  dn2 := 0
  dn3 := 0
  up1 := 0
  up2 := 0
  up3 := 0
  active := 0
  down := 0
  fast := false
  txNext := 0
  txAcked := 0xFFF
  replayBuf := []
  headReplays := 0
  sliceLost := false
  retrainAt := []
  rxLast := 0xFFF
  rxMode := .normal
  creditDown := 0
  creditUp := 0
  withheld := 0
  replayUs := 32
  replayCount := 0
  hcrc := 0
  pcrc := 0
  format := 0
  oversize := 0
  retrainCount := 0
  seqGap := 0
  noCredit := 0
  dozeAllow := true
  dozeDecline := 0
  dozeAccepted := false
  wakeEn := true
  wakeLow := false
  hrefOk := false
  armed := false
  sent := []
  replayOnCredit := false

/-! ### Places in flash (10) -/

/-- The mode of the blocks that hold a copy (Table MEDIA-1): pSLC or TLC. -/
inductive Loc where
  | seedbed | tlc
  deriving DecidableEq, Repr

/-- A page's place for one map unit: its physical unit number (R304), its row, its mode. -/
structure Place where
  entry : W32
  row : Nat
  loc : Loc
  deriving DecidableEq, Repr

/-! ### Berths (05) -/

/-- One instruction with its extension words, as the queue or the pool holds it (R170). -/
structure QInstr where
  tag : W16
  word : W64
  ext : List W64
  deriving DecidableEq, Repr

/-- Data of a data parcel that waits in the write share (R155). -/
structure Chunk where
  tag : W16
  bytes : List Byte
  last : Bool
  deriving DecidableEq, Repr

/-- A berth's session (R220, R208, R222). -/
structure Session where
  set : BitVec 16
  chal : Option W64
  /-- Tides left before a new challenge is given. -/
  pause : Nat
  deriving DecidableEq, Repr

/-- A reservation in force (R159); `stamp` orders them, newest last (R55). -/
structure Resv where
  rate : W16
  up : Bool
  regions : W64
  stamp : Nat
  deriving DecidableEq, Repr

/-- What an instruction in progress waits for. -/
inductive Phase where
  /-- Its next item is in the ledger's queue (R358). -/
  | ledger
  /-- Its data parcels (R155). -/
  | data
  /-- A slot (R250, R260). -/
  | slot
  /-- Seedbed room or a free row (R266, R311). -/
  | room
  /-- A die read (R26). -/
  | die
  /-- Its effect to become durable (R181, R359). -/
  | durable
  | waitt
  | waite
  | order
  | gate
  /-- Its own gate, or its own functions, to drain (R230, R209). -/
  | drain
  | upPath
  | cascade
  /-- The pause after a wrong response (R222). -/
  | challenge
  /-- Step 4 of a forced erase (R241). -/
  | erase
  deriving DecidableEq, Repr

/-- A part of an access (R179): where it begins in the access, its blocks, its colour, and whether the session holds that. -/
structure Part where
  off : Nat
  len : Nat
  colour : Nat
  ok : Bool
  deriving DecidableEq, Repr

/-- An instruction in progress. `region`, `start` and `len` are those of its first address word, `region2` and
`start2` those of COPY's destination; `pos` counts the blocks already passed. -/
structure Cur where
  ins : QInstr
  phase : Phase
  region : Nat
  start : Nat
  len : Nat
  region2 : Nat
  start2 : Nat
  pos : Nat
  done : Nat
  first : Option Nat
  /-- The piece in progress has been admitted by the ledger, or runs write-through. -/
  admitted : Bool
  writeThrough : Bool
  denied : Bool
  lost : Bool
  /-- The destination's or the member's error that ends the instruction once its work is done. -/
  status : Status
  /-- Data taken for the piece in progress, or staged for delivery. -/
  acc : List Byte
  /-- The last of its data parcels, marked END, has been taken (R155). -/
  tookLast : Bool
  /-- Decode outcomes of its die read, and the offsets of the blocks that the dies are read for. -/
  blocks : List (Nat × Decode)
  onDie : List Nat
  /-- The parts it was checked under (R229, R258). -/
  parts : List Part
  /-- Where its data lie in scratch, when it names scratch (R174). -/
  scratch : Option Nat
  /-- The piece in progress: the order of its admission, the journal's sequence number then (Table CODE-3), and the pages
  given to it (R24, R325). -/
  stamp : Nat
  aseq : W64
  places : List Place
  /-- Items still to become durable, or sub-instructions outstanding. -/
  open_ : Nat
  /-- A target: tide number of WAITT and WAITE, count of ORDER, sequence number of SEAL. -/
  target : Nat
  result : Option W64
  deriving DecidableEq, Repr

/-- The registers of Table BERTH-10 marked "selected" that hold what was written for a berth. -/
structure BthWindow where
  op : BitVec 3
  cmdSt : Status
  /-- BTH_POOL.UNITS and BTH_SCR.PAGES as last written, for the next ALLOC. -/
  units : Nat
  pages : Nat
  resv : W32
  resvRl : W32
  resvRh : W32
  vsel : BitVec 4
  deriving DecidableEq, Repr

def BthWindow.init : BthWindow :=
  { op := 0, cmdSt := .ok, units := 0, pages := 0, resv := 0, resvRl := 0, resvRh := 0, vsel := 0 }

/-- The parts of a status block that show the berth as it stands, as a reset keeps them (R143, R164, Table BERTH-8). -/
structure KeptBlock where
  flags : BitVec 4
  reserved : Bool
  resident : Bool
  pc : W16
  deriving DecidableEq, Repr

/-- A status block as it is committed to flash (R164, Table BERTH-8): all but STATE, which shows the berth. -/
structure BlockImage where
  block : KeptBlock
  cseq : W32
  rseq : W32
  status : Status
  opcode : Byte
  tag : W16
  done : W32
  first : W32
  qfree : Byte
  badTag : W16
  badStat : Byte
  deriving DecidableEq, Repr

def BlockImage.init : BlockImage where
  block := { flags := 0, reserved := false, resident := false, pc := 0 }
  cseq := 0
  rseq := 0
  status := .ok
  opcode := 0
  tag := 0
  done := 0
  first := 0
  qfree := 0
  badTag := 0
  badStat := 0

structure Berth where
  v : Vector W64 16
  z : Bool
  n : Bool
  c : Bool
  e : Bool
  stack : List W16
  pc : W16
  queue : List QInstr
  inbox : List W64
  session : Session
  kind : Bool
  stopErr : Bool
  rcomp : Bool
  scolour : BitVec 4
  resv : Option Resv
  state : BState
  why : WaitWhy
  poolBase : Nat
  poolUnits : Nat
  scrBase : Nat
  scrPages : Nat
  loadPtr : Nat
  cseq : W32
  rseq : W32
  lastStatus : Status
  lastOpcode : Byte
  lastTag : W16
  lastDone : W32
  lastFirst : W32
  lastQfree : Byte
  badTag : W16
  badStat : Byte
  pend : BitVec 16
  events : Vector W64 16
  lastStat : Status
  snap : Snapshot
  cur : Option Cur
  /-- A STOP waits for the instruction in progress, whose record or counter step can no longer be taken back (R150,
  log 63). -/
  stopDue : Bool
  /-- What the block's FLAGS, CLASS, KIND and PC show since a reset, until a final completion (log 143). -/
  kept : Option KeptBlock
  /-- The status block as last committed (R164). -/
  saved : BlockImage
  chunks : List Chunk
  win : BthWindow
  deriving DecidableEq, Repr

def Berth.init : Berth where
  v := Vector.replicate 16 0
  z := false
  n := false
  c := false
  e := false
  stack := []
  pc := 0
  queue := []
  inbox := []
  session := { set := 1, chal := none, pause := 0 }
  kind := false
  stopErr := false
  rcomp := false
  scolour := 0
  resv := none
  state := .empty
  why := .none
  poolBase := 0
  poolUnits := 0
  scrBase := 0
  scrPages := 0
  loadPtr := 0
  cseq := 0
  rseq := 0
  lastStatus := .ok
  lastOpcode := 0
  lastTag := 0
  lastDone := 0
  lastFirst := 0
  lastQfree := 0
  badTag := 0
  badStat := 0
  pend := 0
  events := Vector.replicate 16 0
  lastStat := .ok
  snap := { ns := Pair.mk' 0, qual := 0x8000 }
  cur := none
  stopDue := false
  kept := none
  saved := .init
  chunks := []
  win := .init

/-- The BTH_ registers that are not per berth (Table BERTH-11). -/
structure BthRegs where
  sel : W32
  resvSt : Status
  /-- Manifest field 0x0B: unreported completions at the last removal or reset (R165). -/
  unrep : W32
  discard : W32
  evMask : W32
  evBerth : W32
  /-- Orders reservations (R55). -/
  stamp : Nat
  deriving DecidableEq, Repr

def BthRegs.init : BthRegs where
  sel := 0
  resvSt := .ok
  unrep := 0
  discard := 0
  evMask := 4
  evBerth := 0
  stamp := 0

/-! ### Regions, guard and lock (07) -/

structure Region where
  cfg : Pair 32
  siz : Pair 32
  ringCfg : Pair 32
  /-- The region's key (R216), none once destroyed. -/
  key : Option Key
  fenced : Bool
  mro : Bool
  deriving DecidableEq, Repr

def Region.init : Region where
  cfg := Pair.mk' 0
  siz := Pair.mk' 0
  ringCfg := Pair.mk' 0
  key := none
  fenced := false
  mro := false

inductive LockState where
  | unlocked | locked | erasing
  deriving DecidableEq, Repr

/-- What is kept of a password (R221). -/
structure Password where
  salt : W64
  mac : Digest
  deriving DecidableEq, Repr

/-- The closed guard gate (R229): its regions, its owner and the tides left. -/
structure Gate where
  regions : W64
  owner : BerthId
  tidesLeft : Nat
  deriving DecidableEq, Repr

structure Guard where
  lock : Pair 2
  password : Option Password
  tries : Nat
  colourPw : Vector (Option Password) 8
  gate : Option Gate
  timeouts : W16
  deny : W32
  hmacFail : W16
  tagFlt : W16
  erasePct : Byte
  eraseResumed : Bool
  eraseDone : BitVec 4
  /-- Step 3 of Table REGION-7 is durable, and the berth that issued FERASE. -/
  eraseKeysDone : Bool
  eraseBerth : W16
  /-- Its TAG, for the status block of a resumed erase (R243). -/
  eraseTag : W16
  /-- The seconds that step 4 took on this controller, for the forced-erase record. -/
  eraseSecs : W32
  /-- GRD_PWSEL.COLOUR as last committed (Table REGION-9). -/
  pwSel : BitVec 3
  deriving DecidableEq, Repr

def Guard.init : Guard where
  lock := Pair.mk' 0
  password := none
  tries := 0
  colourPw := Vector.replicate 8 none
  gate := none
  timeouts := 0
  deny := 0
  hmacFail := 0
  tagFlt := 0
  erasePct := 0
  eraseResumed := false
  eraseDone := 0
  eraseKeysDone := false
  eraseBerth := 0
  eraseTag := 0
  eraseSecs := 0
  pwSel := 0

/-! ### Rings and holds (08) -/

/-- A completed append unit: its number (position / 64) and the stored time and quality (R249). -/
structure RUnit where
  no : Nat
  time : W64
  qual : W16
  deriving DecidableEq, Repr

/-- A slot taken for a new segment by a unit that is not complete yet (Table RING-4): the segment that the wrap dropped for
it, if any, and what `cut` was before. -/
structure Taken where
  seg : Nat
  dropped : Option Nat
  cutWas : Nat
  deriving DecidableEq, Repr

/-- A ring: `k` slots of which `segs` hold a segment each, oldest first (R245, R246). -/
structure Ring where
  tail : Pair 56
  k : Nat
  segs : List Nat
  units : List RUnit
  wraps : W32
  pinWait : W16
  /-- Slots taken by units that are not complete yet, oldest first. -/
  taken : List Taken
  /-- Segments that left, each with the first stored time of its units, as far as RINGPOS and HOLD need them (R198, R201). -/
  gone : List (Nat × W64)
  /-- The head, the first segment of the rolling window: the wrap moves it on past what it drops (R246, R250, R256). -/
  cut : Pair 64
  /-- Fenced for a complement mismatch (R28, R420). -/
  mismatch : Bool
  deriving DecidableEq, Repr

def Ring.init : Ring where
  tail := Pair.mk' 0
  k := 0
  segs := []
  units := []
  wraps := 0
  pinWait := 0
  taken := []
  gone := []
  cut := Pair.mk' 0
  mismatch := false

/-- The pairs of a ring hold (Table ARCH-4). -/
def Ring.ok (x : Ring) : Bool := x.tail.ok && x.cut.ok

def Ring.head (x : Ring) : Nat := x.cut.val.toNat

/-- A hold (R253): the segments it holds, its own colour if CV = 1, the time it was made. -/
structure Hold where
  id : Nat
  region : Nat
  first : Nat
  segs : List Nat
  colour : Option (BitVec 4)
  time : W64
  /-- Order of making, so that the later colour applies (R199). -/
  stamp : Nat
  /-- A RELEASE or HARVEST of it has been admitted (R260). -/
  leaving : Bool
  deriving DecidableEq, Repr

structure RingRegs where
  sel : W32
  hsel : W32
  tpace : W32
  tpaceNow : W32
  tailSnap : Pair 56
  /-- General seedbed: its size in bytes, set at each boundary (R265). -/
  gsbSize : Nat
  xplant : Nat
  stamp : Nat
  deriving DecidableEq, Repr

def RingRegs.init : RingRegs where
  sel := 0
  hsel := 0
  tpace := 0x5A1C
  tpaceNow := 0x5A1C
  tailSnap := Pair.mk' 0
  gsbSize := 0
  xplant := 0
  stamp := 0

/-! ### Stored data (the map of 10, the codes of 11) -/

/-- The code of a page (Table CODE-1); the compat code with its `t`. -/
inductive Code where
  | strong | light
  | bch (t : Nat)
  deriving DecidableEq, Repr

/-- A map unit as it stands in flash: the stored bytes and the key they are encrypted under, none for a map page (R334);
what its metadata name: first logical block, region, LOST, write sequence (Table CODE-3, R335); its code and place. -/
structure Copy where
  cipher : List Byte
  key : Option Key
  block : Nat
  region : Nat
  lost : Bool
  seq : W64
  code : Code
  place : Place
  deriving DecidableEq, Repr

/-- New content of a map unit that is not durable yet: the order of its admission (R24), the 512-byte sectors it covers,
its data, none to unmap, and the page given to it at admission (R325). -/
structure Version where
  stamp : Nat
  cover : Byte
  data : Option (List Byte)
  place : Option Place
  seq : W64
  thru : Bool
  lost : Bool
  /-- Colour tag of the write-share page (R232). -/
  tag : BitVec 4
  deriving DecidableEq, Repr

/-- A map unit: the copy that the durable map names, and the versions in the write share, the latest admission first. -/
structure MUnit where
  base : Option Copy
  fresh : List Version
  deriving DecidableEq, Repr

/-- A copy in flash that the map does not name: a stale one, or the orphan of a version that vanished (R309, R316). -/
structure Stale where
  unit : Nat
  copy : Copy
  orphan : Bool
  deriving DecidableEq, Repr

/-! ### The logbook and the counters (09) -/

structure LogRec where
  typ : W16
  qual : W16
  colour : BitVec 4
  card : Bool
  seq : W64
  time : W64
  prev : Digest
  payload : List Byte
  /-- Durable in copy A, in copy B. -/
  durA : Bool
  durB : Bool
  /-- The berth that waits for it, and what the ledger gets back (R356). -/
  owner : Option BerthId
  cost : Nat
  /-- The block of copy A and of copy B that holds it. -/
  blkA : Nat
  blkB : Nat
  deriving DecidableEq, Repr

/-- An open pSLC block of a copy (R274): its number, its die, logical blocks used, bytes in the last one. -/
structure LogBlk where
  id : Nat
  die : Nat
  used : Nat
  off : Nat
  deriving DecidableEq, Repr

/-- One copy (R272): its eight open blocks, the closed blocks, its free blocks, the next block number. -/
structure LogCopy where
  opens : Vector LogBlk 8
  closed : List LogBlk
  free : Nat
  nextBlk : Nat
  deriving DecidableEq, Repr

/-- A checkpoint that has been sealed: its SEQ and its THROUGH. -/
structure CpRef where
  seq : W64
  through : W64
  deriving DecidableEq, Repr

/-- A checkpoint whose signature is being formed (R280). -/
structure CpSigning where
  through : W64
  head : Digest
  owner : Option BerthId
  /-- What the ledger gets back once the record is durable. -/
  cost : Nat
  /-- When the members were asked, and what each has answered: THROUGH, HEAD and SPAN (R282). -/
  asked : W64
  heads : Vector (Option (List Byte)) 4
  deriving DecidableEq, Repr

structure Logbook where
  recs : List LogRec
  next : W64
  arch : W64
  old : W64
  lastCp : W64
  cps : List CpRef
  signing : List CpSigning
  copyA : LogCopy
  copyB : LogCopy
  spare : Nat
  retired : Byte
  lent : Nat
  /-- Full or exhausted until 8 spare blocks are free again (Table LOG-5). -/
  full : Bool
  /-- No spare block was free; until Full ends (Table LOG-5). -/
  spent : Bool
  fenced : Bool
  oneCopy : Bool
  unsealed : W16
  /-- LOG_STAT.UNSEALED as last committed (R414). -/
  unsealedKept : W16
  /-- Records from here on were sealed since the last reset (LOG_RATE). -/
  rateFrom : W64
  wearMean : W16
  wearMax : W16
  sel : W32
  archSetL : W32
  archSetH : W32
  /-- An advance of the archive point that waits for the ledger, and the boundaries left (R291). -/
  archWait : Option (W64 × Nat)
  certOff : W32
  /-- The last four certificate bytes served, and signatures formed so far. -/
  certDat : W32
  signatures : Nat
  deriving DecidableEq, Repr

/-- Copy A lies on the even channels and copy B on the odd ones, one open block on the first die of each (R272, R274, log
153). -/
def LogCopy.init (copyB : Bool) : LogCopy where
  opens := Vector.ofFn fun i => { id := i.val, die := 2 * i.val + copyB.toNat, used := 0, off := 0 }
  closed := []
  free := 163
  nextBlk := 8

/-- The genesis record (R277), sealed at provisioning: its time and quality are free (log 3). -/
def LogRec.genesis : LogRec where
  typ := 1
  qual := (Config.freeWord 0).setWidth 16
  colour := 0
  card := true
  seq := 0
  time := Config.freeWord 1
  prev := 0
  payload := (List.range 8).map fun i => (Config.serial >>> (8 * i)).setWidth 8
  durA := true
  durB := true
  owner := none
  cost := 0
  blkA := 0
  blkB := 0

def Logbook.init : Logbook where
  recs := [.genesis]
  next := 1
  arch := 0
  old := 0
  lastCp := 0
  cps := []
  signing := []
  copyA := .init false
  copyB := .init true
  spare := 166
  retired := 0
  lent := 0
  full := false
  spent := false
  fenced := false
  oneCopy := false
  unsealed := 0
  unsealedKept := 0
  rateFrom := 1
  wearMean := 0
  wearMax := 0
  sel := 0
  archSetL := 0
  archSetH := 0
  archWait := none
  certOff := 0
  certDat := 0
  signatures := 0

/-- A counter's two mirrors (none once its journal is gone) and its configuration (R293, R295). -/
structure Counter where
  a : Option (Pair 64)
  b : Option (Pair 64)
  cfg : Pair 32
  deriving DecidableEq, Repr

def Counter.init : Counter :=
  { a := some (Pair.mk' 0), b := some (Pair.mk' 0), cfg := Pair.mk' 0 }

structure Counters where
  c : Vector Counter 32
  /-- Entries in the journal block of each mirror, and whether the mirror has a journal (R296). -/
  usedA : Nat
  usedB : Nat
  liveA : Bool
  liveB : Bool
  /-- The second block of a mirror's pair is the one in use (R272, R296). -/
  secondA : Bool
  secondB : Bool
  fence : W32
  recov : W16
  sel : W32
  snap : Pair 64
  deriving DecidableEq, Repr

def Counters.init : Counters where
  c := Vector.replicate 32 .init
  usedA := 0
  usedB := 0
  liveA := true
  liveB := true
  secondA := false
  secondB := false
  fence := 0
  recov := 0
  sel := 0
  snap := Pair.mk' 0

/-! ### Media (10) -/

inductive RowClass where
  | tlc | seedbed | map | journal | logbook | spare
  deriving DecidableEq, Repr

/-- A row (R301): one block on each usable die of a stripe set, as die and block numbers, rising. -/
structure Row where
  id : Nat
  set : Fin 4
  cls : RowClass
  isOpen : Bool
  /-- Map units given out, in stripe order, and the code of the page that the last of them lies in. -/
  used : Nat
  code : Code
  blocks : List (Nat × Nat)
  /-- A move out of it has begun (R313). -/
  moving : Bool
  deriving DecidableEq, Repr

/-- One unit moved (R313, R314): its row, and its place in the new stripe. -/
structure Move where
  unit : Nat
  row : Nat
  place : Place
  deriving DecidableEq, Repr

/-- What LOCK or UNLOCK does to the password (Table REGION-6). -/
inductive PwChange where
  | keep
  | store (p : Password)
  | remove
  deriving DecidableEq, Repr

/-- What a GUARD or an APPLY replaced, for as long as its change is not durable (Table HUP-4). -/
structure OldCfg where
  regions : List (Nat × Region × Ring)
  holds : List Hold
  counters : List (Fin 32 × Pair 32)
  colourPw : Vector (Option Password) 8
  pwSel : BitVec 3
  map : Pair 4
  deriving DecidableEq, Repr

/-- What takes effect once a journal entry is programmed, and die work that starts then: the erase of a row (step 3 of
R313), the erases of a WEED that left `segs` (R316), RELEASE, HARVEST, a change of lock state, the purge of segments
that a smaller ring dropped (R262), steps 1 and 3 of a forced erase (Table REGION-7), status blocks in bench mode (R361). `hold` names the hold that a HOLD
made at its admission, `restore` what stands again if a GUARD or an APPLY vanishes. -/
inductive After where
  | erase (row : Nat)
  | weed (b : Option BerthId) (region start blocks done : Nat) (segs : List Nat)
  | hold (id : Nat)
  | release (id : Nat)
  | harvest (b : BerthId) (id region : Nat)
  | lock (b : BerthId) (st : BitVec 2) (pw : PwChange)
  | restore (old : OldCfg)
  | drop (region : Nat) (segs : List Nat)
  | weedRows (b : Option BerthId) (region start done : Nat) (rows : List Nat)
  | ferase (b : BerthId)
  | eraseKeys
  | answer (id : Nat)
  | blocks (xs : List (BerthId × BlockImage))
  deriving DecidableEq, Repr

/-- One change that the next journal entry makes durable (R307): the units it maps, the units it moves out of a row
(R313), what follows, the berth that waits for it and what the ledger gets back. -/
structure Change where
  units : List Nat
  /-- The admission of its units' versions (R24). -/
  stamp : Nat
  moves : List Move
  after : List After
  owner : Option BerthId
  cost : Nat
  /-- Write data in KiB that the item counted in HUP_ITEMS (0 for a map commit). -/
  kib : Nat
  /-- Blocks that DONE of its instruction counts for it (R150). -/
  blocks : Nat
  commit : Bool
  deriving DecidableEq, Repr

/-- Kinds of die operation (R49). -/
inductive DieKind where
  /-- The pages of one atomic piece (step 9 of Table ARCH-2). -/
  | program (ch : Change)
  | read (b : BerthId)
  | logCopy (seq : W64) (copyB : Bool)
  | ctrMirror (n : Fin 32) (value : W64) (mirrorB : Bool) (owner : Option BerthId) (cost : Nat)
  | journal (seq : W64) (changes : List Change)
  | relocate (m : Move)
  | transplant (ms : List Move)
  | copyRow (row : Nat) (ms : List Move)
  | eraseRow (row : Nat)
  | weedCopy (b : Option BerthId) (region start done : Nat) (rows : List Nat) (ms : List Move)
  | weedErase (b : Option BerthId) (region start done : Nat) (rows : List Nat)
  | patrol
  /-- A member reads records of its logbook for the master (R285). -/
  | memberLog (i : SubInstr)
  /-- A member reads one of its units for the master (R450). -/
  | memberRead (i : SubInstr)
  deriving DecidableEq, Repr

structure DieOp where
  id : Nat
  kind : DieKind
  /-- Die time left, by die, in ns (Table ARCH-6). -/
  need : List (Nat × Nat)
  /-- It has begun on its dies. -/
  run : Bool
  /-- Suspended erase (R50). -/
  suspended : Bool
  deriving DecidableEq, Repr

/-- Counts of the health report (Table MEDIA-6), kept since provisioning. -/
structure Health where
  hard : Nat
  soft : Nat
  rebuilt : Nat
  lost : Nat
  eraseFail : Nat
  programFail : Nat
  retired : Nat
  refreshed : Nat
  /-- Seconds per bin; the report gives whole minutes. -/
  tempBins : Vector Nat 16
  /-- Lowest and highest reading, lowest E_u in mJ; none before the first. -/
  tempLow : Option W16
  tempHigh : Option W16
  capLast : W32
  capLow : W32
  euLow : Option W32
  waits : Nat
  wt : Nat
  clean : Nat
  unclean : Nat
  passEnd : W64
  passes : Nat
  deriving DecidableEq, Repr

def Health.init : Health where
  hard := 0
  soft := 0
  rebuilt := 0
  lost := 0
  eraseFail := 0
  programFail := 0
  retired := 0
  refreshed := 0
  tempBins := Vector.replicate 16 0
  tempLow := none
  tempHigh := none
  capLast := 0
  capLow := 0
  euLow := none
  waits := 0
  wt := 0
  clean := 0
  unclean := 0
  passEnd := 0
  passes := 0

/-- What one item of a journal entry changes (R307). -/
inductive JKind where
  | unit | tail | hold | row | block
  deriving DecidableEq, Repr

/-- An item of a journal entry (R307): what it names and its new value, each with its complement. A replay that stops before
it leaves the unit at `was`. -/
structure JItem where
  kind : JKind
  name : Pair 64
  value : Pair 64
  was : Option Copy
  deriving DecidableEq, Repr

/-- A journal entry (R307). -/
structure JEntry where
  seq : Pair 64
  items : List JItem
  deriving DecidableEq, Repr

/-- A root (R308): its entry sequence number with its complement, and where the map pages lie. -/
structure Root where
  seq : Pair 64
  pages : List (Nat × W32)
  deriving DecidableEq, Repr

structure Ftl where
  rows : List Row
  nextRow : Nat
  freeRows : Vector Nat 4
  /-- Copies not yet erased that the map does not name (R309, R316). -/
  stale : List Stale
  changes : List Change
  /-- Orders the admissions of writes (R24). -/
  stamp : Nat
  jSeq : W64
  since : Nat
  perTide : W16
  /-- The entries that a replay from the older root reads, oldest first. -/
  journal : List JEntry
  /-- The two root slots; the newer one (R308). -/
  root0 : Root
  root1 : Root
  rootSlot : Bool
  /-- Map pages that differ in DRAM from the ones the root names, rising. -/
  dirty : List Nat
  /-- Spare blocks left on each die (R302). -/
  spares : Vector Nat 128
  /-- Blocks retired: die and block number. -/
  retiredBlks : List (Nat × Nat)
  /-- Erases of each block, by die and block number, 0 where not listed (R312). -/
  wear : List (Nat × Nat)
  retiredCount : W16
  /-- Blocks with one program failure (R323): die and block number. -/
  suspects : List (Nat × Nat)
  dieFence : BitVec 128
  chFence : BitVec 16
  recovMs : W16
  orphansK : W16
  sel : W32
  prune : W32
  pruneNow : W32
  patrol : W32
  patrolNow : W32
  refresh : W32
  refreshNow : W32
  /-- Units read in the pass that runs, and when its period began (R318). -/
  patrolPos : Nat
  patrolStart : W64
  passes : W32
  mapHitMib : W16
  missK : W16
  /-- Tag of the DRAM pages that hold a region's map pages (Table REGION-5). -/
  mapTags : Vector (BitVec 4) 64
  weeds : Nat
  weedRows : Nat
  /-- WEEDs that a removal cut: berth, TAG, region and start, for the status block at recovery (R317). -/
  weedsCut : List (BerthId × W16 × Nat × Nat)
  /-- Capacity absorbed under Table MEDIA-4, in MiB, and the ring slots taken by its row 2. -/
  lostMib : Nat
  slotsTaken : Nat
  exhausted : Bool
  health : Health
  /-- The counts and histories as the last root committed them (R328). -/
  healthKept : Health
  deriving DecidableEq, Repr

/-- The rows of the map store as provisioned, one of map pages and one of the journal and the roots in each set (R305, log
149). -/
def Row.provisioned (i : Nat) : Row where
  id := i
  set := Fin.ofNat 4 (i / 2)
  cls := if i % 2 = 0 then .map else .journal
  isOpen := true
  used := 0
  code := .strong
  blocks := (List.range 32).map fun d => (32 * (i / 2) + d, 888 + i % 2)
  moving := false

def Ftl.init : Ftl where
  rows := (List.range 8).map Row.provisioned
  nextRow := 8
  freeRows := Vector.replicate 4 888
  stale := []
  changes := []
  stamp := 0
  jSeq := 0
  since := 0
  perTide := 0
  journal := []
  root0 := { seq := Pair.mk' 0, pages := [] }
  root1 := { seq := Pair.mk' 0, pages := [] }
  rootSlot := false
  dirty := []
  spares := Vector.replicate 128 16
  retiredBlks := []
  wear := []
  retiredCount := 0
  suspects := []
  dieFence := 0
  chFence := 0
  recovMs := 0
  orphansK := 0
  sel := 0
  prune := 0x0418
  pruneNow := 0x0418
  patrol := 72
  patrolNow := 72
  refresh := 60
  refreshNow := 60
  patrolPos := 0
  patrolStart := 0
  passes := 0
  mapHitMib := 0
  missK := 0
  mapTags := Vector.replicate 64 0
  weeds := 0
  weedRows := 0
  weedsCut := []
  lostMib := 0
  slotsTaken := 0
  exhausted := false
  health := .init
  healthKept := .init

/-! ### Codes and memories (11) -/

structure Cod where
  sel : W32
  enc : W16
  hard : Byte
  soft : BitVec 2
  bch : Bool
  xor : BitVec 2
  hardCount : W32
  softCount : W32
  rebuild : W32
  lost : W32
  miscor : W16
  peakBits : W16
  peakCode : BitVec 2
  deriving DecidableEq, Repr

def Cod.init : Cod where
  sel := 0
  enc := 0
  hard := 0
  soft := 0
  bch := false
  xor := 0
  hardCount := 0
  softCount := 0
  rebuild := 0
  lost := 0
  miscor := 0
  peakBits := 0
  peakCode := 0

/-- A word that holds flipped bits (R347): byte, data mask, check mask. -/
structure Flipped where
  addr : W32
  byte : BitVec 3
  data : Byte
  check : BitVec 5
  deriving DecidableEq, Repr

/-- One protected memory (Table MEM-1). -/
structure Mem where
  ce : W32
  ue : W32
  lastCe : W32
  lastUe : W32
  remap : List W32
  withdrawn : List Nat
  flipAddr : W32
  flipMask : W32
  flipArmed : Bool
  flipHit : Bool
  flipped : List Flipped
  deriving DecidableEq, Repr

def Mem.init : Mem where
  ce := 0
  ue := 0
  lastCe := 0xFFFFFFFF
  lastUe := 0xFFFFFFFF
  remap := []
  withdrawn := []
  flipAddr := 0
  flipMask := 0
  flipArmed := false
  flipHit := false
  flipped := []

structure MemRegs where
  sel : W32
  rmSel : W32
  scrub : W32
  crcFail : W16
  width : BitVec 2
  dramFenced : BitVec 3
  deriving DecidableEq, Repr

def MemRegs.init : MemRegs where
  sel := 0
  rmSel := 0
  scrub := 3600
  crcFail := 0
  width := 2
  dramFenced := 0

/-! ### Hold-up and removal (12) -/

inductive Ledger where
  | covered | waiting | bench
  deriving DecidableEq, Repr

/-- An item in the ledger's queue (R357): whose it is, its cost in 0.25 mJ and the boundaries left. -/
structure WaitItem where
  berth : BerthId
  cost : Nat
  tidesLeft : Nat
  deriving DecidableEq, Repr

inductive ReleaseStep where
  | none
  /-- Steps 1 and 2: the host may finish. -/
  | pending
  /-- Steps 3 and 4. -/
  | closing
  /-- Step 5 done. -/
  | safe
  deriving DecidableEq, Repr

structure Hup where
  /-- A removal sequence runs (Table NARROW-6, cause 2). -/
  removing : Bool
  ledger : Ledger
  eu : Pair 24
  debit : Pair 24
  overdrawn : Bool
  charging : Bool
  onBank : Bool
  /-- C comes from a good test or from R353. -/
  capGood : Bool
  capUf : W16
  /-- When the last good test ended (HUP_CAP.AGE). -/
  capAt : Option W64
  bankMv : W16
  vinMv : W16
  queue : List WaitItem
  kib : Nat
  seals : Nat
  commits : Nat
  /-- Tides since the ledger left Covered or since the last reset exit, 2 at most (R358). -/
  sinceCovered : Nat
  cfg : W32
  chg : W32
  chgNow : W32
  capReq : Bool
  /-- When the last test began (R351). -/
  capFrom : W64
  /-- The first test since the last reset of cold reach or wider has been asked for (R353). -/
  firstTest : Bool
  /-- Cost of the capacitance test that runs. -/
  capTest : Option Nat
  capLast : BitVec 2
  capFails : Nat
  waits : W16
  wt : W16
  release : ReleaseStep
  /-- Boundaries left of step 4 of the release sequence (Table HUP-7). -/
  relLeft : Nat
  /-- The press that counted during a stop-change-restart (R467). -/
  pressLatched : Bool
  rmvSrc : BitVec 2
  rmvClean : Bool
  /-- Of the removal that runs: write data in KiB and E_u in mJ at step 1, and whether VIN will be back at step 6 (log 14). -/
  rmvKib : Nat
  rmvMj : Nat
  rmvBack : Bool
  rmvMs : Byte
  rmvEu : W16
  snapEu : Pair 24
  snapDebit : Pair 24
  deriving DecidableEq, Repr

def Hup.init : Hup where
  removing := false
  ledger := .waiting
  eu := Pair.mk' 0
  debit := Pair.mk' 480
  overdrawn := false
  charging := false
  onBank := false
  capGood := true
  capUf := Config.fuseCapmin
  capAt := none
  bankMv := 0
  vinMv := 0
  queue := []
  kib := 0
  seals := 0
  commits := 0
  sinceCovered := 0
  cfg := Config.fuseVmin.setWidth 32 ||| (Config.fuseCapmin.setWidth 32 <<< 16)
  chg := Config.fuseVtgt.setWidth 32 ||| (Config.fusePlim.setWidth 32 <<< 8)
  chgNow := Config.fuseVtgt.setWidth 32 ||| (Config.fusePlim.setWidth 32 <<< 8)
  capReq := false
  capFrom := 0
  firstTest := false
  capTest := none
  capLast := 0
  capFails := 0
  waits := 0
  wt := 0
  release := .none
  relLeft := 0
  pressLatched := false
  rmvSrc := 0
  rmvClean := false
  rmvKib := 0
  rmvMj := 0
  rmvBack := false
  rmvMs := 0
  rmvEu := 0
  snapEu := Pair.mk' 0
  snapDebit := Pair.mk' 480

/-! ### Power domains and clocks (13) -/

inductive Dom where
  | on | retention | off | failed
  deriving DecidableEq, Repr

structure Pmu where
  dom : Vector Dom 16
  /-- State changes that take effect at the next boundary (R376). -/
  change : List (Fin 16 × Dom)
  /-- Domains whose wake time has not passed (R387). After a reset DRAMC serves nothing until the map cache is resumed (R391). -/
  waking : BitVec 16
  req : W32
  answer : BitVec 2
  ansDom : BitVec 4
  reason : BitVec 4
  delayT : BitVec 5
  /-- Boundaries left of the DELAY (R10, R382). -/
  delayLeft : Nat
  delayN : BitVec 3
  pend : Bool
  auto : W32
  failed : BitVec 16
  wakeSrc : BitVec 9
  lastSrc : BitVec 4
  lastDoms : BitVec 16
  lastTime : W64
  pgood : BitVec 6
  /-- Boundaries until VDD2 follows VDD1 in a wake of DRAMC from off (R395). -/
  vdd2In : Option Nat
  retried : BitVec 6
  railFailed : BitVec 6
  switchRetried : BitVec 16
  pll : Bool
  xtal : Bool
  locks : BitVec 4
  rcOnly : Bool
  delays : W16
  refusals : W16
  deriving DecidableEq, Repr

def Pmu.init : Pmu where
  dom := Vector.replicate 16 .on
  change := []
  waking := 0x1000
  req := 0
  answer := 0
  ansDom := 0
  reason := 0
  delayT := 0
  delayLeft := 0
  delayN := 0
  pend := false
  auto := 0xFFFE
  failed := 0
  wakeSrc := 0
  lastSrc := 0
  lastDoms := 0
  lastTime := 0
  pgood := 0
  vdd2In := none
  retried := 0
  railFailed := 0
  switchRetried := 0
  pll := false
  xtal := false
  locks := 0
  rcOnly := false
  delays := 0
  refusals := 0

/-! ### Reset (14) -/

/-- Power: off; on; in reset until the next power cycle (R396, R411, R412); held for board test (R483); no
clock left (R398). -/
inductive Power where
  | off | on | strapFault | trimFault | railFault | boardTest | noClock
  deriving DecidableEq, Repr

/-- Where a reset stands (R405, R406). -/
inductive RstPhase where
  | running
  | deferring
  /-- Deferral over, or none needed: waits for the last source and the exit. -/
  | held
  deriving DecidableEq, Repr

/-- The low on HRST# (R401). -/
inductive HrstLow where
  | high | short | warm | cold
  deriving DecidableEq, Repr

/-- A ready level before Ready (Table NARROW-9). -/
inductive Level where
  | assembling | recovering | ready
  deriving DecidableEq, Repr

structure Rst where
  power : Power
  phase : RstPhase
  /-- Sources seen since the reset began and still asserted. -/
  asserted : BitVec 13
  widest : Reach
  level : Level
  /-- The recovery still to run at a start (R372, R409, Table RST-3): 2 of a Total exit, 1 of a cold one, 0 none. -/
  due : BitVec 2
  cause : BitVec 13
  last : BitVec 2
  count : W16
  strapCode : BitVec 4
  strapRaw : BitVec 12
  strapFaults : BitVec 2
  strapChanged : Bool
  /-- The code of the last cold reset (R411), once there is one. -/
  strapOld : Option (BitVec 4)
  trimTries : BitVec 2
  trimRec : Byte
  trimLoaded : Bool
  deferUs : W16
  deferFenced : Byte
  blkDom : BitVec 4
  blkResult : BitVec 2
  bkSel : BitVec 3
  bk : Vector (Pair 64) 8
  bkValid : Byte
  /-- The four halves as last written. -/
  bkl : W32
  bkh : W32
  bkcl : W32
  bkch : W32
  bkSnap : Pair 64
  hrst : HrstLow
  /-- RST_CAUSE bit 7 stood before this low of HRST#. -/
  hrst7 : Bool
  mrstLow : Bool
  tmode : Bool
  /-- The last removal, for the insertion and unclean-removal records. -/
  uncleanLast : Bool
  /-- MRST# as this controller drives it when it is the master. -/
  mrstOut : Bool
  deriving DecidableEq, Repr

def Rst.init : Rst where
  power := .on
  phase := .held
  asserted := 0
  widest := .total
  level := .assembling
  due := 2
  cause := 1
  last := 0
  count := 0
  strapCode := 0
  strapRaw := 0
  strapFaults := 0
  strapChanged := false
  strapOld := none
  trimTries := 0
  trimRec := 0
  trimLoaded := false
  deferUs := 0
  deferFenced := 0
  blkDom := 0
  blkResult := 0
  bkSel := 0
  bk := Vector.replicate 8 (Pair.mk' 0)
  bkValid := 0
  bkl := 0
  bkh := 0
  bkcl := 0xFFFFFFFF
  bkch := 0xFFFFFFFF
  bkSnap := Pair.mk' 0
  hrst := .high
  hrst7 := false
  mrstLow := false
  tmode := false
  uncleanLast := false
  mrstOut := false

/-! ### Faults, self-test, microcode (15) -/

structure Source where
  sticky : Bool
  cls : Cls
  count : Byte
  ceil : BitVec 2
  deriving DecidableEq, Repr

/-- Units fenced (Table FLT-2), beside the stored fences of Ftl and Cod; the forced fences of dies, channels and
codec units are kept here, since they are never stored (R426). -/
structure Fences where
  lanes : BitVec 6
  ports : BitVec 3
  cores : BitVec 4
  members : BitVec 4
  domains : BitVec 16
  forcedDies : BitVec 128
  forcedChannels : BitVec 16
  forcedCodec : BitVec 29
  deriving DecidableEq, Repr

def Fences.init : Fences where
  lanes := 0
  ports := 0
  cores := 0
  members := 0
  domains := 0
  forcedDies := 0
  forcedChannels := 0
  forcedCodec := 0

structure Flt where
  src : Vector Source 64
  mask : Vector (BitVec 4) 16
  fences : Fences
  halted : Bool
  /-- Highest active class last reported (R422). -/
  reported : Option Cls
  lastSrc : BitVec 6
  lastCls : Cls
  lastEsc : Bool
  lastMerged : Bool
  lastForced : Bool
  lastTime : W64
  factory : Bool
  funit : Byte
  sel : W32
  /-- Sequence number of the last halt record (Table TZ-11). -/
  haltSeq : Option W64
  deriving DecidableEq, Repr

/-- The ceilings of Table FLT-1, source by source; a reserved source has none and reads 0. -/
def ceilTable : List Nat :=
  [3, 2, 0, 2,  3, 2, 2, 0,  2, 2, 0, 2,  2, 2, 0, 2,
   1, 2, 0, 2,  2, 2, 0, 2,  3, 2, 0, 2,  1, 2, 1, 1,
   2, 1, 2, 0,  0, 2, 1, 0,  2, 0, 0, 0,  3, 0, 0, 0,
   0, 1, 2, 2,  2, 0, 2, 2,  2, 0, 2, 2,  1, 2, 2, 1]

def Flt.init : Flt where
  src := Vector.ofFn fun i =>
    { sticky := false, cls := .note, count := 0, ceil := BitVec.ofNat 2 (ceilTable.getD i.val 0) }
  mask := Vector.replicate 16 0
  fences := .init
  halted := false
  reported := none
  lastSrc := 0
  lastCls := .note
  lastEsc := false
  lastMerged := false
  lastForced := false
  lastTime := 0
  factory := false
  funit := 0
  sel := 0
  haltSeq := none

structure Mon where
  stctl : W32
  pos : Nat
  /-- When the last slice began (R429). -/
  sliceAt : Option W64
  cycles : W16
  test : BitVec 4
  item : BitVec 4
  result : BitVec 2
  /-- Rows failed or skipped in the cycle that runs, and in the last one. -/
  failNow : BitVec 9
  skipNow : BitVec 9
  fail : BitVec 9
  skip : BitVec 9
  tempA : W16
  tempB : W16
  throttle : Bool
  shut : Bool
  disagree : Bool
  adcFailed : BitVec 4
  deriving DecidableEq, Repr

def Mon.init : Mon where
  stctl := 0x801
  pos := 0
  sliceAt := none
  cycles := 0
  test := 0
  item := 0
  result := 0
  failNow := 0
  skipNow := 0
  fail := 0
  skip := 0
  tempA := 0
  tempB := 0
  throttle := false
  shut := false
  disagree := false
  adcFailed := 0

/-- A word of a control store of the berth engine: 96 bits and one even-parity bit per group of 24 (R433, Table FLT-4). -/
structure MicroWord where
  data : BitVec 96
  parity : BitVec 4
  deriving DecidableEq, Repr

structure Ucs where
  /-- The blob in the map store (R437). -/
  stored : Option (List Byte)
  patchState : BitVec 2
  patchRam : List MicroWord
  patchId : W32
  /-- Match registers: control-store address and patch-RAM address, when enabled (R436). -/
  matches_ : Vector (Option (W16 × Byte)) 16
  perr : Byte
  restarts : Byte
  seqPerr : W16
  deriving DecidableEq, Repr

def Ucs.init : Ucs where
  stored := none
  patchState := 0
  patchRam := []
  patchId := 0
  matches_ := Vector.replicate 16 none
  perr := 0
  restarts := 0
  seqPerr := 0

/-! ### Cascade (16) and board test (18) -/

inductive PortState where
  | down | training | up | fenced
  deriving DecidableEq, Repr

structure Port where
  state : PortState
  slow : Bool
  replays : Byte
  retrains : Byte
  headReplays : Nat
  /-- When its fast retrains of the last second began (R443). -/
  retrainAt : List W64
  deriving DecidableEq, Repr

def Port.init : Port :=
  { state := .down, slow := false, replays := 0, retrains := 0, headReplays := 0, retrainAt := [] }

/-- A sub-instruction the master has out (R450). -/
structure SubOut where
  id : Nat
  berth : BerthId
  position : Fin 4
  deriving DecidableEq, Repr

/-- A part that a member holds for the master: before its ledger, with the boundaries left, or as its provisional part of
a split piece (R452, R453). -/
structure SubHeld where
  sub : SubInstr
  waiting : Bool
  tidesLeft : Nat
  deriving DecidableEq, Repr

structure Quy where
  map : Pair 4
  present : BitVec 4
  lost : BitVec 4
  strobe : Bool
  ports : Vector Port 3
  reports : Vector (Option MemberReport) 4
  startMs : W16
  late : BitVec 4
  /-- Tides since the last frame or strobe echo of each position; position 0 is the master (R456, R458). -/
  quiet : Vector Nat 4
  offNs : W16
  errs : Byte
  silent : W32
  out : List SubOut
  nextSub : Nat
  lostSubs : W16
  /-- The master's boundary time, period and quality last sent or received. Member side: missing edges, the parts held,
  the answers sent, the hold after the master's silence. -/
  frame : Option (W64 × BitVec 2 × W16)
  missed : Nat
  held : List SubHeld
  answers : List SubAnswer
  holding : Bool
  /-- The removal frame and other orders the master has sent. -/
  orders : List CartridgeEvent
  removalSent : Bool
  warmSent : Bool
  deriving DecidableEq, Repr

def Quy.init : Quy where
  map := Pair.mk' 0
  present := 0
  lost := 0
  strobe := false
  ports := Vector.replicate 3 .init
  reports := Vector.replicate 4 none
  startMs := 0
  late := 0
  quiet := Vector.replicate 4 0
  offNs := 0
  errs := 0
  silent := 8
  out := []
  nextSub := 1
  lostSubs := 0
  frame := none
  missed := 0
  held := []
  answers := []
  holding := false
  orders := []
  removalSent := false
  warmSent := false

/-! ### Stop-change-restart (17) and the booking of a tide (02) -/

structure Scr where
  /-- QUIESCE functions in force or draining (R209). -/
  bits : BitVec 8
  active : Bool
  draining : Bool
  owner : BerthId
  tidesLeft : Nat
  deriving DecidableEq, Repr

def Scr.init : Scr := { bits := 0, active := false, draining := false, owner := 0, tidesLeft := 0 }

/-- What a booking is for (Table TIDE-3); `safety` is the removal sequence and fault reactions. -/
inductive Work where
  | berth (b : BerthId)
  | die (id : Nat)
  | safety
  | slice
  deriving DecidableEq, Repr

/-- Table TIDE-2; of the codec, the kinds of units. -/
inductive Res where
  | down | up | engine | encoder | decoder | soft | pageBch | trellis | seal | safety | monitor
  | channel (n : Nat)
  | die (n : Nat)
  deriving DecidableEq, Repr

/-- One booking of the tide: its rung, its work, and what it takes of each resource: bytes of a link, ns of any other. -/
structure Booking where
  rung : Nat
  work : Work
  takes : List (Res × Nat)
  deriving DecidableEq, Repr

structure Sched where
  booked : List Booking
  /-- Micro-routines of the tide that have had their turn, and engine time in ns that no booking takes (R44). -/
  served : List BerthId
  spare : Nat
  /-- Bytes booked for guaranteed-rate berths in this tide (R43, R158). -/
  moved : List (BerthId × Nat)
  /-- Resources that a self-test slice has occupied in this tide (R45), and rung-5 time in ns. -/
  sliced : List Res
  bg : Nat
  /-- The berth served last, per rung 2, 3 and 7 (R43). -/
  served2 : Nat
  served3 : Nat
  served7 : Nat
  /-- Engine time charged to the next tide (R47). -/
  overhang : Nat
  deriving DecidableEq, Repr

def Sched.init : Sched where
  booked := []
  served := []
  spare := 0
  moved := []
  sliced := []
  bg := 0
  served2 := 0
  served3 := 0
  served7 := 0
  overhang := 0

/-! ### The whole -/

structure State where
  /-- Commands that wait, first in, first out. -/
  pending : List Instr
  tim : Tim
  nar : Narrow
  lnk : Link
  berths : Vector Berth 512
  bth : BthRegs
  /-- Program pool, by byte address, and scratch (R145, R146): sparse, 0 where nothing is listed. -/
  pool : List Host.Cell
  scratch : List Host.Cell
  /-- Scratch page colours (R232). -/
  scrTags : Vector (BitVec 4) 64
  rgn : Vector Region 64
  grd : Guard
  rings : Vector Ring 64
  holds : List Hold
  rng : RingRegs
  /-- Map units by key, rising (R303); a key not listed is unmapped. -/
  store : List (Nat × MUnit)
  log : Logbook
  ctr : Counters
  ftl : Ftl
  dies : List DieOp
  nextOp : Nat
  cod : Cod
  mems : Vector Mem 10
  mem : MemRegs
  hup : Hup
  pmu : Pmu
  rst : Rst
  flt : Flt
  mon : Mon
  ucs : Ucs
  quy : Quy
  scr : Scr
  sched : Sched
  tap : TapOp
  /-- The model's own: counts the free values drawn (log 5). -/
  freeCtr : Nat
  deriving DecidableEq, Repr

/-- Region 0 as provisioned: LOGBOOK, 8192 MiB, colour 0 (R214, R215). -/
def Region.logbook : Region :=
  { Region.init with cfg := Pair.mk' 1, siz := Pair.mk' 8192 }

/-- The OC9640 at the end of a Total reset, all its sources released, before the exit sequence: registers at the
manual's reset values, stored values as provisioned (log 3). -/
def State.reset : State where
  pending := []
  tim := .init
  nar := .init
  lnk := .init
  berths := Vector.replicate 512 .init
  bth := .init
  pool := []
  scratch := []
  scrTags := Vector.replicate 64 0
  rgn := (Vector.replicate 64 Region.init).set 0 .logbook
  grd := .init
  rings := Vector.replicate 64 .init
  holds := []
  rng := .init
  store := []
  log := .init
  ctr := .init
  ftl := .init
  dies := []
  nextOp := 0
  cod := .init
  mems := Vector.replicate 10 .init
  mem := .init
  hup := .init
  pmu := .init
  rst := .init
  flt := .init
  mon := .init
  ucs := .init
  quy := .init
  scr := .init
  sched := .init
  tap := .bypass
  freeCtr := 2

end Sys2Proof.Machine
end

