-- ==== Sys2Proof/Machine/Ops.lean ====
section
/-! DEFINITION. The named operations every meaning is built from: codes of the manual, memories, free values, time,
the up path, events and completions. -/

namespace Sys2Proof.Machine

/-- The outcome type of every meaning. -/
abbrev Out := Host.Outcome State Fault Refusal

/-! ### Codes -/

/-- Table BERTH-9. -/
def Status.code : Status → Byte
  | .ok => 0x00 | .part => 0x01
  | .unknownOp => 0x10 | .badField => 0x11 | .blockCrc => 0x12 | .oversize => 0x13 | .range => 0x14
  | .truncatedPush => 0x15 | .badRegion => 0x16 | .notInStream => 0x17 | .badTarget => 0x18 | .stackFault => 0x19
  | .poolFull => 0x1A | .badSignature => 0x1B
  | .denied => 0x20 | .locked => 0x21 | .badPassword => 0x22 | .entryBlocked => 0x23 | .notService => 0x24
  | .gateTimeout => 0x25 | .counterBound => 0x26
  | .readOnly => 0x30 | .holdLimit => 0x31 | .belowMinimum => 0x32 | .mediaExhausted => 0x33 | .logbookFull => 0x34
  | .mediaLost => 0x35 | .saturated => 0x36
  | .energyWait => 0x40 | .writeThrough => 0x41
  | .busy => 0x50 | .overReserved => 0x51 | .wrongState => 0x52 | .queueFull => 0x53 | .aborted => 0x54
  | .flushed => 0x55 | .domainOff => 0x56
  | .fenced => 0x60 | .memberLost => 0x61 | .memUncorrectable => 0x62 | .machineCheck => 0x63 | .colourFault => 0x64
  | .halted => 0x70

/-- The rows of Table BERTH-9 marked "stops". -/
def Status.stops : Status → Bool
  | .badTarget | .stackFault | .memUncorrectable | .machineCheck | .colourFault | .halted => true
  | _ => false

/-- The statuses that clear E (Table BERTH-2). -/
def Status.good : Status → Bool
  | .ok | .writeThrough => true
  | _ => false

/-- Table BERTH-3. -/
def BState.code : BState → Nat
  | .empty => 0 | .unallocated => 1 | .loading => 2 | .loaded => 3 | .ready => 4 | .running => 5 | .waiting => 6
  | .quiesced => 7 | .stopped => 8

/-- Table BERTH-4. -/
def WaitWhy.code : WaitWhy → Nat
  | .none => 0 | .waitt => 1 | .waite => 2 | .data => 3 | .ledger => 4 | .order => 5 | .gate => 6 | .upPath => 7
  | .die => 8 | .cascade => 9

/-- Class codes (R422). -/
def Cls.code : Cls → Nat
  | .note => 0 | .degrade => 1 | .fence => 2 | .halt => 3

def Cls.ofCode : Nat → Cls
  | 0 => .note | 1 => .degrade | 2 => .fence | _ => .halt

def Cls.max (a b : Cls) : Cls := if a.code < b.code then b else a

/-- Reaches, widest highest (Table RST-1). -/
def Reach.code : Reach → Nat
  | .block => 0 | .warm => 1 | .cold => 2 | .total => 3

def Reach.max (a b : Reach) : Reach := if a.code < b.code then b else a

/-- Quality bits [15:14] (Table TIDE-7). -/
def Quality.code : Quality → Nat
  | .synced => 0 | .holdover => 1 | .freeRunning => 2

/-- Ledger codes (Table HUP-1). -/
def Ledger.code : Ledger → Nat
  | .covered => 0 | .waiting => 1 | .bench => 2

/-! ### Berths -/

def State.berth (s : State) (b : BerthId) : Berth := s.berths[b]

def State.setBerth (s : State) (b : BerthId) (x : Berth) : State := { s with berths := s.berths.set b.val x b.isLt }

def State.modBerth (s : State) (b : BerthId) (f : Berth → Berth) : State := s.setBerth b (f (s.berth b))

/-- Every berth, lowest first. -/
def allBerths : List BerthId := List.finRange 512

/-- A berth number from 9 bits. -/
def berthOf (n : Nat) : BerthId := Fin.ofNat 512 n

/-! ### Byte memories in canonical form: addresses rising, no zero byte listed -/

/-- The byte at an address; an unlisted byte reads 0. -/
def Memory.read : List Host.Cell → Nat → Byte
  | [], _ => 0
  | (k, v) :: r, a => if k = a then v else if a < k then 0 else Memory.read r a

/-- A byte written; writing 0 removes the entry. -/
def Memory.write : List Host.Cell → Nat → Byte → List Host.Cell
  | [], a, v => if v = 0 then [] else [(a, v)]
  | (k, w) :: r, a, v =>
    if a < k then (if v = 0 then (k, w) :: r else (a, v) :: (k, w) :: r)
    else if a = k then (if v = 0 then r else (a, v) :: r)
    else (k, w) :: Memory.write r a v

/-- Every listed address is above `lo`, they rise, and no zero is listed. -/
def Memory.above (lo : Nat) : List Host.Cell → Bool
  | [] => true
  | (k, v) :: r => lo ≤ k && v ≠ 0 && Memory.above (k + 1) r

/-- The canonical form. -/
def Memory.wf (m : List Host.Cell) : Bool := Memory.above 0 m

def Memory.readN (m : List Host.Cell) (a : Nat) : Nat → List Byte
  | 0 => []
  | n + 1 => Memory.read m a :: Memory.readN m (a + 1) n

def Memory.writeN (m : List Host.Cell) (a : Nat) : List Byte → List Host.Cell
  | [] => m
  | b :: bs => Memory.writeN (Memory.write m a b) (a + 1) bs

/-- The bytes [a, a + n) set to 0. -/
def Memory.clear (m : List Host.Cell) (a n : Nat) : List Host.Cell := m.filter fun c => c.1 < a || a + n ≤ c.1

/-! ### Tables by key, keys rising -/

def tabGet {α : Type} : List (Nat × α) → Nat → Option α
  | [], _ => none
  | (k, v) :: r, a => if k = a then some v else if a < k then none else tabGet r a

/-- An entry put, replaced or, with none, removed. -/
def tabPut {α : Type} : List (Nat × α) → Nat → Option α → List (Nat × α)
  | [], a, v => match v with
    | none => []
    | some x => [(a, x)]
  | (k, w) :: r, a, v =>
    if a < k then (match v with
      | none => (k, w) :: r
      | some x => (a, x) :: (k, w) :: r)
    else if a = k then (match v with
      | none => r
      | some x => (a, x) :: r)
    else (k, w) :: tabPut r a v

/-! ### Free values and time -/

/-- The index of a fresh free value (log 5). -/
def State.draw (s : State) : Nat × State := (s.freeCtr, { s with freeCtr := s.freeCtr + 1 })

/-- Periods in ns (Table TIDE-1). -/
def periodNs (p : BitVec 2) : Nat := 62500 * 2 ^ p.toNat

/-- The smallest multiple of `p` at or above `t`. -/
def ceilMul (t p : Nat) : Nat := (t + p - 1) / p * p

/-- Time is observed: the disciplined counter has moved by a free amount since it was last seen, short of the
next boundary (log 6). Between steps it never runs backwards (R58). -/
def State.elapse (s : State) : State :=
  { s with
    tim := { s.tim with
      counter := s.tim.counter +
        BitVec.ofNat 64 (min (Config.freeElapsed s.freeCtr) (s.tim.next.toNat - 1 - s.tim.counter.toNat))
      opened := false }
    freeCtr := s.freeCtr + 1 }

/-- The quality field (Table TIDE-7). -/
def Tim.qual (t : Tim) : W16 :=
  match t.quality with
  | .synced => BitVec.ofNat 16 (min (t.usedOffset / 16) 0x3FFF)
  | .holdover => BitVec.ofNat 16 (0x4000 + min ((t.counter.toNat - t.usedAt.toNat) / 1000000000) 0x3FFF)
  | .freeRunning => 0x8000

/-- The disciplined time as it stands. -/
def State.now (s : State) : W64 := s.tim.counter

/-- A snapshot of the counter with its complement and quality (R57). -/
def State.snapshot (s : State) : Snapshot := { ns := Pair.mk' s.now, qual := s.tim.qual }

/-! ### Busy (Table NARROW-6) -/

/-- The part takes work: powered, in no reset, and no removal sequence has stopped intake (R362). -/
def State.alive (s : State) : Bool := s.rst.power == .on && s.rst.phase == .running && !s.hup.removing

/-- Whether a busy cause is active (Table NARROW-6). -/
def State.busyCause (s : State) : Nat → Bool
  | 1 => s.rst.phase != .running
  | 2 => s.hup.removing
  | 3 => s.flt.halted
  | 4 => s.rst.level != .ready
  | 5 => bits s.grd.lock.val 0 2 == 2
  | 6 => s.scr.active
  | 7 => !s.hup.queue.isEmpty
  | 8 => s.hup.release == .closing || s.hup.release == .safe
  | _ => false

/-- The lowest active cause, 0 when SB0 is high (Table NARROW-4). -/
def State.busyCode (s : State) : Nat := ((List.range 9).find? s.busyCause).getD 0

/-- SB0 is held low (R91). -/
def State.busy (s : State) : Bool := s.busyCode != 0

/-! ### The up path (R128, R129, R136, R162, R83) -/

/-- Parcels leave in order while credits last (R128), each with the next sequence number, and wait in the replay
buffer (R123). -/
def State.drainUp : Nat → State → State
  | 0, s => s
  | n + 1, s =>
    match s.nar.up with
    | [] => s
    | p :: r =>
      if s.lnk.mode = .lane ∧ 0 < s.lnk.creditUp then
        State.drainUp n { s with
          nar := { s.nar with up := r }
          lnk := { s.lnk with
            creditUp := s.lnk.creditUp - 1
            replayBuf := s.lnk.replayBuf ++ [(s.lnk.txNext, p)]
            txNext := s.lnk.txNext + 1
            sent := s.lnk.sent ++ [.parcel s.lnk.txNext p s.busy] } }
      else s

/-- A parcel is queued for the host; in doze it pulls WAKE# low (R136). -/
def State.sendUp (s : State) (p : UpParcel) : State :=
  let s := { s with
    nar := { s.nar with up := s.nar.up ++ [p] }
    lnk := { s.lnk with wakeLow := s.lnk.wakeLow || (s.lnk.mode == LinkMode.doze && s.lnk.wakeEn) } }
  s.drainUp s.nar.up.length

/-! ### Events (R163, R185) -/

/-- The event word of R185. -/
def eventWord (code : Nat) (berth : Nat) (arg : W32) : W64 :=
  BitVec.ofNat 64 (code + berth <<< 8 + arg.toNat <<< 32)

/-- One berth takes an event into its pending set. -/
def Berth.pendEvent (x : Berth) (code : Nat) (w : W64) : Berth :=
  { x with pend := x.pend ||| BitVec.ofNat 16 (1 <<< code), events := x.events.setIfInBounds code w }

/-- An event arises: every berth's pending set takes it, and the parcel goes up, for a card event only when
BTH_EVMASK enables it (R163). `src` is the berth of a berth event. -/
def State.raiseEvent (s : State) (code : Nat) (arg : W32) (src : Option BerthId) : State :=
  let s := s.elapse
  let n := match src with
    | some b => b.val
    | none => bits s.bth.evBerth 0 9
  let s := { s with berths := s.berths.map fun x => x.pendEvent code (eventWord code n arg) }
  if src.isSome || bit s.bth.evMask code then
    let e : EventRec := { code := BitVec.ofNat 8 code, arg := arg, time := s.now, qual := s.tim.qual }
    s.sendUp { berth := BitVec.ofNat 16 n, tag := 0, body := .event e }
  else s

/-! ### Completions (R161 to R167) -/

/-- Words of an instruction and its extension. -/
def QInstr.words (q : QInstr) : Nat := 1 + q.ext.length

/-- Free words of the stream queue. -/
def Berth.qfree (x : Berth) : Nat := 64 - (x.queue.map QInstr.words).sum

def Berth.qfreeByte (x : Berth) : Byte := if x.kind then 0 else BitVec.ofNat 8 x.qfree

/-- A completion of this berth as it stands. -/
def Berth.completion (x : Berth) (st : Status) (op : Byte) (done : Nat) (first : Option Nat) (res : W64) : Completion where
  status := st
  z := x.z
  n := x.n
  c := x.c
  e := x.e
  interim := false
  resident := x.kind
  opcode := op
  qfree := x.qfreeByte
  done := BitVec.ofNat 32 done
  first := match first with
    | some f => BitVec.ofNat 32 f
    | none => 0xFFFFFFFF
  cseq := x.cseq
  result := res
  counted := true

/-- The parts of a berth's status block that show it as it stands. -/
def Berth.block (x : Berth) : KeptBlock where
  flags := BitVec.ofNat 4 (x.z.toNat + 2 * x.n.toNat + 4 * x.c.toNat + 8 * x.e.toNat)
  reserved := x.resv.isSome
  resident := x.kind
  pc := x.pc

/-- The status block as a commit would store it now (R164). -/
def Berth.image (x : Berth) : BlockImage where
  block := x.kept.getD x.block
  cseq := x.cseq
  rseq := x.rseq
  status := x.lastStatus
  opcode := x.lastOpcode
  tag := x.lastTag
  done := x.lastDone
  first := x.lastFirst
  qfree := x.lastQfree
  badTag := x.badTag
  badStat := x.badStat

/-- The status block as it was committed stands again (R164). -/
def Berth.reload (x : Berth) : Berth :=
  { x with
    kept := some x.saved.block, cseq := x.saved.cseq, rseq := x.saved.rseq, lastStatus := x.saved.status
    lastOpcode := x.saved.opcode, lastTag := x.saved.tag, lastDone := x.saved.done, lastFirst := x.saved.first
    lastQfree := x.saved.qfree, badTag := x.saved.badTag, badStat := x.saved.badStat }

/-- Every status block is committed to flash (R164). -/
def State.saveBlocks (s : State) : State :=
  { s with berths := s.berths.map fun (x : Berth) => { x with saved := x.image } }

/-- The status block takes a final completion (Table BERTH-8). -/
def Berth.record (x : Berth) (c : Completion) (tag : W16) : Berth :=
  { x with
    kept := none
    lastStatus := c.status
    lastOpcode := c.opcode
    lastTag := tag
    lastDone := c.done
    lastFirst := c.first
    lastQfree := c.qfree
    badTag := if x.badStat = 0 ∧ ¬c.status.good then tag else x.badTag
    badStat := if x.badStat = 0 ∧ ¬c.status.good then c.status.code else x.badStat }

/-- A final completion is generated, recorded and sent: CSEQ counts it (R161, R164). -/
def State.sendCompletion (s : State) (b : BerthId) (tag : W16) (op : Byte) (st : Status) (done : Nat)
    (first : Option Nat) (res : W64) : State :=
  let s := s.modBerth b fun x => { x with cseq := x.cseq + 1 }
  let c := (s.berth b).completion st op done first res
  let s := s.modBerth b fun x => x.record c tag
  s.sendUp { berth := BitVec.ofNat 16 b.val, tag := tag, body := .completion c }

/-- The interim completion of a ledger wait (R162): CSEQ does not advance. -/
def State.sendInterim (s : State) (b : BerthId) (q : QInstr) : State :=
  let c := (s.berth b).completion .energyWait (q.word.extractLsb' 56 8) 0 none 0
  s.sendUp { berth := BitVec.ofNat 16 b.val, tag := q.tag, body := .completion { c with interim := true, counted := false } }

/-- A refused push is answered by a completion of its own (R497). -/
def State.refusePush (s : State) (b : BerthId) (tag : W16) (first : W64) (st : Status) (done : Nat) : State :=
  let c := (s.berth b).completion st (first.extractLsb' 56 8) done (some 0) 0
  s.sendUp { berth := BitVec.ofNat 16 b.val, tag := tag, body := .completion { c with counted := false } }

/-- Data parcels that no instruction takes are dropped and counted (R155). -/
def State.discard (s : State) (n : Nat) : State :=
  { s with bth := { s.bth with discard := satNat 32 (s.bth.discard.toNat + n) } }

/-- Chunks with a tag leave the write share unused. -/
def State.dropChunks (s : State) (b : BerthId) (p : Chunk → Bool) : State :=
  let n := ((s.berth b).chunks.filter p).length
  (s.modBerth b fun x => { x with chunks := x.chunks.filter fun c => !p c }).discard n

/-- The opcode of an instruction. -/
def QInstr.op (q : QInstr) : Byte := q.word.extractLsb' 56 8

/-- The instruction takes data from parcels. -/
def QInstr.takesData (q : QInstr) : Bool :=
  let none' := q.ext.length == 0
  match q.op.toNat with
  | 0x21 | 0x22 => q.ext.length == 1
  | 0x40 => none' && !bit q.word 42
  | 0x60 => none' && bits q.word 40 4 == 0 && 8 ≤ bits q.word 0 4
  | 0x67 | 0x6A => none'
  | _ => false

/-- A berth's instruction in progress has taken the last of its data parcels. -/
def Berth.tookLast (x : Berth) : Bool := match x.cur with
  | some c => c.tookLast
  | none => false

/-- What follows the first run of parcels that an instruction would take: END marks the last of a run (R155). -/
def afterRun (mine : Chunk → Bool) : List Chunk → List Chunk
  | [] => []
  | c :: r => if mine c then (if c.last then r else afterRun mine r) else c :: afterRun mine r

/-- An instruction leaves: parcels joined to it that it did not take are dropped, up to their END; in a stream berth, parcels
that no instruction left in the queue can take are dropped too (R155). -/
def State.leaveData (s : State) (b : BerthId) (q : QInstr) (took : Bool) : State :=
  let x := s.berth b
  let mine := fun (c : Chunk) => x.kind || c.tag == q.tag
  let left := if q.takesData && !took then afterRun mine x.chunks else x.chunks
  let left := if x.kind || x.queue.any (fun r => r.tag == q.tag && r.takesData) then left else left.filter fun c => !mine c
  (s.modBerth b fun x => { x with chunks := left }).discard (x.chunks.length - left.length)

/-- The program counter past `n` words: a word of the allocation, in a stream berth the position in its 64-word queue
(Table BERTH-1, log 73). -/
def Berth.pcPast (x : Berth) (n : Nat) : W16 := BitVec.ofNat 16 (if x.kind then x.pc.toNat + n else (x.pc.toNat + n) % 64)

/-- Each instruction still queued completes with FLUSHED, in order (R151). -/
def State.flushQueue (s : State) (b : BerthId) : List QInstr → State
  | [] => s
  | q :: r =>
    let s := s.modBerth b fun x => { x with queue := r, e := true, pc := x.pcPast q.words }
    (s.sendCompletion b q.tag (q.word.extractLsb' 56 8) .flushed 0 none 0).flushQueue b r

/-- A berth stops (R151, R155): a stream berth flushes its queue and sends BERTH_STOPPED. -/
def State.stopBerth (s : State) (b : BerthId) (st : Status) : State :=
  let s := s.modBerth b fun x => { x with state := .stopped, why := .none, cur := none, stopDue := false }
  let s := if (s.berth b).kind then s else
    (s.flushQueue b (s.berth b).queue).raiseEvent 7 (st.code.setWidth 32) (some b)
  s.dropChunks b fun _ => true

/-- QUIESCE holds this berth (R142, R209; the release sequence holds the same berths, Table HUP-7). -/
def State.quiesces (s : State) (b : BerthId) : Bool :=
  8 ≤ b.val && (((s.scr.active || s.scr.draining) && bit s.scr.bits 1) || s.busyCause 8)

/-- Where a berth stands between instructions. -/
def State.idleState (s : State) (b : BerthId) : BState :=
  let x := s.berth b
  if !x.kind && x.queue.isEmpty then .empty else if s.quiesces b then .quiesced else .ready

/-- A berth comes to rest at an instruction boundary; a resident berth that is held there loses the data that waits for
it (R155). -/
def State.rest (s : State) (b : BerthId) : State :=
  let s := s.modBerth b fun x => { x with state := s.idleState b }
  if (s.berth b).kind && (s.berth b).state == .quiesced then s.dropChunks b fun _ => true else s

/-- Control 0x00-0x0A and arithmetic 0x10-0x1A leave LASTSTAT alone (R184). -/
def setsLastStat (op : Byte) : Bool := !(op.toNat ≤ 0x0A || (0x10 ≤ op.toNat && op.toNat ≤ 0x1A))

/-- The Data family, whose completions RCOMP asks for (R161, log 21). -/
def isDataOp (op : Byte) : Bool := 0x20 ≤ op.toNat && op.toNat ≤ 0x24

/-- A resident berth's completion is sent for HALT, for a stop, and for data instructions under RCOMP (R161). -/
def Berth.sends (x : Berth) (op : Byte) (st : Status) : Bool :=
  !x.kind || op == 0x01 || st.stops || (x.rcomp && isDataOp op)

/-- Words in a berth's pool allocation. -/
def Berth.poolWords (x : Berth) : Nat := 64 * x.poolUnits

/-- A word of the pool by its number in the pool. -/
def State.poolWord (s : State) (i : Nat) : W64 := BitVec.ofNat 64 (ofLe (Memory.readN s.pool (8 * i) 8))

/-- First pool word of a berth's allocation. -/
def Berth.poolStart (x : Berth) : Nat := 64 * x.poolBase

/-- STOP takes effect at an instruction boundary (R151): a resident berth sends a completion that names the word at its
program counter. -/
def State.stopHere (s : State) (b : BerthId) : State :=
  let x := s.berth b
  (if x.kind then
    (s.modBerth b fun x => { x with e := true }).sendCompletion b x.pc
      ((s.poolWord (x.poolStart + x.pc.toNat)).extractLsb' 56 8) .aborted 0 none 0
  else s).stopBerth b .aborted

/-- An instruction of berth `b` completes (R157, R176, R141). `pc` is where a resident berth goes on; `res` is
what V[DST] takes. -/
def State.finishAt (s : State) (b : BerthId) (q : QInstr) (st : Status) (done : Nat) (first : Option Nat)
    (res : Option W64) (pc : Nat) : State :=
  let took := (s.berth b).tookLast
  let s := { s with
    hup := if st = Status.writeThrough then { s.hup with wt := satInc s.hup.wt } else s.hup
    ftl := if st = Status.writeThrough then { s.ftl with health := { s.ftl.health with wt := s.ftl.health.wt + 1 } } else s.ftl }
  let s := s.modBerth b fun x => { x with
    v := match res with
      | some r => x.v.setIfInBounds (bits q.word 48 4) r
      | none => x.v
    e := !st.good
    lastStat := if setsLastStat q.op then st else x.lastStat
    queue := if x.kind then x.queue else x.queue.drop 1
    pc := if x.kind then BitVec.ofNat 16 pc else x.pcPast q.words
    cur := none
    why := .none }
  let s := s.leaveData b q took
  let s := if (s.berth b).sends q.op st then s.sendCompletion b q.tag q.op st done first (res.getD 0) else s
  let x := s.berth b
  if st.stops || (q.op == 0x01 && st == .ok) || (!x.kind && x.stopErr && x.e) then s.stopBerth b st
  else if x.kind && x.poolWords ≤ pc then
    -- Fall-through past the allocation (R145, log 20).
    let s := s.modBerth b fun x => { x with e := true }
    (s.sendCompletion b (BitVec.ofNat 16 pc) 0x00 .badTarget 0 none 0).stopBerth b .badTarget
  else if x.stopDue then s.stopHere b
  else s.rest b

/-- Completion with the next word to follow. -/
def State.finish (s : State) (b : BerthId) (q : QInstr) (st : Status) (done : Nat := 0) (first : Option Nat := none)
    (res : Option W64 := none) : State :=
  s.finishAt b q st done first res ((s.berth b).pc.toNat + q.words)

/-- The instruction of berth `b` that is in progress completes. -/
def State.finishCur (s : State) (b : BerthId) (st : Status) (done : Nat) (first : Option Nat) (res : Option W64) : State :=
  match (s.berth b).cur with
  | some c => s.finish b c.ins st done first res
  | none => s

/-- The berth waits, with its instruction in progress. -/
def State.waitFor (s : State) (b : BerthId) (why : WaitWhy) (c : Cur) : State :=
  s.modBerth b fun x => { x with state := .waiting, why := why, cur := some c }

def State.modCur (s : State) (b : BerthId) (f : Cur → Cur) : State :=
  s.modBerth b fun x => { x with cur := x.cur.map f }

/-- A fresh instruction in progress. -/
def Cur.init (q : QInstr) (p : Phase) : Cur where
  ins := q
  phase := p
  region := 0
  start := 0
  len := 0
  region2 := 0
  start2 := 0
  pos := 0
  done := 0
  first := none
  admitted := false
  writeThrough := false
  denied := false
  lost := false
  status := .ok
  acc := []
  tookLast := false
  blocks := []
  onDie := []
  parts := []
  scratch := none
  stamp := 0
  aseq := 0
  places := []
  open_ := 0
  target := 0
  result := none

/-! ### WAITE and ORDER end when their cause ends (R185, R187) -/

/-- Events that wait in a mask, lowest first. -/
def lowestBit (v : BitVec 16) : Option Nat := (List.range 16).find? fun i => bit v i

/-- Inbox words into V12 upward. -/
def Berth.takeInbox (x : Berth) : Berth :=
  { x with v := x.inbox.zipIdx.foldl (fun v p => v.setIfInBounds (12 + p.2) p.1) x.v, inbox := [] }

/-- WAITE takes the lowest pending event of its mask (R185). -/
def State.takeEvent (s : State) (b : BerthId) (q : QInstr) (i : Nat) : State :=
  let w := (s.berth b).events.getD i 0
  let s := s.modBerth b fun x =>
    let x := if i = 0 then x.takeInbox else x
    { x with z := false, pend := x.pend &&& ~~~(BitVec.ofNat 16 (1 <<< i)) }
  s.finish b q .ok 0 none (some w)

/-- CSEQ of B has reached the count (R187). -/
def orderReached (s : State) (target : BerthId) (c : Nat) : Bool :=
  ((s.berth target).cseq - BitVec.ofNat 32 c).toNat < 2 ^ 31

/-- ORDER cannot be met while its berth stands here (R187). -/
def orderBroken (x : Berth) : Bool :=
  match x.state with
  | .stopped | .unallocated | .loaded => true
  | _ => false

/-- What a waiting berth does when the thing it waits for has come, if it has. -/
def State.wakeOne (s : State) (b : BerthId) : Option State :=
  let x := s.berth b
  match x.state, x.cur with
  | .waiting, some c =>
    match c.phase with
    | .waite => match lowestBit (x.pend &&& c.ins.word.setWidth 16) with
      | some i => some (s.takeEvent b c.ins i)
      | none => none
    | .order =>
      let t := berthOf (bits c.ins.word 0 9)
      if orderReached s t c.target then some (s.finish b c.ins .ok)
      else if orderBroken (s.berth t) then some (s.finish b c.ins .wrongState)
      else none
    | _ => none
  | _, _ => none

/-- The first berth that can go on does so. -/
def State.wakeFirst (s : State) : List BerthId → Option State
  | [] => none
  | b :: r => match s.wakeOne b with
    | some t => some t
    | none => s.wakeFirst r

/-- The berths that wait, lowest first. -/
def State.waiters (s : State) : List BerthId :=
  ((s.berths.toList.zip allBerths).filter fun p => p.1.state == .waiting).map (·.2)

/-- WAITE and ORDER waiters whose cause has come complete, in ascending berth order, until none is left (log 22).
Each completion ends one wait, so 512 are enough. -/
def State.wakeAll : Nat → State → State
  | 0, s => s
  | n + 1, s => match s.wakeFirst s.waiters with
    | some t => State.wakeAll n t
    | none => s

/-- The next state of a meaning, once every wait that its effects end has ended. -/
def answer (s : State) : Out := .next (s.wakeAll 512)

end Sys2Proof.Machine
end

