-- ==== Sys2Proof/Machine/Flags.lean ====
section
/-! DEFINITION. The flag computations (Table BERTH-2) of the arithmetic family (Table TZ-7). -/

namespace Sys2Proof.Machine

/-- What an arithmetic instruction yields: its result and C; none leaves C as it is. -/
structure Alu where
  val : W64
  carry : Option Bool
  deriving DecidableEq, Repr

/-- Carry out of bit 63. -/
def aluAdd (a b : W64) : Alu := { val := a + b, carry := some (2 ^ 64 ≤ a.toNat + b.toNat) }

/-- Borrow. -/
def aluSub (a b : W64) : Alu := { val := a - b, carry := some (a.toNat < b.toNat) }

/-- AND, OR and XOR clear C. -/
def aluLogic (v : W64) : Alu := { val := v, carry := some false }

/-- The last bit shifted out; none for a count of 0, and 0 with C = 0 for 64 or more (R188). -/
def aluShl (a : W64) (n : Nat) : Alu :=
  { val := if 64 ≤ n then 0 else a <<< n, carry := some (0 < n && n < 64 && bit a (64 - n)) }

def aluShr (a : W64) (n : Nat) : Alu :=
  { val := if 64 ≤ n then 0 else a >>> n, carry := some (0 < n && n < 64 && bit a (n - 1)) }

/-- A value that leaves C unchanged. -/
def aluMove (v : W64) : Alu := { val := v, carry := none }

/-- Z and N from the result, C as the operation gives it (Table BERTH-2). -/
def Berth.setFlags (x : Berth) (r : Alu) : Berth :=
  { x with z := r.val == 0, n := bit r.val 63, c := r.carry.getD x.c }

end Sys2Proof.Machine
end

