-- ==== Sys2Proof/Machine/PowerOps.lean ====
section
/-! DEFINITION. Waking power domains (R376, R384 to R390) and pending requests. -/

namespace Sys2Proof.Machine

def State.dom (s : State) (d : Fin 16) : Dom := s.pmu.dom[d]

def State.setDom (s : State) (d : Fin 16) (x : Dom) : State :=
  { s with pmu := { s.pmu with dom := s.pmu.dom.set d.val x d.isLt } }

/-- A pending request ends with REFUSE and a reason (R381, R384). -/
def State.refuseReq (s : State) (reason : Nat) : State :=
  if s.pmu.pend then
    { s with pmu := { s.pmu with
      pend := false
      answer := 3
      reason := BitVec.ofNat 4 reason
      refusals := satInc s.pmu.refusals } }
  else s

/-- Domains that a wake brings back: those in retention or off, and not yet on their way (R385). -/
def State.sleeping (s : State) (ds : List (Fin 16)) : List (Fin 16) :=
  ds.filter fun d => (s.dom d == .retention || s.dom d == .off) && !s.pmu.change.contains (d, Dom.on)

/-- A wake source is recorded and its domains come back at the next boundary (R376, R385), or stay on where they were to
go down there; a pending request for one of them is refused with reason 8 (R384). -/
def State.wakeBy (s : State) (src : Nat) (ds : List (Fin 16)) : State :=
  let w := s.sleeping ds
  let s := { s with pmu := { s.pmu with
    wakeSrc := s.pmu.wakeSrc ||| BitVec.ofNat 9 (2 ^ src)
    change := s.pmu.change.filter fun c => c.2 == .on || !ds.contains c.1 } }
  let s := if s.pmu.pend ∧ (ds.any fun d => d.val == bits s.pmu.req 0 4) then s.refuseReq 8 else s
  if w.isEmpty then s
  else { s with pmu := { s.pmu with
    change := s.pmu.change ++ w.map fun d => (d, Dom.on)
    lastSrc := BitVec.ofNat 4 src
    lastDoms := BitVec.ofNat 16 (w.map fun d => 2 ^ d.val).sum } }

/-- A domain serves work: on, and its wake time has passed (R387). -/
def State.domReady (s : State) (d : Fin 16) : Bool := s.dom d == .on && !(bit s.pmu.waking d)

/-- What an instruction that needs domains meets (R389, R390). -/
inductive DomNeed where
  | ready
  | wait (ds : List (Fin 16))
  | off
  deriving DecidableEq, Repr

/-- A request to lower the domain is answered DELAY: rungs 3 to 8 book nothing new in it (R383). -/
def State.delayed (s : State) (d : Fin 16) : Bool :=
  s.pmu.pend && s.pmu.answer == 2 && d.val == s.pmu.ansDom.toNat

/-- `urgent`: rungs 1 and 2 wake domains whatever PMU_AUTO holds (R388). -/
def State.need (s : State) (ds : List (Fin 16)) (urgent : Bool) : DomNeed :=
  let lacking := ds.filter fun d => !s.domReady d || (!urgent && s.delayed d)
  if lacking.isEmpty then .ready
  else if lacking.any fun d => s.dom d == .failed then .off
  else if lacking.all fun d => s.dom d == .on || urgent || bit s.pmu.auto d then .wait lacking
  else .off

/-- The domains that work needs and that sleep are woken on demand (bit 8, R390). -/
def State.demand (s : State) (ds : List (Fin 16)) : State :=
  let w := s.sleeping ds
  if w.isEmpty then s else s.wakeBy 8 w

end Sys2Proof.Machine
end

