-- ==== Sys2Proof/Machine/Codes.lean ====
section
/-! DEFINITION. What stands in a flash page (R330 to R336): AES-256-XTS under a region's key (R334), codeword metadata
(Tables CODE-3 and the compat layout of R335), the BCH code of R336, and the page with its fill. -/

namespace Sys2Proof.Machine

/-! ### AES-256 (FIPS 197), which R334 names by its standard -/

/-- A product in the field of AES. -/
def aesMul (x y : Byte) : Byte :=
  let step := fun (p : Byte × Byte) (i : Nat) =>
    (if bit y i then p.1 ^^^ p.2 else p.1, if bit p.2 7 then (p.2 <<< 1) ^^^ 0x1B else p.2 <<< 1)
  ((List.range 8).foldl step (0, x)).1

/-- The inverse, which is the 254th power; 0 has none and stays 0. -/
def aesInv (x : Byte) : Byte :=
  ((List.range 7).foldl (fun (p : Byte × Byte) _ => let q := aesMul p.2 p.2; (aesMul p.1 q, q)) ((1 : Byte), x)).1

/-- The substitution of one byte, and its table. -/
def aesSubByte (x : Byte) : Byte :=
  let y := aesInv x
  [1, 2, 3, 4].foldl (fun acc n => acc ^^^ y.rotateLeft n) (y ^^^ 0x63)

def aesUnsubByte (x : Byte) : Byte := aesInv ([1, 3, 6].foldl (fun acc n => acc ^^^ x.rotateLeft n) (0x05 : Byte))

def aesTable : Vector Byte 256 := Vector.ofFn fun i => aesSubByte (BitVec.ofNat 8 i.val)
def aesUntable : Vector Byte 256 := Vector.ofFn fun i => aesUnsubByte (BitVec.ofNat 8 i.val)

def subst (t : Vector Byte 256) (l : List Byte) : List Byte := l.map fun x => t[x.toFin]

def xorBytes (x y : List Byte) : List Byte := List.zipWith (· ^^^ ·) x y

/-- The expanded key of 60 words of four bytes, from a key of 32 bytes. -/
def aesSchedule (key : List Byte) : List (List Byte) :=
  let step := fun (p : List (List Byte) × Byte) (i : Nat) =>
    let last := p.1.getLastD []
    let t := if i % 8 = 0 then xorBytes (subst aesTable (last.rotateLeft 1)) [p.2, 0, 0, 0]
      else if i % 8 = 4 then subst aesTable last else last
    (p.1 ++ [xorBytes (p.1.getD (i - 8) []) t], if i % 8 = 0 then aesMul 2 p.2 else p.2)
  ((List.range 52).foldl (fun p j => step p (j + 8)) ((List.range 8).map fun i => slice key (4 * i) 4, (1 : Byte))).1

/-- The 16 bytes of a round's key. -/
def roundKey (ws : List (List Byte)) (n : Nat) : List Byte := ((ws.drop (4 * n)).take 4).flatten

/-- Rows turned by `turn` columns for each row. -/
def turnRows (turn : Nat) (l : List Byte) : List Byte :=
  (List.range 16).map fun i => l.getD ((i + 4 * turn * (i % 4)) % 16) 0

/-- Columns multiplied by a circulant of factors. -/
def mixColumns (m : List Byte) (l : List Byte) : List Byte :=
  (List.range 16).map fun i =>
    (List.range 4).foldl (fun acc j => acc ^^^ aesMul (m.getD ((j + 4 - i % 4) % 4) 0) (l.getD (i / 4 * 4 + j) 0)) 0

/-- One block of 16 bytes encrypted under an expanded key. -/
def aesBlock (ws : List (List Byte)) (p : List Byte) : List Byte :=
  let mid := (List.range 13).foldl
    (fun l n => xorBytes (mixColumns [2, 3, 1, 1] (turnRows 1 (subst aesTable l))) (roundKey ws (n + 1)))
    (xorBytes p (roundKey ws 0))
  xorBytes (turnRows 1 (subst aesTable mid)) (roundKey ws 14)

/-- The block that encrypts to `c`. -/
def aesUnblock (ws : List (List Byte)) (c : List Byte) : List Byte :=
  let top := subst aesUntable (turnRows 3 (xorBytes c (roundKey ws 14)))
  let mid := (List.range 13).foldl
    (fun l n => subst aesUntable (turnRows 3 (mixColumns [14, 11, 13, 9] (xorBytes l (roundKey ws (13 - n))))))
    top
  xorBytes mid (roundKey ws 0)

/-! ### XTS (IEEE 1619; log 147) -/

/-- The next mask of a data unit. -/
def nextMask (t : BitVec 128) : BitVec 128 := if bit t 127 then (t <<< 1) ^^^ 0x87 else t <<< 1

/-- The halves of a region's key: that of the data and that of the tweak. -/
def dataKey (k : Key) : List (List Byte) := aesSchedule (leBytes 32 k.toNat)
def tweakKey (k : Key) : List (List Byte) := aesSchedule (leBytes 32 (k.toNat / 2 ^ 256))

/-- One data unit, block by block, through `f` under its masks; the tweak is the number of the unit. -/
def xtsUnit (f : List Byte → List Byte) (tweak : List (List Byte)) (number : Nat) (d : List Byte) : List Byte :=
  let first : BitVec 128 := BitVec.ofNat 128 (ofLe (aesBlock tweak (leBytes 16 number)))
  let step := fun (p : List Byte × BitVec 128) (i : Nat) =>
    let m := leBytes 16 p.2.toNat
    (p.1 ++ xorBytes (f (xorBytes (slice d (16 * i) 16) m)) m, nextMask p.2)
  ((List.range (d.length / 16)).foldl step ([], first)).1

/-- Blocks of `size` bytes from logical block `number` on are encrypted under a key (R334). -/
def encrypt (k : Key) (size number : Nat) (d : List Byte) : List Byte :=
  let ws := dataKey k
  (List.range (d.length / size)).flatMap fun i =>
    xtsUnit (aesBlock ws) (tweakKey k) (number + i) (slice d (size * i) size)

def decrypt (k : Key) (size number : Nat) (d : List Byte) : List Byte :=
  let ws := dataKey k
  (List.range (d.length / size)).flatMap fun i =>
    xtsUnit (aesUnblock ws) (tweakKey k) (number + i) (slice d (size * i) size)

/-! ### The compat code (R336) -/

/-- A product in GF(2^18) with x^18 + x^7 + 1. -/
def gfMul (x y : Nat) : Nat :=
  ((List.range 18).foldl (fun (p : Nat × Nat) i =>
    (if y.testBit i then p.1 ^^^ p.2 else p.1, let d := 2 * p.2; if d.testBit 18 then d ^^^ 0x40081 else d)) (0, x)).1

def gfPow (x n : Nat) : Nat := (List.range n).foldl (fun acc _ => gfMul acc x) 1

/-- The minimal polynomial of an element, its coefficients as bits: the product over its 18 conjugates. -/
def minPoly (x : Nat) : Nat :=
  let step := fun (p : List Nat × Nat) (_ : Nat) =>
    (List.zipWith (· ^^^ ·) (0 :: p.1) (p.1.map (gfMul p.2) ++ [0]), gfMul p.2 p.2)
  let cs := ((List.range 18).foldl step ([1], x)).1
  cs.zipIdx.foldl (fun acc c => if c.1 = 1 then acc ^^^ 2 ^ c.2 else acc) 0

/-- A product of polynomials over GF(2), `y` of degree 18 at most. -/
def polyMul (x y : Nat) : Nat := (List.range 19).foldl (fun acc i => if y.testBit i then acc ^^^ x <<< i else acc) 0

/-- The generator of the code that corrects `t` bits. The minimal polynomials of the odd powers up to 511 differ, so their
least common multiple is their product. -/
def bchGenerator (t : Nat) : Nat := (List.range t).foldl (fun g i => polyMul g (minPoly (gfPow 2 (2 * i + 1)))) 1

/-- The parity of a message: the remainder of its bits, byte 0 and its most significant bit first, times x^(18 t). -/
def bchParity (t : Nat) (m : List Byte) : List Byte :=
  let g := bchGenerator t
  let step := fun (r : Nat) (b : Bool) =>
    let r2 := 2 * r
    if b != r2.testBit (18 * t) then (r2 ^^^ g) % 2 ^ (18 * t) else r2 % 2 ^ (18 * t)
  let remainder := m.foldl (fun r x => (List.range 8).foldl (fun r i => step r (bit x (7 - i))) r) 0
  beBytes (18 * t / 8) remainder

/-! ### Codes and codewords (Tables CODE-1 and CODE-2) -/

/-- What stands as one map unit in a page: its ciphertext and what its metadata name. `parity` marks a parity page, whose
`block` is then the stripe number (R333). -/
structure Codeword where
  cipher : List Byte
  block : Nat
  region : Nat
  lost : Bool
  parity : Bool
  seq : W64

/-- Bytes 7 of an LDPC codeword's metadata. -/
def Codeword.flags (c : Codeword) : Byte := BitVec.ofNat 8 (c.region % 64 + 64 * c.lost.toNat + 128 * c.parity.toNat)

/-- The 32 metadata bytes of Table CODE-3. -/
def Codeword.ldpcMeta (c : Codeword) : List Byte :=
  let fields := leBytes 7 c.block ++ [c.flags] ++ leBytes 8 c.seq.toNat ++ zeros 12
  fields ++ leBytes 4 (crc32 (c.cipher ++ fields)).toNat

/-- The 16 metadata bytes of a map unit in a compat page (R335). -/
def Codeword.compatMeta (c : Codeword) : List Byte :=
  leBytes 8 c.block ++ [BitVec.ofNat 8 c.region, BitVec.ofNat 8 (c.lost.toNat + 2 * c.parity.toNat), 0, 0] ++ leBytes 4 c.seq.toNat

/-- A codeword of the strong or the light code: data, metadata, parity. The parity-check matrix is not given (log 148). -/
def Codeword.ldpc (c : Codeword) (light : Bool) : List Byte × List Byte :=
  let body := c.cipher ++ c.ldpcMeta
  (c.cipher, c.ldpcMeta ++ (List.range (if light then 256 else 512)).map (Config.ldpcParity light body))

/-- Bytes of a page's data area and of its spare area (R330). -/
def pageDataBytes : Nat := 16384
def pageSpareBytes : Nat := 2208

/-- Spare bytes that a code leaves unused are 0xFF (R330). -/
def fillSpare (spare : List Byte) : List Byte := spare ++ List.replicate (pageSpareBytes - spare.length) 0xFF

/-- A page of four codewords of one LDPC code: its data area and its spare area. -/
def ldpcPage (light : Bool) (cs : List Codeword) : List Byte × List Byte :=
  let ws := cs.map fun c => c.ldpc light
  (ws.flatMap (·.1), fillSpare (ws.flatMap (·.2)))

/-- A compat page: four map units, 64 metadata bytes, the parity over both (R335, R336). -/
def compatPage (t : Nat) (cs : List Codeword) : List Byte × List Byte :=
  let d := cs.flatMap (·.cipher)
  let m := cs.flatMap Codeword.compatMeta
  (d, fillSpare (m ++ bchParity t (d ++ m)))

end Sys2Proof.Machine
end

