-- ==== Sys2Proof/Machine/Ledger.lean ====
section
/-! DEFINITION. The energy ledger (R350, R355 to R361): usable energy, states, debit and credit. Energy is counted in
units of 0.25 mJ, as HUP_EU and HUP_DEBIT show it. -/

namespace Sys2Proof.Machine

/-- The removal floor, 120 mJ (Table HUP-2). -/
def floorCost : Nat := 480

/-- Buffered write data: 0.25 mJ per 64 KiB or part of it (Table HUP-2). -/
def dataCost (bytes : Nat) : Nat := (bytes + 65535) / 65536

/-- Pending SEAL, CTRINC or CHECKPT: 0.5 mJ. -/
def sealCost : Nat := 2

/-- A map commit: 20 mJ. -/
def commitCost : Nat := 80

/-- HUP_CFG.VMIN as it acts, in 0.1 V (Table HUP-10). -/
def vminOf (cfg : W32) : Nat := clampNat 100 160 (bits cfg 0 8)

/-- HUP_CHG.VTGT as it acts, in 0.5 V. -/
def vtgtOf (chg : W32) : Nat := clampNat 32 70 (bits chg 0 7)

/-- E_u of R350 in 0.25 mJ: 0.8 x 1/2 x C x (V^2 - Vmin^2), with C in uF and V in mV, so the exact figure is
1.6 C (V^2 - Vmin^2) in 1e-9 of a unit of 0.25 mJ; the rounding of the part below a unit is free (log 12). -/
def energyUnits (uf mv vmin : Nat) : Nat :=
  let e := 16 * uf * (mv * mv - (100 * vmin) * (100 * vmin))
  let q := e / 10000000000
  if e % 10000000000 = 0 then q else if Config.roundUpEnergy e then q + 1 else q

/-- The bank as last measured (R350): 0 below Vmin, in bench mode, and without a working bank ADC (R430) or the monitor
block (Table ARCH-5). -/
def State.energy (s : State) : Nat :=
  let v := s.hup.bankMv.toNat
  let vmin := vminOf s.hup.cfg
  if s.hup.ledger = .bench ∨ v < 100 * vmin ∨ (bit s.mon.adcFailed 0 ∧ bit s.mon.adcFailed 1) ∨
    s.pmu.dom[(15 : Fin 16)] = .failed then 0
  else min (energyUnits s.hup.capUf.toNat v vmin) (2 ^ 24 - 1)

/-- Both ledger figures hold as pairs (R28). -/
def Hup.pairsOk (h : Hup) : Bool := h.eu.ok && h.debit.ok

/-- Usable energy as the ledger takes it: zero while a figure's pair is broken (Table ARCH-4). -/
def Hup.usable (h : Hup) : Nat := if h.pairsOk then h.eu.val.toNat else 0

def Hup.d (h : Hup) : Nat := h.debit.val.toNat

/-- The state that Table HUP-1 gives. -/
def State.ledgerState (s : State) : Ledger :=
  if s.hup.ledger = .bench then .bench
  else if 1000 ≤ s.hup.usable ∧ s.hup.capGood then .covered
  else .waiting

/-- The ledger takes the state of Table HUP-1; every change raises the LEDGER event (R355). -/
def State.ledgerUpdate (s : State) : State :=
  let l := s.ledgerState
  if l = s.hup.ledger then s
  else
    let s := { s with hup := { s.hup with ledger := l, sinceCovered := 0 } }
    s.raiseEvent 6 (BitVec.ofNat 32 l.code) none

/-- Items beyond the floor are admitted and E_u is below D (R360). -/
def Hup.over (h : Hup) : Bool := h.ledger != .bench && floorCost < h.d && h.usable < h.d

/-- A debit whose pair is broken is not used (R28): it stays until the next tide forms a good one. -/
def Hup.withDebit (h : Hup) (d : Nat) : Hup := if h.debit.ok then { h with debit := Pair.mk' (BitVec.ofNat 24 d) } else h

def State.debitBy (s : State) (n : Nat) : State := { s with hup := s.hup.withDebit (s.hup.d + n) }

/-- D formed anew from the items admitted and not yet durable (R356, HUP_ITEMS). -/
def Hup.itemSum (h : Hup) : Nat :=
  floorCost + dataCost (1024 * h.kib) + sealCost * h.seals + commitCost * h.commits + h.capTest.getD 0

/-- Credit, down to the floor and no further (R356). -/
def State.creditBy (s : State) (n : Nat) : State :=
  let s := { s with hup := s.hup.withDebit (max floorCost (s.hup.d - n)) }
  { s with hup := { s.hup with overdrawn := s.hup.overdrawn && s.hup.over } }

/-- Covered admission (R357): in order, nothing new while overdrawn, D plus the cost no more than E_u. -/
def Hup.covers (h : Hup) (cost : Nat) : Bool :=
  h.ledger == .covered && !h.overdrawn && h.d + cost ≤ h.usable

/-- What kind of item is admitted (HUP_ITEMS). -/
inductive ItemKind where
  | data (kib : Nat)
  | sealed
  | commit
  deriving DecidableEq, Repr

/-- What the ledger answers an item that reaches it. -/
inductive Admit where
  | admitted
  | wait
  | writeThrough
  deriving DecidableEq, Repr

/-- Boundaries until an item's wait would end (R358). -/
def Hup.waitTides (h : Hup) : Nat := if h.ledger = .covered then 2 else 2 - h.sinceCovered

/-- The answer to an item (R357 to R359, R361). -/
def Hup.answerItem (h : Hup) (cost : Nat) : Admit :=
  if h.ledger = .bench then .writeThrough
  else if h.queue.isEmpty && h.covers cost then .admitted
  else if h.waitTides = 0 then .writeThrough
  else .wait

/-- The counts of HUP_ITEMS with an item added. -/
def Hup.addItem (h : Hup) : ItemKind → Hup
  | .data k => { h with kib := h.kib + k }
  | .sealed => { h with seals := h.seals + 1 }
  | .commit => { h with commits := h.commits + 1 }

def Hup.dropItem (h : Hup) : ItemKind → Hup
  | .data k => { h with kib := h.kib - k }
  | .sealed => { h with seals := h.seals - 1 }
  | .commit => { h with commits := h.commits - 1 }

/-- An item is admitted: debited and counted. -/
def State.admitItem (s : State) (k : ItemKind) (cost : Nat) : State :=
  let s := s.debitBy cost
  { s with hup := s.hup.addItem k }

/-- An item is durable or released: credited and no longer counted. -/
def State.creditItem (s : State) (k : ItemKind) (cost : Nat) : State :=
  let s := s.creditBy cost
  { s with hup := s.hup.dropItem k }

/-- An item joins the ledger's queue: its berth waits and reports it (R358, R162). -/
def State.ledgerWait (s : State) (b : BerthId) (c : Cur) (cost : Nat) : State :=
  let item : WaitItem := { berth := b, cost := cost, tidesLeft := s.hup.waitTides }
  let s := { s with
    hup := { s.hup with queue := s.hup.queue ++ [item], waits := satInc s.hup.waits }
    ftl := { s.ftl with health := { s.ftl.health with waits := s.ftl.health.waits + 1 } } }
  (s.waitFor b .ledger { c with phase := .ledger }).sendInterim b c.ins

/-- A berth's item leaves the ledger's queue. -/
def State.leaveLedger (s : State) (b : BerthId) : State :=
  { s with hup := { s.hup with queue := s.hup.queue.filter fun i => i.berth != b } }

end Sys2Proof.Machine
end

