-- ==== Sys2Proof/Machine/Sha256.lean ====
section
/-! DEFINITION. SHA-256 (FIPS 180-4) and HMAC-SHA-256 (RFC 2104), which the seal block computes (Table ARCH-1, R208,
R222, R278, R281); the manual names both by their standards. The constants are formed as the standard defines them: the
first 32 bits of the fractions of roots of the first primes. -/

namespace Sys2Proof.Machine

/-! ### Constants -/

/-- The first 64 primes. -/
def shaPrimes : List Nat :=
  (List.range 312).filter fun n => 2 ≤ n && (List.range 18).all fun d => d < 2 || n ≤ d || n % d != 0

/-- The largest `r` below `2 ^ n`, above `r0`, whose `k`-th power does not pass `v`. -/
def rootFrom (k v : Nat) : Nat → Nat → Nat
  | 0, r0 => r0
  | n + 1, r0 => rootFrom k v n (if (r0 + 2 ^ n) ^ k ≤ v then r0 + 2 ^ n else r0)

/-- The first 32 bits of the fraction of the `k`-th root of `p`. -/
def rootFraction (k p : Nat) : W32 := BitVec.ofNat 32 (rootFrom k (p * 2 ^ (32 * k)) 37 0)

def shaRoundConsts : List W32 := shaPrimes.map (rootFraction 3)

/-! ### One block -/

/-- The eight working words. -/
structure ShaVars where
  a : W32
  b : W32
  c : W32
  d : W32
  e : W32
  f : W32
  g : W32
  h : W32

def ShaVars.ofList (l : List W32) : ShaVars where
  a := l.getD 0 0
  b := l.getD 1 0
  c := l.getD 2 0
  d := l.getD 3 0
  e := l.getD 4 0
  f := l.getD 5 0
  g := l.getD 6 0
  h := l.getD 7 0

def ShaVars.toList (v : ShaVars) : List W32 := [v.a, v.b, v.c, v.d, v.e, v.f, v.g, v.h]

/-- The initial hash value. -/
def ShaVars.start : ShaVars := .ofList (shaPrimes.map (rootFraction 2))

/-- The sum of a word's turns to the right. -/
def turns (x : W32) (ns : List Nat) : W32 := ns.foldl (fun acc n => acc ^^^ x.rotateRight n) 0

/-- Sixteen words of the message schedule, the next one at the end. -/
def nextWord (win : List W32) : List W32 :=
  let near := win.getD 14 0
  let far := win.getD 1 0
  let late := turns near [17, 19] ^^^ near >>> 10
  let early := turns far [7, 18] ^^^ far >>> 3
  win.drop 1 ++ [late + win.getD 9 0 + (early + win.headD 0)]

/-- One round with the constant `k`; the schedule's window gives its word and moves on. -/
def shaStep (p : ShaVars × List W32) (k : W32) : ShaVars × List W32 :=
  let v := p.1
  let choice := v.g ^^^ (v.e &&& (v.f ^^^ v.g))
  let majority := (v.a &&& v.b) ||| (v.c &&& (v.a ||| v.b))
  let mix := k + p.2.headD 0 + v.h + turns v.e [6, 11, 25] + choice
  ({ a := mix + turns v.a [2, 13, 22] + majority, b := v.a, c := v.b, d := v.c, e := v.d + mix, f := v.e, g := v.f, h := v.g },
   nextWord p.2)

/-- One block of 64 bytes. -/
def shaBlock (v : ShaVars) (blk : List Byte) : ShaVars :=
  let win := (List.range 16).map fun i => BitVec.ofNat 32 (ofBe (slice blk (4 * i) 4))
  let out := (shaRoundConsts.foldl shaStep (v, win)).1
  .ofList (List.zipWith (· + ·) v.toList out.toList)

/-! ### Messages -/

/-- A message with its padding: a one bit, zeros, and its length in bits, in whole blocks. -/
def shaMessage (m : List Byte) : List Byte :=
  m ++ [0x80] ++ zeros ((119 - m.length % 64) % 64) ++ beBytes 8 (8 * m.length)

/-- SHA-256 as bytes, most significant first. -/
def sha256 (m : List Byte) : List Byte :=
  let p := shaMessage m
  let v := (List.range (p.length / 64)).foldl (fun v i => shaBlock v (slice p (64 * i) 64)) ShaVars.start
  v.toList.flatMap fun w => beBytes 4 w.toNat

/-- HMAC-SHA-256 under a key, as bytes. -/
def hmac (key m : List Byte) : List Byte :=
  let short := if 64 < key.length then sha256 key else key
  let full := slice short 0 64
  let mask := fun (b : Byte) => full.map fun x => x ^^^ b
  sha256 (mask 0x5C ++ sha256 (mask 0x36 ++ m))

/-- A digest as the 256-bit value of its bytes. -/
def digest (bs : List Byte) : Digest := BitVec.ofNat 256 (ofBe bs)

def digestBytes (d : Digest) : List Byte := beBytes 32 d.toNat

end Sys2Proof.Machine
end

