-- ==== Sys2Proof/Machine/LogOps.lean ====
section
/-! DEFINITION. The logbook's own operations (R272 to R292): records, the chain, sealing, space, the archive point. -/

namespace Sys2Proof.Machine

/-- This controller's cascade position (Table RST-5). -/
def State.position (s : State) : Nat := bits s.rst.strapCode 0 2

/-- A sequence number of this controller's logbook: the position in bits [63:62] (R277). -/
def State.ownSeq (s : State) (n : W64) : W64 := n ||| (BitVec.ofNat 64 s.position <<< 62)

/-- The master sends a cartridge-wide order to its members (R459). -/
def State.command (s : State) (e : CartridgeEvent) : State :=
  if s.position = 0 ∧ s.quy.map.val ≠ 0 then { s with quy := { s.quy with orders := s.quy.orders ++ [e] } } else s

/-- A die operation starts or is queued (R49). -/
def State.addDie (s : State) (k : DieKind) : State :=
  { s with
    dies := s.dies ++ [{ id := s.nextOp, kind := k, need := [], run := false, suspended := false }]
    nextOp := s.nextOp + 1 }

/-! ### Record images (R276, Table LOG-1) -/

/-- Header bytes 0x00-0x17, with DAMAGED and CHAINBAD as given. -/
def LogRec.head (r : LogRec) (damaged chainbad : Bool) : List Byte :=
  leBytes 2 r.typ.toNat ++ leBytes 2 r.payload.length ++ leBytes 2 r.qual.toNat ++ [r.colour.setWidth 8] ++
  [BitVec.ofNat 8 (damaged.toNat + 2 * r.card.toNat + 4 * chainbad.toNat)] ++
  leBytes 8 r.seq.toNat ++ leBytes 8 r.time.toNat

/-- The 80-byte header: the fields, their complement (R28), PREV. -/
def LogRec.header (r : LogRec) (chainbad : Bool) : List Byte :=
  r.head false chainbad ++ (r.head false false).map (~~~·) ++ digestBytes r.prev

/-- The record without padding. -/
def LogRec.bytes (r : LogRec) (chainbad : Bool) : List Byte := r.header chainbad ++ r.payload

/-- Padding to a multiple of 16 bytes. -/
def pad16 (bs : List Byte) : List Byte := bs ++ zeros ((16 - bs.length % 16) % 16)

/-- The image as stored or delivered (R276). -/
def LogRec.image (r : LogRec) (chainbad : Bool) : List Byte := pad16 (r.bytes chainbad)

/-- The image of a record of which both copies fail (R289). -/
def damagedImage (seq : W64) : List Byte :=
  zeros 7 ++ [1] ++ leBytes 8 seq.toNat ++ zeros 64

/-- The chain hash of a record (R278). -/
def LogRec.chain (r : LogRec) : Digest := digest (hmac Config.chainKey (r.bytes false))

/-- The record with a sequence number. -/
def Logbook.find (l : Logbook) (seq : W64) : Option LogRec := l.recs.find? fun r => r.seq == seq

/-- PREV of the next record: the hash of the last one (R278). -/
def Logbook.prevHash (l : Logbook) : Digest := match l.recs.getLast? with
  | some r => r.chain
  | none => 0

/-! ### Space (R273, R274, R290) -/

/-- Logical blocks of 4 KiB in a 48 MiB block. -/
def logBlocksPer : Nat := 12288

/-- Where an image of `size` bytes goes in an open block: the logical block it shares, or a fresh one (R273). -/
def LogBlk.fits (b : LogBlk) (size : Nat) : Bool := b.used < logBlocksPer || b.off + size ≤ 4096

def LogBlk.put (b : LogBlk) (size : Nat) : LogBlk :=
  if b.used ≠ 0 ∧ b.off + size ≤ 4096 then { b with off := b.off + size }
  else { b with used := b.used + 1, off := size }

/-- The blocks of a copy. -/
def LogCopy.blocks (c : LogCopy) : List LogBlk := c.opens.toList ++ c.closed

/-- The die of a block of a copy. -/
def LogCopy.dieOf (c : LogCopy) (id : Nat) : Option Nat := (c.blocks.find? fun b => b.id == id).map LogBlk.die

/-- The dies of a copy's open blocks that take programs. -/
def LogCopy.openDies (c : LogCopy) : List Nat := c.opens.toList.map LogBlk.die

/-- What is left of a logical block at the end of a tide stays padding (R273). -/
def LogCopy.pad (c : LogCopy) : LogCopy :=
  { c with opens := c.opens.map fun (b : LogBlk) => if b.used = 0 then b else { b with off := 4096 } }

/-- A die takes programs: neither it nor its channel is fenced (R301, R321). -/
def State.dieUsable (s : State) (d : Nat) : Bool :=
  !bit (s.ftl.dieFence ||| s.flt.fences.forcedDies) d && !bit (s.ftl.chFence ||| s.flt.fences.forcedChannels) (d % 16)

/-- The die of a copy's next block in a group: the copy's own channel there (R272), the dies in turn, past those that take no
programs (log 153). -/
def State.nextLogDie (s : State) (c : LogCopy) (g : Fin 8) : Nat :=
  let d := c.opens[g].die
  let turn := (List.range 8).map fun k => d % 16 + 16 * ((d / 16 + 1 + k) % 8)
  (turn.find? s.dieUsable).getD d

/-- A copy takes a new block in place of the open one of a group: its own free ones first, then the spare pool, which lends it
(R290). The answer is the copy, the spare pool and the lent count; none while neither has one. -/
def State.freshLogBlk (s : State) (c : LogCopy) (g : Fin 8) (spare lent : Nat) : Option (LogCopy × Nat × Nat) :=
  let c' := { c with
    closed := c.closed ++ [c.opens[g]]
    opens := c.opens.set g.val { id := c.nextBlk, die := s.nextLogDie c g, used := 0, off := 0 } g.isLt
    nextBlk := c.nextBlk + 1 }
  if 0 < c.free then some ({ c' with free := c.free - 1 }, spare, lent)
  else if 0 < spare then some (c', spare - 1, lent + 1)
  else none

/-- One copy of an image is placed in the open block of a die group. The answer is the copy, the spare pool, the lent count and
the block's number. -/
def State.placeLog (s : State) (c : LogCopy) (g : Fin 8) (spare lent size : Nat) : Option (LogCopy × Nat × Nat × Nat) :=
  (if c.opens[g].fits size then some (c, spare, lent) else s.freshLogBlk c g spare lent).map fun x =>
    let b := x.1.opens[g].put size
    ({ x.1 with opens := x.1.opens.set g.val b g.isLt }, x.2.1, x.2.2, b.id)

/-- An operation other than the logbook's keeps a die busy. -/
def DieOp.holds (o : DieOp) (d : Nat) : Bool :=
  o.run && !o.suspended && (o.need.any fun p => p.1 == d) && (match o.kind with
    | .logCopy .. | .ctrMirror .. => false
    | _ => true)

/-- The groups that a copy may write an image in: on dies that take programs, those with room first, then those whose die is
idle (R274). -/
def State.logGroups (s : State) (c : LogCopy) (size : Nat) : List Nat :=
  let all := (List.range 8).filter fun g => s.dieUsable c.opens[Fin.ofNat 8 g].die
  let room := all.filter fun g => c.opens[Fin.ofNat 8 g].fits size
  let l := if room.isEmpty then all else room
  let idle := l.filter fun g => s.dies.all fun o => !o.holds c.opens[Fin.ofNat 8 g].die
  if idle.isEmpty then l else idle

/-- A copy of an image goes to one of its groups; which one is free (log 5). -/
def State.putLog (s : State) (c : LogCopy) (n spare lent size : Nat) : Option (LogCopy × Nat × Nat × Nat) :=
  let gs := s.logGroups c size
  (gs[Config.freeChoice n % max 1 gs.length]?).bind fun g => s.placeLog c (Fin.ofNat 8 g) spare lent size

/-- The spare pool has run out, and stays so until Full ends (Table LOG-5). -/
def Logbook.exhausted (l : Logbook) : Bool := l.spent || l.spare == 0

/-- The spare pool holds `n` blocks. -/
def Logbook.withSpare (l : Logbook) (n : Nat) : Logbook :=
  { l with spare := n, full := if n ≤ 2 then true else if 8 ≤ n then false else l.full
           spent := if n = 0 then true else if 8 ≤ n then false else l.spent }

/-! ### Sealing (R277, R279, R292) -/

/-- A record to be sealed. -/
structure ToSeal where
  typ : W16
  colour : BitVec 4
  card : Bool
  payload : List Byte
  owner : Option BerthId
  cost : Nat

/-- The block number of a copy that was not written. -/
def noBlk : Nat := 2 ^ 32

/-- The safety pair seals a record: it takes the next number, the time, the quality and the chain hash of the
record before (R276 to R279), and both copies go to the dies. A copy for which no block is left is not written (log 154). -/
def State.sealRec (s : State) (r : ToSeal) : State :=
  let s := s.elapse
  let (k, s) := s.draw
  let (k', s) := s.draw
  let size := (80 + r.payload.length + 15) / 16 * 16
  let pa := s.putLog s.log.copyA k s.log.spare s.log.lent size
  let (a, spare1, lent1, idA) := pa.getD (s.log.copyA, s.log.spare, s.log.lent, noBlk)
  let pb := s.putLog s.log.copyB k' spare1 lent1 size
  let (b, spare2, lent2, idB) := pb.getD (s.log.copyB, spare1, lent1, noBlk)
  let rec' : LogRec := {
    typ := r.typ
    qual := s.tim.qual
    colour := r.colour
    card := r.card
    seq := s.ownSeq s.log.next
    time := s.now
    prev := s.log.prevHash
    payload := r.payload
    durA := pa.isNone
    durB := pb.isNone
    owner := r.owner
    cost := r.cost
    blkA := idA
    blkB := idB }
  let s := { s with
    log := { s.log.withSpare spare2 with
      recs := s.log.recs ++ [rec']
      next := s.log.next + 1
      copyA := a
      copyB := b
      lent := lent2
      oneCopy := s.log.oneCopy || pa.isNone || pb.isNone } }
  let s := if pa.isSome then s.addDie (.logCopy rec'.seq false) else s
  if pb.isSome then s.addDie (.logCopy rec'.seq true) else s

/-- A record of the OC9640's own (Table LOG-4): while the pool is exhausted it is not sealed but counted (Table
LOG-5). -/
def State.sealCard (s : State) (typ : W16) (payload : List Byte) : State :=
  if s.log.exhausted then { s with log := { s.log with unsealed := satInc s.log.unsealed } }
  else s.sealRec { typ := typ, colour := 0, card := true, payload := payload, owner := none, cost := 0 }

/-! ### The archive point (R290, R291) -/

/-- The records that the running LOGREADs have still to read, each from one number up to another (R290). -/
def State.reading (s : State) : List (Nat × Nat) :=
  (s.berths.toList.filterMap fun x => match x.cur with
    | some c => if c.ins.op = 0x41 then some (c.start + c.pos, c.start + c.len) else none
    | none => none) ++
  s.dies.filterMap fun o => match o.kind with
    | .memberLog i => i.records.map fun n => (i.unit, i.unit + n)
    | _ => none

/-- A record keeps its blocks: above the archive point, or still to be read. -/
def State.keepsRec (s : State) (r : LogRec) : Bool :=
  s.log.arch.toNat < r.seq.toNat || s.reading.any fun p => p.1 ≤ r.seq.toNat && r.seq.toNat < p.2

/-- The closed blocks of a copy that R290 erases. -/
def State.erasable (s : State) (c : LogCopy) (blk : LogRec → Nat) : List Nat :=
  (c.closed.map LogBlk.id).filter fun i => s.log.recs.all fun r => blk r != i || !s.keepsRec r

/-- Erased blocks go back to the spare pool while it has lent any, and to their copy otherwise. -/
def LogCopy.erase (c : LogCopy) (ids : List Nat) (spare lent : Nat) : LogCopy × Nat × Nat :=
  let n := ids.length
  let back := min n lent
  ({ c with closed := c.closed.filter fun b => !ids.contains b.id, free := c.free + (n - back) }, spare + back, lent - back)

/-- Blocks whose records are all archived are erased (R290); Full ends at 8 spare blocks (Table LOG-5). What they have worn is
free (log 38). -/
def State.eraseArchived (s : State) : State :=
  let ea := s.erasable s.log.copyA LogRec.blkA
  let eb := s.erasable s.log.copyB LogRec.blkB
  let (a, spare1, lent1) := s.log.copyA.erase ea s.log.spare s.log.lent
  let (b, spare2, lent2) := s.log.copyB.erase eb spare1 lent1
  let gone := fun (c : LogCopy) (ids : List Nat) (i : Nat) =>
    ids.contains i || !(c.blocks.any fun b => b.id == i)
  let recs := s.log.recs.filter fun r => !(gone s.log.copyA ea r.blkA && gone s.log.copyB eb r.blkB)
  if ea.isEmpty && eb.isEmpty then s
  else
    let (n, s) := s.draw
    { s with log := { s.log.withSpare spare2 with
        recs := recs
        old := match recs.head? with
          | some r => r.seq
          | none => s.log.next
        copyA := a
        copyB := b
        lent := lent2
        wearMean := (Config.freeWord n).setWidth 16
        wearMax := (Config.freeWord n).extractLsb' 16 16 } }

/-! ### Checkpoints (R280 to R282) -/

/-- The instant of a checkpoint: THROUGH and its chain hash are noted, and the signature starts (R280). -/
def State.startCheckpoint (s : State) (owner : Option BerthId) (cost : Nat) : State :=
  let s := s.command .checkpointFetch
  let c : CpSigning := {
    through := s.log.next - 1, head := s.log.prevHash, owner := owner, cost := cost, asked := s.now
    heads := Vector.replicate 4 none }
  { s with log := { s.log with signing := s.log.signing ++ [c] } }

/-- Bytes that a member answers a fetch with: THROUGH, HEAD and SPAN. -/
def headBytes : Nat := 72

/-- A member's answer to a fetch, within one tide of 125 us (R282); THROUGH names its position (R277). -/
def CpSigning.answer (c : CpSigning) (now : W64) (d : List Byte) : CpSigning :=
  let p : Fin 4 := Fin.ofNat 4 (ofLe (d.take 8) / 2 ^ 62)
  if d.length = headBytes ∧ now.toNat ≤ c.asked.toNat + 125000 ∧ c.heads[p] = none then
    { c with heads := c.heads.set p.val (some d) p.isLt }
  else c

/-- The first fetch that the member has not answered yet takes the answer. -/
def takeHeads (now : W64) (d : List Byte) : List CpSigning → List CpSigning
  | [] => []
  | c :: r => if c.answer now d = c then c :: takeHeads now d r else c.answer now d :: r

/-- FROM of the next checkpoint (Table LOG-2). -/
def Logbook.cpFrom (l : Logbook) : W64 := match l.cps.getLast? with
  | some c => c.through + 1
  | none => 1

/-- THROUGH of the last checkpoint, for the count of R280. -/
def Logbook.lastThrough (l : Logbook) : W64 := match l.cps.getLast? with
  | some c => c.through
  | none => 0

/-- SPAN: SHA-256 over records FROM to THROUGH, unpadded (R281). -/
def Logbook.span (l : Logbook) (lo hi : W64) : List Byte :=
  sha256 ((l.recs.filter fun r => lo.toNat ≤ r.seq.toNat && r.seq.toNat ≤ hi.toNat).flatMap fun r => r.bytes false)

/-- The MEMBERS entry of a position (Table LOG-2, R282): absent, fenced, answered in time or not. -/
def State.memberEntry (s : State) (c : CpSigning) (p : Fin 4) : List Byte :=
  if bit s.quy.lost p.val then [BitVec.ofNat 8 p.val, 2] ++ zeros 78
  else if !bit s.quy.present p.val then [BitVec.ofNat 8 p.val, 0] ++ zeros 78
  else match c.heads[p] with
    | some d => [BitVec.ofNat 8 p.val, 1] ++ zeros 6 ++ d
    | none => [BitVec.ofNat 8 p.val, 3] ++ zeros 78

/-- Bytes 0x000-0x147 of a checkpoint payload (Table LOG-2). -/
def State.cpBody (s : State) (c : CpSigning) : List Byte :=
  leBytes 8 c.through.toNat ++ leBytes 8 s.log.lastCp.toNat ++ leBytes 8 s.log.cpFrom.toNat ++
  digestBytes c.head ++ s.log.span s.log.cpFrom c.through ++
  s.memberEntry c 1 ++ s.memberEntry c 2 ++ s.memberEntry c 3

/-- The signature is formed and the checkpoint record sealed (R280, R281). -/
def State.sealCheckpoint (s : State) (c : CpSigning) : State :=
  let body := s.cpBody c
  let sig := Config.ecdsaSign s.log.signatures (digest (sha256 body))
  let seq := s.log.next
  let s := s.sealRec
    { typ := 2, colour := 0, card := true, payload := body ++ beBytes 64 sig.toNat, owner := c.owner, cost := c.cost }
  { s with
    log := { s.log with
      cps := s.log.cps ++ [{ seq := seq, through := c.through }]
      lastCp := seq
      signing := s.log.signing.drop 1
      signatures := s.log.signatures + 1 } }

/-- A checkpoint is due by count (R280). -/
def Logbook.cpDue (l : Logbook) : Bool :=
  l.signing.isEmpty && 4096 ≤ (l.next - 1 - l.lastThrough).toNat

end Sys2Proof.Machine
end

