-- ==== Sys2Proof/Machine/MediaOps.lean ====
section
/-! DEFINITION. Stored data, the map and rows (R301 to R314): versions and copies of a map unit, places in rows and
stripes, the pages that stand there. -/

namespace Sys2Proof.Machine

/-! ### Region table -/

/-- Table REGION-1. -/
inductive RType where
  | undefined | logbook | ring | general | compat | reserved
  deriving DecidableEq, Repr

def rtypeOf (cfg : W32) : RType :=
  match bits cfg 0 3 with
  | 0 => .undefined | 1 => .logbook | 2 => .ring | 3 => .general | 4 => .compat | _ => .reserved

def State.region (s : State) (r : Nat) : Region := s.rgn[Fin.ofNat 64 r]

def State.setRegion (s : State) (r : Nat) (x : Region) : State :=
  { s with rgn := s.rgn.set (Fin.ofNat 64 r).val x (Fin.ofNat 64 r).isLt }

def State.ring (s : State) (r : Nat) : Ring := s.rings[Fin.ofNat 64 r]

def State.setRing (s : State) (r : Nat) (x : Ring) : State :=
  { s with rings := s.rings.set (Fin.ofNat 64 r).val x (Fin.ofNat 64 r).isLt }

def State.rtype (s : State) (r : Nat) : RType := rtypeOf (s.region r).cfg.val

def Region.colour (x : Region) : Nat := bits x.cfg.val 4 4
def Region.ro (x : Region) : Bool := bit x.cfg.val 3
def Region.mib (x : Region) : Nat := x.siz.val.toNat

/-- Bytes in a logical block (Table REGION-1). -/
def State.blockSize (s : State) (r : Nat) : Nat := if s.rtype r = .compat then 512 else 4096

/-- Blocks in a region. -/
def State.regionBlocks (s : State) (r : Nat) : Nat := (s.region r).mib * 1048576 / s.blockSize r

/-! ### Map units (R303, R306) -/

/-- The key of a map unit of a region: for a RING its position, for GENERAL its block, for COMPAT its block / 8. -/
def unitKey (region unit : Nat) : Nat := region * 2 ^ 60 + unit

/-- The map unit that a part for a member names (R450). -/
def subKey (i : SubInstr) : Nat := unitKey i.region.val i.unit

def keyRegion (k : Nat) : Nat := k / 2 ^ 60

def State.unit (s : State) (k : Nat) : Option MUnit := tabGet s.store k

/-- A unit takes its place in the table; one that neither a copy nor a version stands for is not listed. -/
def State.putUnit (s : State) (k : Nat) (u : MUnit) : State :=
  { s with store := tabPut s.store k (if u.base.isNone && u.fresh.isEmpty then none else some u) }

def State.unitOf (s : State) (k : Nat) : MUnit := (s.unit k).getD { base := none, fresh := [] }

/-- All eight sectors of a map unit. -/
def wholeUnit : Byte := 0xFF

/-- Bytes of a data unit of the encryption (R334). -/
def Code.dataUnit : Code → Nat
  | .bch _ => 512
  | _ => 4096

/-- The plain content of a copy. -/
def Copy.data (c : Copy) : List Byte := match c.key with
  | some k => decrypt k c.code.dataUnit c.block c.cipher
  | none => c.cipher

/-- Sectors of `new` over `old` where `cover` names them. -/
def patch (old : List Byte) (cover : Byte) (new : List Byte) : List Byte :=
  (List.range 8).flatMap fun i => slice (if bit cover i then new else old) (512 * i) 512

/-- A version over the content below it: COMPAT merges with the unit's content (R303); an unmap leaves nothing. -/
def Version.over (v : Version) (old : Option (List Byte)) : Option (List Byte) :=
  match v.data with
  | none => if v.cover = wholeUnit then none else old.map fun o => patch o v.cover (zeros 4096)
  | some d => some (if v.cover = wholeUnit then d else patch (old.getD (zeros 4096)) v.cover d)

/-- The unit's content, none when it is unmapped. -/
def MUnit.content (u : MUnit) : Option (List Byte) := u.fresh.foldr Version.over (u.base.map Copy.data)

/-- Whether a version leaves the unit mapped. -/
def Version.maps (v : Version) (old : Bool) : Bool := v.data.isSome || (old && v.cover != wholeUnit)

def MUnit.mapped (u : MUnit) : Bool := u.fresh.foldr Version.maps u.base.isSome

/-- The unit is lost (R343): a version in the write share is, or the copy below versions that leave some of it. -/
def MUnit.lost (u : MUnit) : Bool :=
  u.fresh.any Version.lost || (!(u.fresh.any fun v => v.cover == wholeUnit) && (match u.base with
    | some c => c.lost
    | none => false))

/-- The content of a unit; unmapped reads zeros (Table MEDIA-2). -/
def State.unitData (s : State) (k : Nat) : List Byte := (s.unitOf k).content.getD (zeros 4096)

def State.mapped (s : State) (k : Nat) : Bool := (s.unitOf k).mapped

/-- The write share holds the unit: reads copy it from there (R23). -/
def State.inBuffer (s : State) (k : Nat) : Bool := !(s.unitOf k).fresh.isEmpty

/-- The copy that reads go to on the dies. -/
def State.copyOf (s : State) (k : Nat) : Option Copy := let u := s.unitOf k; if u.fresh.isEmpty then u.base else none

/-- The map entry of a unit in the write share, and of an unmapped one (Table MEDIA-2). -/
def entryBuffer : W32 := 0xFFFFFFFE
def entryUnmapped : W32 := 0xFFFFFFFF

/-- The durable map entry of a unit. -/
def MUnit.entry (u : MUnit) : W32 := match u.base with
  | some c => c.place.entry
  | none => entryUnmapped

/-- The map entry of a unit: that of the write share until its change is durable (R21, R23). -/
def State.mapEntry (s : State) (k : Nat) : W32 :=
  let u := s.unitOf k
  if u.fresh.isEmpty then u.entry else if u.mapped then entryBuffer else entryUnmapped

/-! ### Versions (R23, R24, R307) -/

/-- A copy that the map does not name any more (R316), or never named. -/
def State.addStale (s : State) (k : Nat) (orphan : Bool) : Option Copy → State
  | some c => { s with ftl := { s.ftl with stale := s.ftl.stale ++ [{ unit := k, copy := c, orphan := orphan }] } }
  | none => s

/-- The code in which a region's data is programmed now (Table CODE-2, R218). -/
def State.codeOf (s : State) (r : Nat) : Code :=
  if 64 ≤ r then .strong
  else match s.rtype r with
    | .compat => .bch (8 * bits (s.region r).cfg.val 10 6)
    | _ => if bits (s.region r).cfg.val 8 2 = 1 then .light else .strong

/-- Logical blocks in a map unit. -/
def State.unitBlocks (s : State) (r : Nat) : Nat := if r < 64 ∧ s.rtype r = .compat then 8 else 1

/-- A unit's content is encrypted under its region's present key and encoded in its present code (step 8 of Table ARCH-2,
R313). Map pages belong to no region's key. -/
def State.encode (s : State) (k : Nat) (d : List Byte) (seq : W64) (lost : Bool) (p : Place) : Copy :=
  let r := keyRegion k
  let code := s.codeOf r
  let block := k % 2 ^ 60 * s.unitBlocks r
  let key := if 64 ≤ r then none else some ((s.region r).key.getD 0)
  { cipher := match key with
      | some x => encrypt x code.dataUnit block d
      | none => d
    key := key, block := block, region := r % 64, lost := lost, seq := seq, code := code, place := p }

/-- The latest admission stands first. -/
def insertVersion (v : Version) (vs : List Version) : List Version :=
  vs.filter (fun x => v.stamp < x.stamp) ++ [v] ++ vs.filter fun x => !(v.stamp < x.stamp)

/-- A unit takes a version; whatever was admitted later stands over it (R24). -/
def State.newVersion (s : State) (k : Nat) (v : Version) : State :=
  let u := s.unitOf k
  s.putUnit k { u with fresh := insertVersion v u.fresh }

/-- The page of a version that vanished or was overtaken, as it was or will be programmed. -/
def State.orphan (s : State) (k : Nat) (base : Option Copy) (v : Version) : State :=
  match v.place, v.over (base.map Copy.data) with
  | some p, some d => s.addStale k true (some (s.encode k d v.seq v.lost p))
  | _, _ => s

/-- What is left of an older version once `v` stands durably below it: the sectors that `v` does not cover. -/
def Version.under (v old : Version) : Option Version :=
  let c := old.cover &&& ~~~v.cover
  if c = 0 then none else some { old with cover := c }

/-- The change of one admission is durable (R307): the map names the unit's new page, the copy before it is stale. -/
def State.commitVersion (s : State) (stamp k : Nat) : State :=
  let u := s.unitOf k
  match u.fresh.find? fun v => v.stamp == stamp with
  | none => s
  | some v =>
    let newer := u.fresh.filter fun x => stamp < x.stamp
    let older := u.fresh.filter fun x => x.stamp < stamp
    let gone := older.filter fun x => (v.under x).isNone
    let lost := v.lost || (v.cover != wholeUnit && (match u.base with
      | some c => c.lost
      | none => false))
    let base := match v.over (u.base.map Copy.data), v.place with
      | some d, some p => some (s.encode k d v.seq lost p)
      | _, _ => none
    let s := gone.foldl (fun s x => s.orphan k u.base x) s
    (s.addStale k false u.base).putUnit k { base := base, fresh := newer ++ older.filterMap v.under }

/-- A version vanishes (R366, R150): what was below it stands again. -/
def State.dropVersion (s : State) (stamp k : Nat) : State :=
  let u := s.unitOf k
  match u.fresh.find? fun v => v.stamp == stamp with
  | none => s
  | some v => (s.orphan k u.base v).putUnit k { u with fresh := u.fresh.filter fun x => x.stamp != stamp }

/-- A unit leaves the map with all that stands for it (R251). -/
def State.purgeUnit (s : State) (k : Nat) : State :=
  let u := s.unitOf k
  (u.fresh.foldl (fun s v => s.orphan k u.base v) (s.addStale k false u.base)).putUnit k { base := none, fresh := [] }

/-- A version that unmaps a whole unit (R315). -/
def Version.unmap (stamp : Nat) (seq : W64) (thru : Bool) : Version :=
  { stamp := stamp, cover := wholeUnit, data := none, place := none, seq := seq, thru := thru, lost := false, tag := 0 }

/-- The next admission's number (R24). -/
def State.nextStamp (s : State) : Nat × State :=
  (s.ftl.stamp, { s with ftl := { s.ftl with stamp := s.ftl.stamp + 1 } })

/-- The units of a region. -/
def State.regionKeys (s : State) (r : Nat) : List Nat := (s.store.map (·.1)).filter fun k => keyRegion k == r

/-- The units of a region from one unit number up to another. -/
def State.rangeKeys (s : State) (r lo hi : Nat) : List Nat :=
  (s.store.map (·.1)).filter fun k => unitKey r lo ≤ k && k < unitKey r hi

/-- Mapped units of a region, for R265. -/
def State.mappedIn (s : State) (r : Nat) : Nat :=
  (s.store.filter fun p => keyRegion p.1 == r && p.2.mapped).length

/-- Units that the write share holds data of. -/
def State.bufferKeys (s : State) : List Nat :=
  (s.store.filter fun p => p.2.fresh.any fun v => v.data.isSome).map (·.1)

/-- Bytes of a region's units, or of all, in the write share. -/
def MUnit.heldBytes (u : MUnit) : Nat := 4096 * (u.fresh.filter fun v => v.data.isSome).length

/-! ### Seedbeds (R264, R266) -/

/-- Rings that are defined. -/
def State.ringIds (s : State) : List Nat := (List.range 64).filter fun r => s.rtype r == .ring

def State.sbShareField (s : State) (r : Nat) : Nat := bits (s.region r).ringCfg.val 16 7

/-- Whether a ring has pages on this controller: it is spread over all, or its HOME is here (Table CASC-3). -/
def State.ringHere (s : State) (r : Nat) : Bool :=
  bit (s.region r).cfg.val 16 || bits (s.region r).cfg.val 17 2 == s.position

/-- A ring's seedbed share on this controller in bytes (R264). -/
def State.sbShare (s : State) (r : Nat) : Nat :=
  let ids := s.ringIds.filter s.ringHere
  let f := s.sbShareField r
  if !s.ringHere r then 0
  else if f ≠ 0 then f * 4 * 2 ^ 30
  else
    let fixed := (ids.map s.sbShareField).sum
    let n := (ids.filter fun i => s.sbShareField i == 0).length
    (64 - fixed) * 4 * 2 ^ 30 / (if n = 0 then 1 else n)

/-- Copies of a unit that stand in seedbed pages, and versions that were given one. -/
def MUnit.inSeedbed (u : MUnit) : Nat :=
  (match u.base with
    | some c => (c.place.loc == Loc.seedbed).toNat
    | none => 0) +
  (u.fresh.filter fun v => match v.place with
    | some p => p.loc == Loc.seedbed
    | none => false).length

/-- Bytes that a region's units hold in seedbed rows. -/
def State.fillOf (s : State) (r : Nat) : Nat :=
  4096 * ((s.store.filter fun p => keyRegion p.1 == r).map fun p => p.2.inSeedbed).sum

/-- Fill of the general seedbed. -/
def State.gsbFill (s : State) : Nat :=
  (((List.range 64).filter fun r => s.rtype r == .general).map s.fillOf).sum

/-- Where `n` units of a region are programmed (R266). -/
def State.target (s : State) (r n : Nat) : Loc :=
  match s.rtype r with
  | .ring => .seedbed
  | .general => if s.gsbFill + 4096 * n ≤ s.rng.gsbSize then .seedbed else .tlc
  | _ => .tlc

/-! ### Rows and stripes (R300, R301) -/

/-- Pages of 16 KiB in a block: 144 MiB in TLC mode, 48 MiB in pSLC mode (R300). -/
def RowClass.pages : RowClass → Nat
  | .tlc | .map => 9216
  | _ => 3072

/-- Units that a row takes: one page in each stripe is parity. -/
def Row.capacity (r : Row) : Nat := r.cls.pages * (r.blocks.length - 1) * 4

/-- The class of a mode. -/
def Loc.cls : Loc → RowClass
  | .tlc => .tlc
  | .seedbed => .seedbed

/-- The member that holds the parity page of a stripe: the die whose index in the set is the stripe number modulo 32; where the
row has no such die, the member of that number modulo their count (log 150). -/
def Row.parityMember (r : Row) (stripe : Nat) : Nat :=
  (r.blocks.findIdx? fun b => b.1 % 32 == stripe % 32).getD (stripe % max 1 r.blocks.length)

/-- The physical unit number of a slot of a page in a block (R304): a block takes 144 MiB of its die's addresses. -/
def unitNumber (die block page slot : Nat) : W32 := BitVec.ofNat 32 (die * 2 ^ 25 + block * 36864 + page * 4 + slot)

/-- The place of a row's unit number `u`: units fill pages, and pages fill the data members of each stripe in order. -/
def Row.placeOf (r : Row) (l : Loc) (u : Nat) : Place :=
  let m := r.blocks.length - 1
  let stripe := u / (4 * max 1 m)
  let data := r.blocks.eraseIdx (r.parityMember stripe)
  let b := data.getD (u / 4 % max 1 m) (0, 0)
  { entry := unitNumber b.1 b.2 stripe (u % 4), row := r.id, loc := l }

/-- The dies of a stripe set that take programs. -/
def State.setDies (s : State) (set : Nat) : List Nat :=
  ((List.range 32).map fun i => 32 * set + i).filter s.dieUsable

/-- Sets that still open rows: 16 usable dies (R321). -/
def State.setOpens (s : State) (set : Nat) : Bool := 16 ≤ (s.setDies set).length

/-- One of a list, by a free choice; `d` where the list is empty. -/
def pick (l : List Nat) (n d : Nat) : Nat := l.getD (Config.freeChoice n % max 1 l.length) d

/-- Blocks of a die that rows may take; the others are the map store's, the logbook's and the spares (log 149). -/
def rowBlocks : Nat := 888

/-- The lowest free block of a die. -/
def State.freeBlock (s : State) (d : Nat) : Option Nat :=
  (List.range rowBlocks).find? fun b =>
    !(s.ftl.retiredBlks.contains (d, b)) && s.ftl.rows.all fun r => !r.blocks.contains (d, b)

/-- FTL_PRUNE as it acts (Table MEDIA-8). -/
def pruneLow (v : W32) : Nat := clampNat 8 128 (bits v 0 8)
def pruneCrit (v : W32) : Nat := clampNat 2 (pruneLow v / 2) (bits v 8 8)

/-- A set holds fewer free rows than a bound. -/
def State.setBelow (s : State) (n : Nat) (i : Nat) : Bool := s.ftl.freeRows.toList.getD i 0 < n

/-- The pruning reserve is active (R310). -/
def State.pruneRes (s : State) : Bool := (List.range 4).any (s.setBelow (pruneLow s.ftl.pruneNow))

/-- A set may open a row. Below FTL_PRUNE.CRIT the last free one is kept for pruning; best-effort writes and transplants do
not take it (R311). -/
def State.mayOpen (s : State) (set : Nat) (bestEffort : Bool) : Bool :=
  let free := s.ftl.freeRows.toList.getD set 0
  s.setOpens set && (if bestEffort && s.setBelow (pruneCrit s.ftl.pruneNow) set then 2 ≤ free else 1 ≤ free)

/-- Where the next `n` units in a code begin in a row: codewords of one page share one code (R330), and an append unit
begins a page. -/
def Row.from (r : Row) (code : Code) (n : Nat) : Nat :=
  if r.used % 4 = 0 ∨ (r.code = code ∧ n % 64 ≠ 0) then r.used else r.used / 4 * 4 + 4

/-- The open row of a class in a set that takes `n` more units. -/
def State.rowFor (s : State) (set : Nat) (c : RowClass) (code : Code) (n : Nat) : Option Row :=
  s.ftl.rows.find? fun r => r.set.val == set && r.cls == c && r.isOpen && r.from code n + n ≤ r.capacity

/-- Sets in which `n` units of a class find room. -/
def State.setsFor (s : State) (c : RowClass) (code : Code) (n : Nat) (bestEffort : Bool) : List Nat :=
  (List.range 4).filter fun i => (s.rowFor i c code n).isSome || s.mayOpen i bestEffort

/-- Rows of a class in a set that are open are closed: what they have left is too little for what comes next. -/
def State.closeRows (s : State) (set : Nat) (c : RowClass) : State :=
  { s with ftl := { s.ftl with rows := s.ftl.rows.map fun (r : Row) =>
      if r.set.val = set ∧ r.cls = c then { r with isOpen := false } else r } }

/-- A row is opened: one block on each usable die of the set that has one (R301). -/
def State.openRow (s : State) (set : Nat) (c : RowClass) : Row × State :=
  let i : Fin 4 := Fin.ofNat 4 set
  let row : Row := {
    id := s.ftl.nextRow, set := i, cls := c, isOpen := true, used := 0, code := .strong, moving := false
    blocks := (s.setDies set).filterMap fun d => (s.freeBlock d).map fun b => (d, b) }
  (row, { s.closeRows set c with ftl := { (s.closeRows set c).ftl with
    rows := (s.closeRows set c).ftl.rows ++ [row]
    nextRow := s.ftl.nextRow + 1
    freeRows := s.ftl.freeRows.set i.val (s.ftl.freeRows[i] - 1) i.isLt } })

/-- `n` units of a class get consecutive places in one row of a set that has room (log 150). -/
def State.placesIn (s : State) (set : Nat) (c : RowClass) (l : Loc) (code : Code) (n : Nat) : List Place × State :=
  let (row, s) := match s.rowFor set c code n with
    | some r => (r, s)
    | none => s.openRow set c
  let at' := row.from code n
  let upd := fun (r : Row) => if r.id = row.id then
    { r with used := at' + n, code := code, isOpen := decide (at' + n < row.capacity) } else r
  ((List.range n).map fun i => row.placeOf l (at' + i), { s with ftl := { s.ftl with rows := s.ftl.rows.map upd } })

/-- `n` units of a class get places; in which set is free (log 5). None where no set has room. -/
def State.givePlaces (s : State) (c : RowClass) (l : Loc) (code : Code) (n : Nat) (bestEffort : Bool) :
    Option (List Place × State) :=
  let sets := s.setsFor c code n bestEffort
  if sets.isEmpty then none
  else
    let (k, s) := s.draw
    some (s.placesIn (pick sets k 0) c l code n)

/-! ### Moves (R313, R314) -/

/-- Units that are to move get their new places, TLC rows of the data's own class; those that find none stay (R325). -/
def State.planMoves (s : State) (ks : List Nat) (bestEffort : Bool) : List Move × State :=
  ks.foldl (fun (acc : List Move × State) k =>
    match (acc.2.unitOf k).base with
    | none => acc
    | some c =>
      let r := keyRegion k
      match acc.2.givePlaces (if 64 ≤ r then .map else .tlc) .tlc (acc.2.codeOf r) 1 bestEffort with
      | some ([p], s) => (acc.1 ++ [{ unit := k, row := c.place.row, place := p }], s)
      | _ => acc) ([], s)

/-- A move takes effect only if the map still names the old location; otherwise its copy is an orphan (R313). -/
def State.commitMove (s : State) (m : Move) : State :=
  let u := s.unitOf m.unit
  match u.base with
  | some c =>
    let new := s.encode m.unit c.data c.seq c.lost m.place
    if c.place.row = m.row then (s.addStale m.unit false (some c)).putUnit m.unit { u with base := some new }
    else s.addStale m.unit true (some new)
  | none => s

/-- Valid units of a row. -/
def State.rowKeys (s : State) (row : Nat) : List Nat :=
  (s.store.filter fun p => match p.2.base with
    | some c => c.place.row == row
    | none => false).map (·.1)

/-- Whether a version that is still open was given a place in a row. -/
def State.rowPromised (s : State) (row : Nat) : Bool :=
  s.store.any fun p => p.2.fresh.any fun v => match v.place with
    | some q => q.row == row
    | none => false

/-- Erases of a block (R312). -/
def Ftl.erases (f : Ftl) (b : Nat × Nat) : Nat := (tabGet f.wear (b.1 * 1024 + b.2)).getD 0

/-- A row's blocks are erased and the row is free. -/
def State.freeRow (s : State) (id : Nat) : State :=
  match s.ftl.rows.find? fun r => r.id == id with
  | none => s
  | some r => { s with ftl := { s.ftl with
      rows := s.ftl.rows.filter fun x => x.id != id
      stale := s.ftl.stale.filter fun p => p.copy.place.row != id
      wear := r.blocks.foldl (fun w b => tabPut w (b.1 * 1024 + b.2) (some (s.ftl.erases b + 1))) s.ftl.wear
      freeRows := s.ftl.freeRows.set r.set.val (s.ftl.freeRows[r.set] + 1) r.set.isLt } }

/-- Several rows are freed. -/
def State.freeRows (s : State) (ids : List Nat) : State := ids.foldl State.freeRow s

/-- Spare blocks of a set on dies that are not fenced, and those of fenced dies (R302, Table MEDIA-6). -/
def State.spareSum (s : State) (p : Nat → Bool) : Nat :=
  (((List.range 128).filter p).map fun d => s.ftl.spares.toList.getD d 0).sum

def State.setSpares (s : State) (set : Nat) : Nat := s.spareSum fun d => d / 32 == set && !bit s.ftl.dieFence d
def State.fencedSpares (s : State) : Nat := s.spareSum fun d => bit s.ftl.dieFence d

/-! ### Pages as they stand (R330, R333, R335, R340) -/

/-- What the firmware has programmed, named by the map or not. -/
def State.flashCopies (s : State) : List Copy :=
  (s.store.filterMap fun p => p.2.base) ++ s.ftl.stale.map (·.copy)

/-- A copy as a codeword of its page. -/
def Copy.codeword (c : Copy) : Codeword :=
  { cipher := c.cipher, block := c.block, region := c.region, lost := c.lost, parity := false, seq := c.seq }

/-- A codeword that no unit fills: erased bytes (log 150). -/
def Codeword.blank : Codeword :=
  { cipher := List.replicate 4096 0xFF, block := 2 ^ 56 - 1, region := 63, lost := false, parity := false, seq := 0 }

/-- A page by its number, four units a page: its data area and its spare area, in the code of its units. -/
def State.page (s : State) (n : Nat) : List Byte × List Byte :=
  let at' := fun (i : Nat) => s.flashCopies.find? fun c => c.place.entry.toNat == 4 * n + i
  let cs := (List.range 4).map fun i => ((at' i).map Copy.codeword).getD .blank
  match ((List.range 4).filterMap at').head? with
  | none => (List.replicate pageDataBytes 0xFF, fillSpare [])
  | some c => match c.code with
    | .bch t => compatPage t cs
    | .light => ldpcPage true cs
    | .strong => ldpcPage false cs

/-- The parity page of a stripe: the XOR of its data areas, stale pages included (R320, R340). -/
def State.parityPage (s : State) (r : Row) (stripe : Nat) : List Byte × List Byte :=
  let data := r.blocks.eraseIdx (r.parityMember stripe)
  let sum := data.foldl (fun acc b => xorBytes acc (s.page (b.1 * 2 ^ 23 + b.2 * 9216 + stripe)).1) (zeros pageDataBytes)
  ldpcPage false ((List.range 4).map fun i =>
    { cipher := slice sum (4096 * i) 4096, block := stripe, region := 0, lost := false, parity := true, seq := 0 })

/-- The metadata that a page gives the parity of its stripe: 128 bytes, the second half of a COMPAT page's zeros (R340). -/
def State.pageMeta (s : State) (n : Nat) : List Byte :=
  let at' := fun (i : Nat) => s.flashCopies.find? fun c => c.place.entry.toNat == 4 * n + i
  let cs := (List.range 4).map fun i => ((at' i).map Copy.codeword).getD .blank
  match ((List.range 4).filterMap at').head?.map Copy.code with
  | some (.bch _) => cs.flatMap Codeword.compatMeta ++ zeros 64
  | _ => cs.flatMap Codeword.ldpcMeta

/-- The parity of a stripe over the 128 metadata bytes of its data pages (R340). Where it stands is not stated (log 148). -/
def State.parityMeta (s : State) (r : Row) (stripe : Nat) : List Byte :=
  (r.blocks.eraseIdx (r.parityMember stripe)).foldl
    (fun acc b => xorBytes acc (s.pageMeta (b.1 * 2 ^ 23 + b.2 * 9216 + stripe))) (zeros 128)

/-- The class of a block (Table MEDIA-1, log 149). -/
def State.blockClass (s : State) (b : Nat × Nat) : Option RowClass :=
  match s.ftl.rows.find? fun r => r.blocks.contains b with
  | some r => some r.cls
  | none => if 894 ≤ b.2 then some .spare else if 890 ≤ b.2 then some .logbook else none

end Sys2Proof.Machine
end

