-- ==== Sys2Proof/Machine/RingOps.lean ====
section
/-! DEFINITION. Rings and holds (R245 to R259): slots, live, held and pinned segments, the tail, the wrap. -/

namespace Sys2Proof.Machine

def segSize : Nat := 65536

def Ring.tailPos (x : Ring) : Nat := x.tail.val.toNat

def State.holdsOn (s : State) (r : Nat) : List Hold := s.holds.filter fun h => h.region == r

/-- A segment that some hold names (R199). -/
def State.heldSeg (s : State) (r seg : Nat) : Bool := (s.holdsOn r).any fun h => h.segs.contains seg

/-- Held slots (RING_HELD): each segment once. -/
def State.heldCount (s : State) (r : Nat) : Nat := ((s.ring r).segs.filter fun g => s.heldSeg r g).length

/-- Unheld slots, U (R246). -/
def State.unheld (s : State) (r : Nat) : Nat := (s.ring r).k - s.heldCount r

def State.minSeg (s : State) (r : Nat) : Nat := bits (s.region r).ringCfg.val 0 16

/-- Below its minimum (R248). -/
def State.belowMin (s : State) (r : Nat) : Bool := s.unheld r < s.minSeg r + 1

def State.freeSlots (s : State) (r : Nat) : Nat := (s.ring r).k - (s.ring r).segs.length

/-- READ, COPY and VERIFY read, and pin what they have still to read (R192). -/
def readsRing (op : Byte) : Bool := op == 0x20 || op == 0x23 || op == 0x24

/-- A segment pinned by a running READ, VERIFY or COPY. -/
def State.pinnedSeg (s : State) (r seg : Nat) : Bool :=
  s.berths.toList.any fun x => match x.cur with
    | some c => readsRing c.ins.op && c.phase != .gate && c.region == r &&
        (c.start + c.pos) / segSize ≤ seg && seg ≤ (c.start + c.len - 1) / segSize && c.pos < c.len
    | none => false

/-- The oldest segment in a live, pinned or tail slot; the tail segment where there is none (R247, log 28). -/
def State.oldestLiveSeg (s : State) (r : Nat) : Nat :=
  let x := s.ring r
  let t := x.tailPos / segSize
  ((x.segs.filter fun g => x.head ≤ g && !s.heldSeg r g || g == t).min?).getD t

/-- The rolling window begins at the oldest live segment, and never moves back (R250, R256). -/
def State.raiseCut (s : State) (r : Nat) : State :=
  let x := s.ring r
  s.setRing r { x with cut := Pair.mk' (BitVec.ofNat 64 (max x.head (s.oldestLiveSeg r))) }

/-- The oldest live position (RINGPOS mode 1). -/
def State.oldestLive (s : State) (r : Nat) : Nat :=
  let x := s.ring r
  let o := s.oldestLiveSeg r * segSize
  if x.segs.contains (s.oldestLiveSeg r) then o else x.tailPos

/-- A position of a ring that a READ may name: in a slot, below the tail (R192, R247). -/
def State.readable (s : State) (r p : Nat) : Bool := p < (s.ring r).tailPos && (s.ring r).segs.contains (p / segSize)

/-- The colour that a segment carries: that of the latest hold with its own colour, else the ring's (R199). -/
def State.segColour (s : State) (r seg : Nat) : Nat :=
  let hs := (s.holdsOn r).filter fun h => h.colour.isSome && h.segs.contains seg
  let m := (hs.map (·.stamp)).foldl max 0
  match hs.find? fun h => h.stamp == m with
  | some h => (h.colour.getD 0).toNat
  | none => (s.region r).colour

/-- The colour that a unit's data has now: that of its segment, or of its region (Table REGION-4). -/
def State.unitColour (s : State) (k : Nat) : Nat :=
  let r := keyRegion k
  if s.rtype r = .ring then s.segColour r (k % 2 ^ 60 / segSize) else (s.region r).colour

/-- Pages of the write share and of DRAM carry the colour of what they hold, so they are tagged anew when colours change (R232,
Table REGION-5, log 156). -/
def State.retag (s : State) : State :=
  { s with
    store := s.store.map fun p => (p.1, { p.2 with
      fresh := p.2.fresh.map fun (v : Version) => { v with tag := BitVec.ofNat 4 (s.unitColour p.1) } })
    ftl := { s.ftl with mapTags := Vector.ofFn fun i => BitVec.ofNat 4 (s.region i.val).colour } }

/-- A segment that leaves is remembered by the first stored time of its units. Of segments with no slot between them the
last one is enough: a time between them names a unit that is gone either way (R198, R201). -/
def Ring.noteGone (x : Ring) (seg : Nat) : Ring :=
  let mine := x.units.filter fun u => u.no / 1024 == seg
  match (mine.map fun u => u.time.toNat).min? with
  | none => x
  | some t =>
    let kept := x.gone.filter fun g => x.segs.any fun y => g.1 < y && y < seg || seg < y && y < g.1
    { x with gone := kept ++ [(seg, BitVec.ofNat 64 t)] }

/-- A dropped segment's units leave the map: their copies are stale (R251). -/
def State.purgeSeg (s : State) (r seg : Nat) : State :=
  let s := (s.rangeKeys r (seg * segSize) ((seg + 1) * segSize)).foldl State.purgeUnit s
  let x := (s.ring r).noteGone seg
  s.setRing r { x with units := x.units.filter fun u => u.no / 1024 != seg }

/-- A segment leaves its slot: its positions stop being readable at once (R250). -/
def State.leaveSlot (s : State) (r seg : Nat) : State :=
  let x := s.ring r
  s.setRing r { x with segs := x.segs.filter (· != seg) }

def State.dropSeg (s : State) (r seg : Nat) : State := (s.leaveSlot r seg).purgeSeg r seg

/-- Segments that no hold names any more and that lie outside the rolling window leave their slots, once no pin is
left on them (R256). -/
def State.sweepRing (s : State) (r : Nat) (segs : List Nat) : State :=
  segs.foldl (fun s g =>
    if s.heldSeg r g || s.pinnedSeg r g || (s.ring r).head ≤ g then s else s.dropSeg r g) s

/-- Segments whose last pin has ended after their release leave their slots (R256). -/
def State.sweepStep (s : State) : Option State :=
  let ready := fun r => ((s.ring r).segs.filter fun g => g < (s.ring r).head && !s.heldSeg r g && !s.pinnedSeg r g)
  (s.ringIds.find? fun r => !(ready r).isEmpty).map fun r => s.sweepRing r (ready r)

/-- Segments kept in order. -/
def insertSeg (segs : List Nat) (g : Nat) : List Nat :=
  if segs.contains g then segs else (segs.filter (· < g)) ++ [g] ++ (segs.filter (g < ·))

/-! ### The tail (R249) -/

/-- The position that the next append unit takes: past every unit stored, durable or not. -/
def State.appendPos (s : State) (r : Nat) : Nat :=
  let t := (s.ring r).tailPos
  ((s.rangeKeys r t (2 ^ 56)).map fun k => k % 2 ^ 60 + 1).foldl max t

/-- The tail moves over completed units, in position order. -/
def State.advanceTail : Nat → Nat → State → State
  | 0, _, s => s
  | n + 1, r, s =>
    let x := s.ring r
    if x.units.any fun u => u.no == x.tailPos / 64 then
      State.advanceTail n r (s.setRing r { x with tail := Pair.mk' (x.tail.val + 64) })
    else s

/-! ### Segment maps (R306) -/

/-- The segment map of a segment: each append unit's stored time and quality, and the locator of its first map unit. The 64 map
units follow it in stripe order, as the piece that they came in was placed (log 150). -/
def State.segmentMap (s : State) (r seg : Nat) : List (W32 × RUnit) :=
  ((s.ring r).units.filter fun u => u.no / 1024 == seg).map fun u => ((s.unitOf (unitKey r (64 * u.no))).entry, u)

/-- Segments whose maps are kept in the work share: each ring's tail segment and every pinned one. -/
def State.keptMaps (s : State) (r : Nat) : List Nat :=
  (s.ring r).segs.filter fun g => g == (s.ring r).tailPos / segSize || s.pinnedSeg r g

/-- Bytes of a segment map: 1024 locators of 4 bytes, times of 8 and qualities of 2. -/
def segMapBytes : Nat := 14336

/-- Bytes that the kept segment maps take of the work share. -/
def State.mapShare (s : State) : Nat := (s.ringIds.map fun r => (s.keptMaps r).length * segMapBytes).sum

/-- Slots taken stay taken, and what was dropped for them is gone for good. -/
def State.settleTaken (s : State) (r : Nat) (p : Taken → Bool) : State :=
  let x := s.ring r
  let s := s.setRing r { x with taken := x.taken.filter fun t => !p t }
  ((x.taken.filter p).filterMap Taken.dropped).foldl (fun s g => s.purgeSeg r g) s

/-- An append unit completes (step 6 of Table ARCH-2): its time and quality are stored, the wrap made for it stands, and
the tail moves on. -/
def State.completeUnit (s : State) (r no : Nat) : State :=
  let s := (s.elapse).settleTaken r fun t => t.seg == no / 1024
  let x := s.ring r
  let s := s.setRing r { x with units := x.units ++ [{ no := no, time := s.now, qual := s.tim.qual }] }
  s.advanceTail x.units.length.succ r

/-- The wrap takes a slot for a new segment (R250): a free slot, else the oldest live one, neither held nor pinned,
whose segment is dropped. None when neither exists. -/
def State.takeSlot (s : State) (r seg : Nat) : Option State :=
  let x := s.ring r
  let take := fun (dropped : Option Nat) => x.taken ++ [{ seg := seg, dropped := dropped, cutWas := x.head }]
  if 0 < s.freeSlots r then some (s.setRing r { x with segs := insertSeg x.segs seg, taken := take none })
  else
    match x.segs.find? fun g => !s.heldSeg r g && !s.pinnedSeg r g && g != x.tailPos / segSize with
    | none => none
    | some g =>
      let s := s.leaveSlot r g
      let x := s.ring r
      some ((s.setRing r { x with
        segs := insertSeg x.segs seg, wraps := satInc x.wraps, taken := take (some g) }).raiseCut r)

/-- A slot is given back: the segment dropped for it stands there again. -/
def Ring.giveBack (x : Ring) (t : Taken) : Ring :=
  let segs := x.segs.filter (· != t.seg)
  match t.dropped with
  | none => { x with segs := segs }
  | some g => { x with segs := insertSeg segs g, wraps := x.wraps - 1, cut := Pair.mk' (BitVec.ofNat 64 t.cutWas) }

/-- After a removal a slot stays taken if and only if the unit that took it is present (Table RING-4). -/
def State.unwrap (s : State) (r : Nat) : State :=
  let absent := fun (t : Taken) => (s.rangeKeys r (t.seg * segSize) ((t.seg + 1) * segSize)).isEmpty
  let s := s.settleTaken r fun t => !absent t
  let x := s.ring r
  s.setRing r { x.taken.reverse.foldl Ring.giveBack x with taken := [] }

/-- The unit's data is discarded and no removal follows: the wrap stays done. -/
def State.settleWrap (s : State) (r : Nat) : State := s.settleTaken r fun _ => true

/-- Room left in a ring's seedbed share on this controller, data that was given its pages and is still to be programmed taken
off (R266). A ring that has no pages here asks nothing of it. -/
def State.shareRoom (s : State) (r : Nat) : Bool := !s.ringHere r || s.fillOf r + 262144 ≤ s.sbShare r

end Sys2Proof.Machine
end

