-- ==== Sys2Proof/Machine/Durable.lean ====
section
/-! DEFINITION. Durability (R181, R307): what takes effect when a journal entry is programmed, what the success of a die
operation does (steps 9 and 10 of Table ARCH-2), and how an item is withdrawn (R150, R366). -/

namespace Sys2Proof.Machine

/-! ### Effects at the commit -/

/-- The guard-change record (Table LOG-4). `how`: 0 GUARD, 1 APPLY, 2 HARVEST. -/
def State.guardRecord (s : State) (region : Nat) (old new : W32) (how : Nat) (b : BerthId) : State :=
  s.sealCard 0x31 ([BitVec.ofNat 8 region, BitVec.ofNat 8 (bits old 0 8 / 8 * 8), BitVec.ofNat 8 (bits new 0 8 / 8 * 8),
    BitVec.ofNat 8 how] ++ leBytes 2 b.val ++ [BitVec.ofNat 8 (bits old 0 3), BitVec.ofNat 8 (bits new 0 3)])

/-- Every session closes every colour but 0 (R237, Table REGION-7). -/
def State.closeSessions (s : State) : State :=
  { s with berths := s.berths.map fun x => { x with session := { x.session with set := 1 } } }

/-- A reservation is cancelled by the device: the berth is told and goes on best-effort (R160). -/
def State.cancelResv (s : State) (b : BerthId) : State :=
  match (s.berth b).resv with
  | none => s
  | some r =>
    (s.modBerth b fun x => { x with resv := none }).raiseEvent 3 (r.rate.setWidth 32) (some b)

/-- Manifest field 0x08, which the LOCK event carries (Tables NARROW-8 and BERTH-7). -/
def Guard.lockField (g : Guard) : Nat := bits g.lock.val 0 2 + (if 5 ≤ g.tries then 16 else 0)

/-- A code of a password change in the lock-change record. -/
def PwChange.code : PwChange → Nat
  | .keep => 0 | .store _ => 1 | .remove => 2

/-- The lock-change record (R238) of berth `b`. -/
def State.lockRecord (s : State) (old new pw : Nat) (b : BerthId) : State :=
  s.sealCard 0x30 ([BitVec.ofNat 8 old, BitVec.ofNat 8 new, BitVec.ofNat 8 pw, BitVec.ofNat 8 s.grd.tries] ++
    leBytes 2 b.val ++ [0, 0])

/-- The lock state or the password changes (R236 to R238). -/
def State.lockChange (s : State) (b : BerthId) (st : BitVec 2) (pw : PwChange) : State :=
  let old := bits s.grd.lock.val 0 2
  let s := { s with grd := { s.grd with
    lock := Pair.mk' st
    password := match pw with
      | .keep => s.grd.password
      | .store p => some p
      | .remove => none } }
  let s := if st = 1 ∧ old ≠ 1 then s.closeSessions else s
  let s := s.lockRecord old st.toNat pw.code b
  s.raiseEvent 10 (BitVec.ofNat 32 s.grd.lockField) none

/-- RELEASE ends the hold (R256). -/
def State.releaseHold (s : State) (id : Nat) : State :=
  match s.holds.find? fun h => h.id == id with
  | none => s
  | some h => { s with holds := s.holds.filter fun x => x.id != id }.retag.sweepRing h.region h.segs

/-- Units, changes and die operations take new keys. -/
def Change.mapKeys (f : Nat → Nat) (c : Change) : Change :=
  { c with units := c.units.map f, moves := c.moves.map fun m => { m with unit := f m.unit } }

def DieKind.mapKeys (f : Nat → Nat) : DieKind → DieKind
  | .program c => .program (c.mapKeys f)
  | .journal q cs => .journal q (cs.map (Change.mapKeys f))
  | .relocate m => .relocate { m with unit := f m.unit }
  | .transplant ms => .transplant (ms.map fun m => { m with unit := f m.unit })
  | .copyRow r ms => .copyRow r (ms.map fun m => { m with unit := f m.unit })
  | .weedCopy b r st d rows ms => .weedCopy b r st d rows (ms.map fun m => { m with unit := f m.unit })
  | k => k

/-- The units of some segments of a ring become the blocks of a GENERAL region, in position order (R200, R257). -/
def State.rekey (s : State) (r region : Nat) (segs : List Nat) : State :=
  let f := fun k =>
    if keyRegion k = r then
      let p := k % 2 ^ 60
      match segs.idxOf? (p / segSize) with
      | some i => unitKey region (i * segSize + p % segSize)
      | none => k
    else k
  let moved := s.store.filter fun p => f p.1 != p.1
  let s := moved.foldl (fun s p => (s.putUnit p.1 { base := none, fresh := [] }).putUnit (f p.1) p.2) s
  { s with
    dies := s.dies.map fun (o : DieOp) => { o with kind := o.kind.mapKeys f }
    ftl := { s.ftl with
      changes := s.ftl.changes.map (Change.mapKeys f)
      stale := s.ftl.stale.map fun p => { p with unit := f p.unit } } }

/-- The colour of a hold, else of its ring (Table REGION-4). -/
def State.holdColour (s : State) (h : Hold) : Nat := match h.colour with
  | some c => c.toNat
  | none => (s.region h.region).colour

/-- Other holds lose harvested segments; a hold left with none ends (R257). -/
def Hold.lose (segs : List Nat) (h : Hold) : Hold :=
  let rest := h.segs.filter fun g => !segs.contains g
  { h with segs := rest, first := (rest.min?).getD h.first }

/-- HARVEST (R200, R257): the hold's segments become region `region`. -/
def State.harvestHold (s : State) (b : BerthId) (id region : Nat) : State :=
  match s.holds.find? fun h => h.id == id with
  | none => s
  | some h =>
    let r := h.region
    let segs := h.segs
    let n := segs.length
    let colour := s.holdColour h
    let old := s.region r
    let x := s.ring r
    let t := x.tailPos / segSize
    let spread := bits old.cfg.val 16 1
    let cfg := word [(3, 0), (colour, 4), (spread, 16), (bits old.cfg.val 17 2, 17), (spread, 19)]
    let (k, s) := s.draw
    let s := s.rekey r region segs
    let x := segs.foldl Ring.noteGone x
    let s := s.setRing r { x with
      tail := if segs.contains t then Pair.mk' (BitVec.ofNat 56 ((t + 1) * segSize)) else x.tail
      k := x.k - n
      segs := x.segs.filter fun g => !segs.contains g
      units := x.units.filter fun u => !segs.contains (u.no / 1024) }
    let s := s.setRegion r { old with siz := Pair.mk' (BitVec.ofNat 32 (old.mib - 256 * n)) }
    let s := s.setRegion region
      { Region.init with cfg := Pair.mk' cfg, siz := Pair.mk' (BitVec.ofNat 32 (256 * n)), key := some (Config.freeKey k) }
    let s := { s with holds := ((s.holds.filter fun (x : Hold) => x.id != id).map fun (x : Hold) =>
      if x.region = r then x.lose segs else x).filter fun (x : Hold) => !x.segs.isEmpty }
    s.retag.guardRecord region 0 cfg 2 b

/-! ### Durability (R181, R307) -/

/-- A change waits for the next journal entry. -/
def State.addChange (s : State) (c : Change) : State := { s with ftl := { s.ftl with changes := s.ftl.changes ++ [c] } }

/-- One item that an instruction waits for is durable; the last one completes it. -/
def State.itemDurable (s : State) (b : BerthId) : State :=
  match (s.berth b).cur with
  | some c =>
    if c.phase = .durable ∧ c.open_ ≤ 1 then s.finish b c.ins c.status c.done c.first c.result
    else s.modCur b fun c => { c with open_ := c.open_ - 1 }
  | none => s

def State.itemDurable? (s : State) : Option BerthId → State
  | some b => s.itemDurable b
  | none => s

/-- The status block of the berth whose WEED a removal cut reports its completion (R317, R165). -/
def State.reportWeed (s : State) (region start done : Nat) : State :=
  match s.ftl.weedsCut.find? fun w => w.2.2 == (region, start) with
  | none => s
  | some w =>
    { s with ftl := { s.ftl with weedsCut := s.ftl.weedsCut.erase w } }.modBerth w.1 fun x =>
      let x := { x with cseq := x.cseq + 1 }
      x.record (x.completion .ok 0x31 done none 0) w.2.1

/-- The weed record is sealed (R316); its durability completes the WEED. -/
def State.weedRecord (s : State) (b : Option BerthId) (region start done : Nat) : State :=
  let payload := [BitVec.ofNat 8 region] ++ zeros 7 ++ leBytes 8 start ++ leBytes 4 done
  let s := if b.isNone then s.reportWeed region start done else s
  if s.log.exhausted then
    { s with log := { s.log with unsealed := satInc s.log.unsealed } }.itemDurable? b
  else s.sealRec { typ := 0x60, colour := 0, card := true, payload := payload, owner := b, cost := 0 }

/-- The erases of a WEED are done (R316): the rows are free. One out of which a unit has still not been moved stands (R313). -/
def State.weedDone (s : State) (b : Option BerthId) (region start done : Nat) (rows : List Nat) : State :=
  let s := (rows.filter fun r => (s.rowKeys r).isEmpty).foldl State.freeRow s
  let s := { s with ftl := { s.ftl with weeds := s.ftl.weeds - 1, weedRows := s.ftl.weedRows - rows.length } }
  s.weedRecord b region start done

/-- Rows that are being moved out of take no further units. -/
def State.startMove (s : State) (id : Nat) : State :=
  { s with ftl := { s.ftl with rows := s.ftl.rows.map fun (r : Row) =>
      if r.id = id then { r with moving := true, isOpen := false } else r } }

/-- The unmap of a WEED is durable: every row that holds a copy of its range that the map does not name is pruned at once, by
copy, commit and erase as R313 has it, whatever its valid count (R316). -/
def State.weedStart (s : State) (b : Option BerthId) (region start blocks done : Nat) (segs : List Nat) : State :=
  let s := segs.foldl (fun s g => s.purgeSeg region g) s
  let per := if s.rtype region = .compat then 8 else 1
  let lo := unitKey region (start / per)
  let hi := unitKey region ((start + blocks + per - 1) / per)
  let rows := ((s.ftl.stale.filter fun p => lo ≤ p.unit && p.unit < hi).map fun p => p.copy.place.row).dedup
  let s := { s with ftl := { s.ftl with weeds := s.ftl.weeds + 1, weedRows := s.ftl.weedRows + rows.length } }
  if rows.isEmpty then s.weedDone b region start done []
  else
    let s := rows.foldl State.startMove s
    let (ms, s) := s.planMoves (rows.flatMap s.rowKeys) false
    s.addDie (.weedCopy b region start done rows ms)

/-! ### Forced erase (R241, Table REGION-7) -/

/-- Phases in which an instruction has still to come before the ledger. -/
def Phase.before : Phase → Bool
  | .data | .gate | .ledger | .slot | .challenge => true
  | _ => false

/-- An instruction that waits, not yet admitted, when a forced erase begins completes with BUSY (R180). -/
def State.busyOut (s : State) (b : BerthId) : State :=
  match (s.berth b).cur with
  | some c => if c.phase.before ∧ ¬c.admitted ∧ c.pos = 0 then
      { s with hup := { s.hup with queue := s.hup.queue.filter fun i => i.berth != b } }.finish b c.ins .busy
    else s
  | none => s

/-- Step 1: lock state erasing; what has not been admitted is turned away. -/
def State.eraseStart (s : State) (b : BerthId) : State :=
  if bits s.grd.lock.val 0 2 = 2 then s
  else
    let s := ((s.refuseReq 7).lockChange b 2 .keep).closeSessions
    let s := { s with grd := { s.grd with erasePct := 0, eraseResumed := false, eraseDone := 0, eraseKeysDone := false,
                                          eraseBerth := BitVec.ofNat 16 b.val
                                          eraseTag := ((s.berth b).cur.map fun c => c.ins.tag).getD 0 } }
    allBerths.foldl (fun s x => if x = b then s else s.busyOut x) s

/-- Step 3: the keys of regions 1-63 are gone, and with them what the regions held: rings keep their positions and read
as zeros (Table RING-3); holds and reservations end. -/
def State.eraseKeys (s : State) : State :=
  let s := { s with
    rgn := Vector.ofFn fun i => if i.val = 0 then s.rgn[i] else { s.rgn[i] with key := none }
    holds := []
    store := [] }
  allBerths.foldl State.cancelResv s

/-- Sub-instructions go out, one for each position (R450). -/
def State.delegate (s : State) (b : BerthId) (ps : List (Fin 4)) : State :=
  ps.foldl (fun s p => { s with quy := { s.quy with
    out := s.quy.out ++ [{ id := s.quy.nextSub, berth := b, position := p }]
    nextSub := s.quy.nextSub + 1 } }) s

/-- Members that are present and not lost. -/
def State.liveMembers (s : State) : List (Fin 4) :=
  if s.quy.map.val = 0 then [] else [1, 2, 3].filter fun p => bit s.quy.present p.val && !bit s.quy.lost p.val

/-- The master orders steps 3 and 4 on every member, and waits for each of them (R241, Table CASC-6). -/
def State.orderErase (s : State) (b : BerthId) : State :=
  let ps := if s.position = 0 then s.liveMembers else []
  if ps.isEmpty then s else (s.command .forcedErase).delegate b ps

/-- Steps 2 and 3, once step 1 is durable. -/
def State.eraseSteps (s : State) (b : BerthId) : State :=
  let s := s.sealCard 0x20 (leBytes 2 b.val ++ [0, 0])
  let s := s.eraseKeys
  let s := s.orderErase b
  { s with ftl := { s.ftl with changes := s.ftl.changes ++
    [{ units := [], stamp := 0, moves := [], after := [.eraseKeys], owner := none, cost := 0, kib := 0, blocks := 0, commit := false }] } }

/-- The moves of a WEED are durable: its rows are erased, unless units that found no place before are still to be moved (R313). -/
def State.weedNext (s : State) (b : Option BerthId) (region start done : Nat) (rows : List Nat) : State :=
  let ks := rows.flatMap s.rowKeys
  if ks.isEmpty then s.addDie (.weedErase b region start done rows)
  else
    let (ms, s) := s.planMoves ks false
    s.addDie (.weedCopy b region start done rows ms)

def State.runAfter (s : State) : After → State
  | .erase r => s.addDie (.eraseRow r)
  | .weed b region start blocks done segs => s.weedStart b region start blocks done segs
  | .hold id =>
    let s := s.elapse
    { s with holds := s.holds.map fun h => if h.id = id then { h with time := s.now } else h }
  | .release id => s.releaseHold id
  | .harvest b id region => s.harvestHold b id region
  | .lock b st pw => s.lockChange b st pw
  | .restore _ => s
  | .drop region segs => segs.foldl (fun s g => s.purgeSeg region g) s
  | .weedRows b region start done rows => s.weedNext b region start done rows
  | .ferase b => (s.eraseStart b).eraseSteps b
  | .eraseKeys => { s with grd := { s.grd with eraseKeysDone := true } }
  | .blocks xs => xs.foldl (fun s p => s.modBerth p.1 fun x => { x with saved := p.2 }) s
  | .answer id => { s with quy := { s.quy with
      answers := s.quy.answers ++ [{ id := id, status := 0, writeThrough := true, payload := [], first := none }] } }

/-- What a GUARD or an APPLY replaced stands again. -/
def State.restoreCfg (s : State) (o : OldCfg) : State :=
  let s := o.regions.foldl (fun s p => (s.setRegion p.1 p.2.1).setRing p.1 p.2.2) s
  let s := o.counters.foldl (fun s p => { s with ctr := { s.ctr with
    c := s.ctr.c.set p.1.val { s.ctr.c[p.1] with cfg := p.2 } p.1.isLt } }) s
  State.retag { s with
    holds := o.holds ++ s.holds.filter fun h => !(o.holds.any fun x => x.id == h.id)
    grd := { s.grd with colourPw := o.colourPw, pwSel := o.pwSel }
    quy := { s.quy with map := o.map } }

/-- A data piece that runs write-through, or a map commit that the ledger does not cover: it takes no debit (R359). -/
def Change.thru (c : Change) : Bool := c.cost == 0 && (c.commit || !c.units.isEmpty)

/-- The append units of a change, by ring and number. -/
def Change.ringUnits (s : State) (c : Change) : List (Nat × Nat) :=
  ((c.units.filter fun k => s.rtype (keyRegion k) == .ring).map fun k => (keyRegion k, k % 2 ^ 60 / 64)).dedup

/-- A change is durable: its units are, its moves take effect, the ledger is credited, what follows it happens, a
write-through append unit completes (R22, R249), and its owner goes on. -/
def State.commitChange (s : State) (c : Change) : State :=
  let s := c.moves.foldl State.commitMove s
  let s := c.units.foldl (State.commitVersion · c.stamp) s
  let s := if c.commit then s.creditItem .commit c.cost else s.creditItem (.data c.kib) c.cost
  let s := if c.thru && !c.commit then (c.ringUnits s).foldl (fun s u => s.completeUnit u.1 u.2) s else s
  (c.after.foldl State.runAfter s).itemDurable? c.owner

/-- An item of an entry. -/
def JItem.of (kind : JKind) (name value : Nat) (was : Option Copy) : JItem :=
  { kind := kind, name := Pair.mk' (BitVec.ofNat 64 name), value := Pair.mk' (BitVec.ofNat 64 value), was := was }

/-- Rings that a change appends to. -/
def Change.rings (s : State) (c : Change) : List Nat := ((c.ringUnits s).map (·.1)).dedup

/-- What a change enters in the journal (R307): its units and the moves of others, the tails of its rings, holds, rows to be
erased; status blocks, of 32 bytes each (R361). -/
def State.itemsOf (s : State) (c : Change) : List JItem :=
  (c.units.map fun k => JItem.of .unit k 0 (s.unitOf k).base) ++
  (c.moves.map fun m => JItem.of .unit m.unit m.place.entry.toNat (s.unitOf m.unit).base) ++
  ((c.rings s).map fun r => JItem.of .tail r (s.ring r).tailPos none) ++
  c.after.flatMap fun a => match a with
    | .hold id | .release id | .harvest _ id _ => [JItem.of .hold id 0 none]
    | .erase row => [JItem.of .row row 0 none]
    | .weedRows _ _ _ _ rows | .weed _ _ _ _ _ rows => rows.map fun r => JItem.of .row r 0 none
    | .blocks xs => xs.flatMap fun p => List.replicate 2 (JItem.of .block p.1.val 0 none)
    | _ => []

/-- Bytes of an entry, and of an item: a name, a new value and the complement of both (R307). -/
def entryBytes : Nat := 65536
def itemBytes : Nat := 16

/-- Entries that a set of changes fills: each has its sequence number and complement before its items. -/
def State.entriesFor (s : State) (cs : List Change) : Nat :=
  let per := (entryBytes - 16) / itemBytes
  max 1 (((cs.map fun c => (s.itemsOf c).length).sum + per - 1) / per)

/-- The entry, or entries, that a set of changes became (R307), as the programs of the commit leave them: the new map entries
of its units are in by then. -/
def State.enter (s : State) (seq : W64) (cs : List Change) (items : List JItem) : State :=
  let per := (entryBytes - 16) / itemBytes
  let done := items.map fun (i : JItem) => if i.kind = .unit then
    { i with value := Pair.mk' ((s.unitOf i.name.val.toNat).entry.setWidth 64) } else i
  let es := (List.range (s.entriesFor cs)).map fun n =>
    { seq := Pair.mk' (seq - BitVec.ofNat 64 (s.entriesFor cs - 1 - n)), items := (done.drop (per * n)).take per : JEntry }
  { s with ftl := { s.ftl with journal := s.ftl.journal ++ es } }

/-! ### Map pages and roots (R305, R308) -/

/-- The map page of a unit: 1024 entries a page, in a range of keys of its own. -/
def pageKey (k : Nat) : Nat := unitKey (64 + keyRegion k) (k % 2 ^ 60 / 1024)

/-- The 4096 bytes of a map page: the durable entries of its units. -/
def State.mapPageBytes (s : State) (p : Nat) : List Byte :=
  (List.range 1024).flatMap fun i =>
    leBytes 4 (s.unitOf (unitKey (keyRegion p - 64) (p % 2 ^ 60 * 1024 + i))).entry.toNat

/-- Map pages in which a change has touched an entry; rings are mapped by segment (R306). -/
def State.dirtyPages (s : State) (cs : List Change) : List Nat :=
  ((cs.flatMap fun c => c.units ++ c.moves.map Move.unit).filter fun k =>
    keyRegion k < 64 && s.rtype (keyRegion k) != .ring).map pageKey

/-- A dirty map page is written to the map store. -/
def State.writePage (s : State) (p : Nat) : State :=
  match s.givePlaces .map .tlc .strong 1 false with
  | some ([q], s) =>
    let u := s.unitOf p
    (s.addStale p false u.base).putUnit p { u with base := some (s.encode p (s.mapPageBytes p) s.ftl.jSeq false q) }
  | _ => s

/-- A root is written: every dirty map page, then the root in the other slot (R308), and LOG_STAT.UNSEALED with it
(R414). The journal before the older root is not read any more. -/
def State.writeRoot (s : State) : State :=
  let s := s.ftl.dirty.foldl State.writePage s
  let root : Root := {
    seq := Pair.mk' s.ftl.jSeq
    pages := (s.store.filter fun p => 64 ≤ keyRegion p.1).map fun p => (p.1, p.2.entry) }
  let last := if s.ftl.rootSlot then s.ftl.root1 else s.ftl.root0
  { s with
    log := { s.log with unsealedKept := s.log.unsealed }
    ftl := { s.ftl with
      since := 0
      dirty := []
      journal := s.ftl.journal.filter fun e => last.seq.val.toNat ≤ e.seq.val.toNat
      healthKept := s.ftl.health
      rootSlot := !s.ftl.rootSlot
      root0 := if s.ftl.rootSlot then root else s.ftl.root0
      root1 := if s.ftl.rootSlot then s.ftl.root1 else root } }

/-- The root in force (R309): the newer slot whose pair holds. -/
def Ftl.root (f : Ftl) : Option Root :=
  let newer := if f.rootSlot then f.root1 else f.root0
  let other := if f.rootSlot then f.root0 else f.root1
  if newer.seq.ok then some newer else if other.seq.ok then some other else none

/-- At most 2048 map pages stay dirty: the ones untouched longest are written (R364). -/
def State.boundDirty (s : State) : State :=
  let n := s.ftl.dirty.length - 2048
  let t := (s.ftl.dirty.take n).foldl State.writePage s
  { t with ftl := { t.ftl with dirty := s.ftl.dirty.drop n } }

/-- The changes that satisfy a condition and are not durable: those that wait, those in entries that are being
programmed, those of pieces that are being programmed. -/
def State.openChanges (s : State) (p : Change → Bool) : List Change :=
  (s.dies.flatMap fun o => match o.kind with
    | .program c => if p c then [c] else []
    | .journal _ cs => cs.filter p
    | _ => []) ++ s.ftl.changes.filter p

/-- The image of a berth's block that the journal last took, durable or not yet. -/
def State.blockFiled (s : State) (b : BerthId) : BlockImage :=
  ((((s.openChanges fun _ => true).flatMap Change.after).filterMap fun a => match a with
    | .blocks xs => (xs.find? fun p => p.1 == b).map (·.2)
    | _ => none).getLast?).getD (s.berth b).saved

/-- In bench mode the entry of a tide carries the status blocks that have changed (R361). -/
def State.blocksDue (s : State) : State :=
  if s.hup.ledger = .bench then
    match (allBerths.filter fun b => (s.berth b).image != s.blockFiled b).map fun b => (b, (s.berth b).image) with
    | [] => s
    | xs => { s with ftl := { s.ftl with changes := s.ftl.changes ++
        [{ units := [], stamp := 0, moves := [], after := [.blocks xs], owner := none, cost := 0, kib := 0, blocks := 0, commit := false }] } }
  else s

/-- The changes of the tide before are gathered into a journal entry and programmed (R307). A root comes before the entry that
would be the 1025th since the last (R308). -/
def State.journalCommit (s : State) : State :=
  match s.ftl.changes with
  | [] => s
  | cs =>
    let n := s.entriesFor cs
    let s := if 1024 < s.ftl.since + n then s.writeRoot else s
    let s := { s with ftl := { s.ftl with
      changes := []
      jSeq := s.ftl.jSeq + BitVec.ofNat 64 n
      since := s.ftl.since + n
      perTide := if s.ftl.perTide.toNat < n then satNat 16 n else s.ftl.perTide
      dirty := (s.ftl.dirty ++ s.dirtyPages cs).dedup } }
    s.boundDirty.addDie (.journal s.ftl.jSeq cs)

/-- A journal entry is programmed: its changes are durable. -/
def State.journalDone (s : State) (seq : W64) (cs : List Change) : State :=
  let items := cs.flatMap s.itemsOf
  (cs.foldl State.commitChange s).enter seq cs items

/-! ### Records and counter steps become durable -/

/-- Durable in both copies. -/
def LogRec.durable (r : LogRec) : Bool := r.durA && r.durB

/-- The record that completes next: the first, in number order, that still has something to give back, if it and
every lower record are durable (R279). -/
def State.nextRecord (s : State) : Option LogRec :=
  match s.log.recs.find? fun r => !r.durable || r.owner.isSome || r.cost != 0 with
  | some r => if r.durable then some r else none
  | none => none

/-- Records complete in order (R279, R356). -/
def State.completeRecords : Nat → State → State
  | 0, s => s
  | n + 1, s => match s.nextRecord with
    | none => s
    | some r =>
      let f := fun (x : LogRec) => if x.seq = r.seq then { x with owner := none, cost := 0 } else x
      let s := { s with log := { s.log with recs := s.log.recs.map f } }
      let s := if r.cost = 0 then s else s.creditItem .sealed r.cost
      State.completeRecords n (s.itemDurable? r.owner)

/-- One copy of a record is durable. -/
def State.logCopyDone (s : State) (seq : W64) (copyB : Bool) : State :=
  let f := fun (x : LogRec) => if x.seq = seq then
    (if copyB then { x with durB := true } else { x with durA := true }) else x
  let s := { s with log := { s.log with recs := s.log.recs.map f } }
  s.completeRecords s.log.recs.length

def State.counter (s : State) (n : Fin 32) : Counter := s.ctr.c[n]

def State.setCounter (s : State) (n : Fin 32) (x : Counter) : State :=
  { s with ctr := { s.ctr with c := s.ctr.c.set n.val x n.isLt } }

/-- A mirror with a step programmed: steps take effect in admission order, so one that ends later but was admitted before changes
nothing (R294). -/
def stepMirror (old : Option (Pair 64)) (v : W64) : Option (Pair 64) := match old with
  | some p => if p.ok && v.toNat < p.val.toNat then some p else some (Pair.mk' v)
  | none => some (Pair.mk' v)

/-- One mirror of a counter takes its new value (R293, R294). -/
def State.mirrorDone (s : State) (n : Fin 32) (v : W64) (mirrorB : Bool) : State :=
  let x := s.counter n
  if mirrorB then
    let s := if s.ctr.liveB then s.setCounter n { x with b := stepMirror x.b v } else s
    { s with ctr := { s.ctr with usedB := s.ctr.usedB + 1 } }
  else
    let s := if s.ctr.liveA then s.setCounter n { x with a := stepMirror x.a v } else s
    { s with ctr := { s.ctr with usedA := s.ctr.usedA + 1 } }

/-- A die operation has left the list. -/
def State.dropDie (s : State) (id : Nat) : State := { s with dies := s.dies.filter fun o => o.id != id }

/-- The write data in KiB of a change, exact. -/
def kibOf (bytes : Nat) : Nat := (bytes + 1023) / 1024

/-- A change of the firmware's own: it takes no debit (Table COMB-3). -/
def Change.own (moves : List Move) (after : List After) : Change :=
  { units := [], stamp := 0, moves := moves, after := after, owner := none, cost := 0, kib := 0, blocks := 0, commit := false }

/-- The other mirror's program of the same counter step is still to come. -/
def State.siblingPending (s : State) (n : Fin 32) (v : W64) (mirrorB : Bool) : Bool :=
  s.dies.any fun o => match o.kind with
    | .ctrMirror m w mb _ _ => m == n && w == v && mb != mirrorB
    | _ => false

/-- What the success of a die operation other than a host read or a patrol read does. -/
def State.dieOk (s : State) : DieKind → State
  | .program c => s.addChange c
  | .logCopy q cb => s.logCopyDone q cb
  | .ctrMirror n v mb o cost =>
    let s := s.mirrorDone n v mb
    let s := if cost = 0 ∨ s.siblingPending n v mb then s else s.creditItem .sealed cost
    s.itemDurable? o
  | .journal q cs => s.journalDone q cs
  | .relocate m => s.addChange (.own [m] [])
  | .transplant ms =>
    let s := { s with rng := { s.rng with xplant := s.rng.xplant + 4096 * ms.length } }
    s.addChange (.own ms [])
  | .copyRow r ms => s.addChange (.own ms [.erase r])
  | .weedCopy b region start done rows ms => s.addChange (.own ms [.weedRows b region start done rows])
  | .eraseRow r => s.freeRow r
  | .weedErase b region start done rows => s.weedDone b region start done rows
  | .read _ | .patrol | .memberLog _ | .memberRead _ => s

/-! ### What was promised is finished (R363, R405, R419) -/

/-- An operation that a deferral, HALT or a removal must finish: admitted data, its map commit, records, counter
steps. -/
def DieKind.promised : DieKind → Bool
  | .program c => !c.thru
  | .logCopy .. | .ctrMirror .. | .journal .. => true
  | _ => false

/-- Every operation of the kinds given ends well, in order, and what follows from it; a journal entry is formed whenever
none is left. -/
def State.finishWhere (p : DieKind → Bool) : Nat → State → State
  | 0, s => s
  | n + 1, s =>
    match s.dies.find? fun o => p o.kind with
    | some o => State.finishWhere p n ((s.dropDie o.id).dieOk o.kind)
    | none => if s.ftl.changes.isEmpty then s else State.finishWhere p n s.journalCommit

/-- Every promised operation ends well. -/
def State.finishPromised (n : Nat) (s : State) : State := s.finishWhere DieKind.promised n

/-- Pieces and map commits only: HALT on F04 leaves records and counter steps (R419). -/
def DieKind.mapWork : DieKind → Bool
  | .program c => !c.thru
  | .journal .. => true
  | _ => false

/-- Enough rounds for `finishPromised`: each operation, each record's copies, the entry and what it starts. -/
def State.promisedFuel (s : State) : Nat := 4 * s.dies.length + 4 * s.ftl.changes.length + 16

/-! ### Withdrawal (R150, R366) -/

/-- A change that is not durable vanishes: its units' newest versions do, and what it had done to rings and holds at its
admission is undone. -/
def State.undoChange (s : State) (c : Change) : State :=
  let s := c.units.foldl (State.dropVersion · c.stamp) s
  let s := if c.commit then s.creditItem .commit c.cost else s.creditItem (.data c.kib) c.cost
  c.after.foldl (fun s a => match a with
    | .hold id => { s with holds := s.holds.filter fun h => h.id != id }.retag
    | .release id | .harvest _ id _ =>
      { s with holds := s.holds.map fun h => if h.id = id then { h with leaving := false } else h }
    | .weed _ region _ _ _ segs =>
      let x := s.ring region
      s.setRing region { x with segs := segs.foldl insertSeg x.segs }
    | .restore o => s.restoreCfg o
    | .weedRows b region start done rows => s.addDie (.weedCopy b region start done rows [])
    | _ => s) s

/-- Those changes vanish, the latest first. -/
def State.withdraw (s : State) (p : Change → Bool) : State :=
  let cs := s.openChanges p
  let s := { s with
    dies := s.dies.filterMap fun (o : DieOp) => match o.kind with
      | .program c => if p c then none else some o
      | .journal q cs => some { o with kind := .journal q (cs.filter fun c => !p c) }
      | _ => some o
    ftl := { s.ftl with changes := s.ftl.changes.filter fun c => !p c } }
  cs.reverse.foldl State.undoChange s

/-- The outstanding items of some berths lose their owner: the instructions have ended (R150), or will not be answered
(Table HUP-5). -/
def State.disownBy (s : State) (p : BerthId → Bool) : State :=
  let own := fun (o : Option BerthId) => o.filter fun b => !p b
  let aft := fun (a : After) => match a with
    | .weed w r st n d g => After.weed (own w) r st n d g
    | .weedRows w r st d rows => After.weedRows (own w) r st d rows
    | a => a
  let ch := fun (c : Change) => { c with owner := own c.owner, after := c.after.map aft }
  let die := fun (o : DieOp) => { o with kind := match o.kind with
    | .program c => .program (ch c)
    | .journal q cs => .journal q (cs.map ch)
    | .weedErase w r st d rows => .weedErase (own w) r st d rows
    | .weedCopy w r st d rows ms => .weedCopy (own w) r st d rows ms
    | .ctrMirror n v mb w cost => .ctrMirror n v mb (own w) cost
    | k => k }
  { s with
    log := { s.log with
      recs := s.log.recs.map fun (r : LogRec) => { r with owner := own r.owner }
      signing := s.log.signing.map fun (c : CpSigning) => { c with owner := own c.owner } }
    ftl := { s.ftl with changes := s.ftl.changes.map ch }
    dies := s.dies.map die }

def State.disown (s : State) (b : BerthId) : State := s.disownBy fun x => x == b

end Sys2Proof.Machine
end

