-- ==== Sys2Proof/Machine/Resv.lean ====
section
/-! DEFINITION. Guaranteed-rate reservations (R51 to R55, R159): what they charge and the limits. -/

namespace Sys2Proof.Machine

/-- Dies of a group that take programs (R42). -/
def State.groupDies (s : State) (g : Nat) : Nat :=
  ((List.range 128).filter fun d => (d % 16) / 2 == g && s.dieUsable d).length

/-- The parameter word's fields (Table NARROW-7). -/
def paramDir (p : BitVec 26) : BitVec 6 := p.setWidth 6
def paramEn (p : BitVec 26) : BitVec 6 := p.extractLsb' 6 6
def paramRate (p : BitVec 26) : Nat := bits p 12 2
def paramPay (p : BitVec 26) : Nat := 512 * 2 ^ bits p 14 2
def paramTide (p : BitVec 26) : BitVec 2 := p.extractLsb' 16 2
def paramCredit (p : BitVec 26) : Nat := bits p 18 8

def popcount {w : Nat} (v : BitVec w) : Nat := ((List.range w).filter fun i => bit v i).length

/-- Lane rates in Mb/s (Table NARROW-7). -/
def rateMbps : Nat → Nat
  | 0 => 2500 | 1 => 8000 | _ => 16000

/-- Lanes run at 2.5 Gb/s at most while the crystal or a PLL has failed (R99, R397). -/
def State.slowClock (s : State) : Bool := s.pmu.rcOnly

def State.laneMbps (s : State) (p : BitVec 26) : Nat := if s.slowClock then 2500 else rateMbps (paramRate p)

/-- Lanes of a direction under a parameter word. -/
def State.laneCount (s : State) (p : BitVec 26) (up : Bool) : Nat :=
  popcount (paramEn p &&& s.lnk.usable &&& (if up then ~~~paramDir p else paramDir p))

/-- Reservations in force. -/
def State.resvs (s : State) : List Resv := s.berths.toList.filterMap (·.resv)

/-- Sum of the rates of a direction in MB/s. -/
def rateSum (rs : List Resv) (up : Bool) : Nat := ((rs.filter fun r => r.up == up).map fun r => r.rate.toNat).sum

/-- The positions in use, ascending: the master and those of QUY_MAP (Table CASC-3). -/
def State.positions (s : State) : List Nat := 0 :: [1, 2, 3].filter fun p => bit s.quy.map.val p

/-- Regions that a reservation names. -/
def Resv.names (r : Resv) (n : Nat) : Bool := bit r.regions n

/-- A region has data at a position (Table CASC-3). -/
def State.spansPos (s : State) (n p : Nat) : Bool :=
  let cfg := (s.region n).cfg.val
  (s.rtype n == .ring || s.rtype n == .general || s.rtype n == .compat) &&
    (if bit cfg 16 then s.positions.contains p else bits cfg 17 2 == p)

/-- The positions that a reservation's regions span. -/
def State.resvPositions (s : State) (r : Resv) : List Nat :=
  match [0, 1, 2, 3].filter fun p => (List.range 64).any fun n => r.names n && s.spansPos n p with
  | [] => [0]
  | ps => ps

/-- Rate of a direction at a position, in twelfths of a MB/s: a reservation charges its positions equally (R51). -/
def State.rateAt (s : State) (rs : List Resv) (p : Nat) (up : Bool) : Nat :=
  (rs.map fun r =>
    let ps := s.resvPositions r
    if r.up = up ∧ ps.contains p then 12 * r.rate.toNat / ps.length else 0).sum

/-- Control cores that are left (Table ARCH-5). -/
def State.coresLeft (s : State) : Nat := max 1 (4 - popcount s.flt.fences.cores)

/-- Die time charged to each group at a position, in units in which one die's tide capacity is 12 x 8 x 196,608,000:
4.978 ms per 196,608 bytes written, 0.06 ms per 65,536 bytes read, spread over the eight groups (Table TIDE-4). On this
controller the times scale with the control cores that are left (R30). -/
def State.dieCharge (s : State) (rs : List Resv) (p : Nat) : Nat :=
  (s.rateAt rs p false * 4978000 + s.rateAt rs p true * 180000) * 4 / (if p = s.position then s.coresLeft else 4)

/-- No die group above 80 % of its tide capacity (R53); a member's groups count as whole until it is lost (R457). -/
def State.diesHold (s : State) (rs : List Resv) : Bool :=
  rs.isEmpty || s.positions.all fun p => (List.range 8).all fun g =>
    10 * s.dieCharge rs p ≤ 8 * (12 * 8 * 196608000) * (if p = s.position then s.groupDies g
      else if bit s.quy.lost p then 0 else 16)

/-- Rate of a quay lane in Mb/s (R442). -/
def State.quayMbps (s : State) : Nat := if s.slowClock then 2500 else 16000

/-- The share of a quay port's direction that reservations charge, as a numerator and a denominator (R454). -/
def State.portLoad (s : State) (rs : List Resv) (p : Nat) (up : Bool) : Nat × Nat :=
  (s.rateAt rs p up * 4116 * 130 * 8, 2 * s.quayMbps * 128 * 4096 * 12)

/-- No quay port direction above 85 % (R454). -/
def State.portsHold (s : State) (rs : List Resv) : Bool :=
  (s.positions.filter (· != 0)).all fun p => [false, true].all fun up =>
    100 * (s.portLoad rs p up).1 ≤ 85 * (s.portLoad rs p up).2

/-- No link direction above 85 % (R52, R53). -/
def State.linkHolds (s : State) (p : BitVec 26) (rs : List Resv) (up : Bool) : Bool :=
  rateSum rs up * (paramPay p + 20) * 130 * 8 * 100 ≤ 85 * s.laneCount p up * s.laneMbps p * 128 * paramPay p

/-- The DRAM controller is lost (Table ARCH-5, R346). -/
def State.dramLost (s : State) : Bool := s.mem.width == 0 || s.pmu.dom[(12 : Fin 16)] == .failed

/-- With the DRAM controller lost, GENERAL and COMPAT have no rate guarantee (Table ARCH-5). -/
def State.dramHolds (s : State) (r : Resv) : Bool :=
  !s.dramLost || (List.range 64).all fun n => !(r.names n && (s.rtype n == .general || s.rtype n == .compat))

/-- Every limit of R53 holds for a list of reservations under a parameter word. -/
def State.limitsHold (s : State) (p : BitVec 26) (rs : List Resv) : Bool :=
  s.diesHold rs && s.portsHold rs && s.linkHolds p rs false && s.linkHolds p rs true && rs.all s.dramHolds

/-- The newest reservation's berth. -/
def State.newestResv (s : State) : Option BerthId :=
  let m := (s.resvs.map (·.stamp)).foldl max 0
  (s.berths.toList.zip allBerths).findSome? fun p => match p.1.resv with
    | some r => if r.stamp = m then some p.2 else none
    | none => none

/-- The reservations on GENERAL and COMPAT regions are cancelled when the DRAM controller is lost (Table ARCH-5). -/
def State.cancelDram (s : State) : State :=
  (s.berths.toList.zip allBerths).foldl (fun t p => match p.1.resv with
    | some r => if s.dramHolds r then t else t.cancelResv p.2
    | none => t) s

/-- Reservations are cancelled, newest first, until every limit holds (R55). -/
def State.cancelShrunk : Nat → State → State
  | 0, s => s
  | n + 1, s =>
    if s.limitsHold s.lnk.agreed.val s.resvs then s
    else match s.newestResv with
      | some b => State.cancelShrunk n (s.cancelResv b)
      | none => s

end Sys2Proof.Machine
end

