-- ==== Sys2Proof/Machine/Fault.lean ====
section
/-! DEFINITION. Fault events (R416 to R426): how an event's class is settled, what it isolates, what is reported, and
HALT. -/

namespace Sys2Proof.Machine

/-- Base classes of Table FLT-1; F00, F01 and F61 stand at the class a forced event takes (R426). -/
def baseTable : List Nat :=
  [1, 1, 0, 1,  3, 1, 2, 0,  1, 1, 0, 1,  2, 2, 0, 1] ++
  [1, 1, 0, 1,  2, 1, 0, 1,  2, 1, 0, 2,  1, 2, 0, 1] ++
  [2, 0, 1, 0,  0, 2, 1, 0,  1, 0, 0, 0,  2, 0, 0, 0] ++
  [0, 1, 1, 1,  2, 0, 2, 2,  2, 0, 2, 2,  1, 1, 1, 1]

def baseClass (i : Fin 64) : Cls := Cls.ofCode (baseTable.getD i.val 0)

/-- The reserved sources of Table FLT-1, never raised (R416). -/
def reservedSource (i : Fin 64) : Bool := [35, 39, 43, 45, 46, 47].contains i.val

/-- The unit that an event names. -/
inductive FUnit where
  | none
  | lane (n : Fin 6) | port (n : Fin 3) | channel (n : Fin 16) | die (n : Fin 128) | codec (n : Fin 29)
  | core (n : Fin 4) | member (n : Fin 4) | domain (n : Fin 16) | region (n : Fin 64) | dram (n : Fin 3)
  deriving DecidableEq, Repr

def setBit {w : Nat} (v : BitVec w) (i : Nat) : BitVec w := v ||| BitVec.ofNat w (2 ^ i)
def clearBit {w : Nat} (v : BitVec w) (i : Nat) : BitVec w := v &&& ~~~(BitVec.ofNat w (2 ^ i))

/-- Codec units by bit of COD_FENCE (R426). -/
def Cod.fenceWord (c : Cod) : BitVec 29 := c.xor ++ BitVec.ofBool c.bch ++ c.soft ++ c.hard ++ c.enc

def Cod.setFence (c : Cod) (v : BitVec 29) : Cod :=
  { c with
    enc := v.extractLsb' 0 16
    hard := v.extractLsb' 16 8
    soft := v.extractLsb' 24 2
    bch := bit v 26
    xor := v.extractLsb' 27 2 }

/-- The unit is fenced already. -/
def State.unitFenced (s : State) : FUnit → Bool
  | .none => false
  | .lane n => bit s.flt.fences.lanes n
  | .port n => bit s.flt.fences.ports n
  | .channel n => bit (s.ftl.chFence ||| s.flt.fences.forcedChannels) n
  | .die n => bit (s.ftl.dieFence ||| s.flt.fences.forcedDies) n
  | .codec n => bit (s.cod.fenceWord ||| s.flt.fences.forcedCodec) n
  | .core n => bit s.flt.fences.cores n
  | .member n => bit s.quy.lost n
  | .domain n => bit s.flt.fences.domains n
  | .region n => s.rgn[n].fenced
  | .dram n => bit s.mem.dramFenced n

/-- The DRAM width after a device is lost (R346). -/
def dramWidth (f : BitVec 3) : BitVec 2 :=
  if bit f 2 ∨ (bit f 0 ∧ bit f 1) then 0 else if bit f 0 ∨ bit f 1 then 1 else 2

/-- Lane mode is left: the lanes go idle, and up parcels not yet acknowledged wait for GET (R107, R124, R131). -/
def State.leaveLane (s : State) : State :=
  { s with
    lnk := { s.lnk with
      mode := .narrow, active := 0, down := 0, replayBuf := [], headReplays := 0, sliceLost := false, dozeAccepted := false
      armed := false, rxMode := .normal, fast := false }
    nar := { s.nar with up := s.lnk.replayBuf.map (·.2) ++ s.nar.up } }

/-- A lane leaves the usable mask; a link left without a lane in a direction goes back to narrow mode (log 25). -/
def State.dropLane (s : State) (n : Nat) : State :=
  let was := bit s.lnk.active n
  let s := { s with lnk := { s.lnk with
    usable := clearBit s.lnk.usable n
    active := clearBit s.lnk.active n
    down := clearBit s.lnk.down n } }
  if was ∧ (s.lnk.down = 0 ∨ s.lnk.active = s.lnk.down) then s.leaveLane else s

/-- The unit is isolated (Table FLT-2). Fences by a forced event are kept apart, since they are never stored
(R426). -/
def State.isolate (s : State) (u : FUnit) (forced : Bool) : State :=
  match u with
  | .none => s
  | .lane n => { s with flt := { s.flt with fences := { s.flt.fences with lanes := setBit s.flt.fences.lanes n } } }.dropLane n
  | .port n =>
    { s with
      flt := { s.flt with fences := { s.flt.fences with ports := setBit s.flt.fences.ports n } }
      quy := { s.quy with ports := s.quy.ports.set n.val { s.quy.ports[n] with state := .fenced } n.isLt } }
  | .channel n =>
    if forced then { s with flt := { s.flt with fences := { s.flt.fences with
      forcedChannels := setBit s.flt.fences.forcedChannels n } } }
    else { s with ftl := { s.ftl with chFence := setBit s.ftl.chFence n } }
  | .die n =>
    if forced then { s with flt := { s.flt with fences := { s.flt.fences with
      forcedDies := setBit s.flt.fences.forcedDies n } } }
    else { s with ftl := { s.ftl with dieFence := setBit s.ftl.dieFence n } }
  | .codec n =>
    if forced then { s with flt := { s.flt with fences := { s.flt.fences with
      forcedCodec := setBit s.flt.fences.forcedCodec n } } }
    else { s with cod := s.cod.setFence (setBit s.cod.fenceWord n) }
  | .core n => { s with flt := { s.flt with fences := { s.flt.fences with cores := setBit s.flt.fences.cores n } } }
  | .member n => { s with quy := { s.quy with lost := setBit s.quy.lost n } }
  | .domain n => { s with flt := { s.flt with fences := { s.flt.fences with domains := setBit s.flt.fences.domains n } } }
  | .region n => { s with rgn := s.rgn.set n.val { s.rgn[n] with fenced := true } n.isLt }
  | .dram n =>
    let f := setBit s.mem.dramFenced n
    { s with mem := { s.mem with dramFenced := f, width := dramWidth f } }

def State.setSource (s : State) (i : Fin 64) (x : Source) : State :=
  { s with flt := { s.flt with src := s.flt.src.set i.val x i.isLt } }

/-- Another source of the block already shows this class (R417). -/
def State.shows (s : State) (i : Fin 64) (k : Cls) : Bool :=
  (List.range 4).any fun j =>
    let t := s.flt.src[Fin.ofNat 64 (4 * (i.val / 4) + j)]
    t.sticky && t.cls == k

/-- A ceiling below the base class acts as the base class (R417). -/
def State.ceiling (s : State) (i : Fin 64) : Nat := max (s.flt.src[i].ceil.toNat) (baseClass i).code

/-- The settled class of an event and whether it was escalated or merged (R417). -/
def State.settleClass (s : State) (i : Fin 64) (k : Cls) (u : FUnit) : Cls × Bool × Bool :=
  if k.code < 3 ∧ s.shows i k then
    let failed := bit s.pmu.failed (i.val / 4)
    if ¬s.unitFenced u ∧ ¬failed ∧ k.code + 1 ≤ s.ceiling i then (Cls.ofCode (k.code + 1), true, false)
    else (k, false, true)
  else (k, false, false)

/-- The highest active class (R422), none when no sticky is set and the controller is not halted. -/
def State.highest (s : State) : Option Cls :=
  if s.flt.halted then some .halt
  else s.flt.src.toList.foldl (fun m x => if x.sticky then some (match m with
    | some c => c.max x.cls
    | none => x.cls) else m) none

/-- A class as a byte, 0xFF for none (R422). -/
def clsByte : Option Cls → Nat
  | some c => c.code
  | none => 0xFF

/-- A change of the highest active class is recorded and reported (R422). -/
def State.reportClass (s : State) (src : Nat) : State :=
  let h := s.highest
  if h = s.flt.reported then s
  else
    let old := s.flt.reported
    let s := { s with flt := { s.flt with reported := h } }
    let s := s.sealCard 0x40 (leBytes 1 (clsByte old) ++ leBytes 1 (clsByte h) ++ leBytes 1 src ++ [0])
    s.raiseEvent 4 (BitVec.ofNat 32 (clsByte h)) none

/-- An instruction in progress ends with HALTED (R419). -/
def State.haltBerth (s : State) (b : BerthId) : State :=
  match (s.berth b).cur with
  | some c => (s.finish b c.ins .halted c.done c.first none).disown b
  | none => s

/-- HALT (R419): intake stops, what was admitted becomes durable, the halt record is sealed, lane mode is left.
`src` is the source, 0xFF for HALTCTL. F04 skips the records. -/
def State.haltEntry (s : State) (src : Nat) : State :=
  if s.flt.halted then s
  else
    let s := { s with hup := { s.hup with queue := [] } }.command .masterHalt
    let s := if src = 4 then s.finishWhere DieKind.mapWork s.promisedFuel else s.finishPromised s.promisedFuel
    let s := if src = 4 then s else
      let n := s.log.next
      let sealed := !s.log.exhausted
      let s := s.sealCard 0x42 (leBytes 1 src ++ [0, 0, 0])
      let s := s.finishPromised s.promisedFuel
      { s with flt := { s.flt with haltSeq := if sealed then some n else s.flt.haltSeq } }
    let s := { s with flt := { s.flt with halted := true } }
    let s := s.leaveLane.reportClass src
    allBerths.foldl State.haltBerth s

/-- R417 in one event: count, class, sticky, last-event registers and reaction, then the report. -/
def State.capture (s : State) (i : Fin 64) (k : Cls) (u : FUnit) (forced : Bool) : State :=
  let s := s.elapse
  let x := s.flt.src[i]
  let (c, esc, merged) := s.settleClass i k u
  let s := s.setSource i { x with
    sticky := true
    cls := if x.sticky then x.cls.max c else c
    count := satInc x.count }
  let s := { s with flt := { s.flt with
    lastSrc := BitVec.ofNat 6 i.val, lastCls := c, lastEsc := esc, lastMerged := merged, lastForced := forced,
    lastTime := s.now } }
  -- R418: FENCE isolates the unit; DEGRADE withdraws a redundant one.
  let s := if c.code = 0 then s else s.isolate u forced
  let s := s.wakeBy 7 [15, 1, Fin.ofNat 16 (i.val / 4)]
  let s := s.reportClass i.val
  if c = .halt then s.haltEntry i.val else s

/-- A fault event (R417); a lost unit may cost reservations, which raises F16 (R55). -/
def State.raise (s : State) (i : Fin 64) (k : Cls) (u : FUnit := .none) (forced : Bool := false) : State :=
  let s := s.capture i k u forced
  let n := s.resvs.length
  let t := s.cancelDram.cancelShrunk n
  if t.resvs.length < n then t.capture 16 .degrade .none false else t

/-- A ledger figure's pair is broken: F05, and usable energy counts as zero until the next tide (Table ARCH-4). -/
def State.checkLedger (s : State) : State :=
  if s.hup.pairsOk then s else (s.raise 5 .degrade).ledgerUpdate

/-- An admission or a credit that has met a broken debit raises F05 (R28). -/
def State.checkDebit (before s : State) : State :=
  if !s.hup.debit.ok && (s.hup.kib, s.hup.seals, s.hup.commits) != (before.hup.kib, before.hup.seals, before.hup.commits) then
    s.checkLedger
  else s

/-- The logbook-full source F06 is raised when the pool falls to 2 or runs out (Table LOG-5). -/
def State.checkLog (before s : State) : State :=
  if (s.log.full && !before.log.full) || (s.log.exhausted && !before.log.exhausted) then s.raise 6 .fence else s

/-- A record of the OC9640's own is sealed (R284), with the space check of Table LOG-5. -/
def State.ownRecord (s : State) (typ : W16) (payload : List Byte) : State := s.checkLog (s.sealCard typ payload)

end Sys2Proof.Machine
end

