-- ==== Sys2Proof/Machine/MemOps.lean ====
section
/-! DEFINITION. The protected memories (R341 to R348): error counts, remap entries, the flip-mask, and the program
pool and scratch that a berth reads and writes through them. -/

namespace Sys2Proof.Machine

def State.memOf (s : State) (m : Fin 10) : Mem := s.mems[m]

def State.setMem (s : State) (m : Fin 10) (x : Mem) : State := { s with mems := s.mems.set m.val x m.isLt }

/-- The correctable source of a memory (Table FLT-1). -/
def ceSource (m : Fin 10) : Fin 64 :=
  match m.val with
  | 0 => 36 | 1 => 26 | 2 => 26 | 3 => 10 | 4 => 14 | 5 => 18 | 6 => 22 | 7 => 7 | 8 => 2 | _ => 48

/-- The uncorrectable source and its class (Tables MEM-2 and FLT-1). -/
def ueSource (m : Fin 10) : Fin 64 × Cls :=
  match m.val with
  | 0 => (37, .fence) | 1 => (27, .fence) | 2 => (27, .fence) | 3 => (11, .degrade) | 4 => (15, .degrade)
  | 5 => (19, .degrade) | 6 => (23, .degrade) | 7 => (4, .halt) | 8 => (3, .degrade) | _ => (49, .degrade)

/-- The unit an uncorrectable error isolates: a control core (Table MEM-2). -/
def ueUnit (m : Fin 10) : FUnit :=
  match m.val with
  | 3 => .core 0 | 4 => .core 1 | 5 => .core 2 | 6 => .core 3 | _ => .none

/-- Bytes in a word (Table MEM-1). -/
def memWordBytes (m : Fin 10) : Nat := if m.val = 9 then 64 else 8

/-- The 4 KiB page of a word. -/
def memPage (m : Fin 10) (addr : Nat) : Nat := addr * memWordBytes m / 4096

/-- A word is remapped, or its page withdrawn when all 16 entries are used (R344). -/
def State.remap (s : State) (m : Fin 10) (addr : W32) : State :=
  let x := s.memOf m
  if x.remap.contains addr then s
  else if x.remap.length < 16 then s.setMem m { x with remap := x.remap ++ [addr] }
  else
    let p := memPage m addr.toNat
    if x.withdrawn.contains p then s
    else (s.setMem m { x with withdrawn := x.withdrawn ++ [p] }).raise 38 .degrade

/-- A corrected error (R342); one that recurs is remapped. -/
def State.memCe (s : State) (m : Fin 10) (addr : W32) (recurs : Bool) : State :=
  let x := s.memOf m
  let s := s.setMem m { x with ce := satInc x.ce, lastCe := addr }
  let s := s.raise (ceSource m) .note
  if recurs then s.remap m addr else s

/-- Which x16 device a DRAM error exceeds the entries of: data device 0 or 1 or the check device, a free one of those not
fenced (R346, log 26). -/
def State.dramDevice (s : State) : Fin 3 :=
  let left := (List.finRange 3).filter fun d => !bit s.mem.dramFenced d.val
  left.getD (Config.freeChoice s.freeCtr % left.length) 0

/-- The lower of the capacitance last committed to the health report and CAPMIN (R353). -/
def State.startCap (s : State) : W16 :=
  let c := s.ftl.health.capLast
  if c = 0 ∨ Config.fuseCapmin.toNat ≤ c.toNat then Config.fuseCapmin else satNat 16 c.toNat

/-- A page of the retained SRAM counts as unset (Table MEM-2): of the contents that R414 lists, those that lie in it. Their places are
free (log 158). -/
def State.unsetPage (s : State) (page : Nat) : State :=
  let lies := fun (i : Nat) => Config.retainedPage i == page
  { s with
    rst := { s.rst with
      cause := if lies 0 then 0 else s.rst.cause
      strapFaults := if lies 4 then 0 else s.rst.strapFaults
      trimTries := if lies 4 then 0 else s.rst.trimTries }
    grd := { s.grd with tries := if lies 1 then 0 else s.grd.tries }
    log := { s.log with unsealed := if lies 2 then s.log.unsealedKept else s.log.unsealed }
    hup := { s.hup with capUf := if lies 3 then s.startCap else s.hup.capUf } }

/-- An uncorrectable error (R343): counted, raised, remapped. The requester's own consequence is the caller's. -/
def State.memUe (s : State) (m : Fin 10) (addr : W32) : State :=
  let x := s.memOf m
  let full := 16 ≤ x.remap.length
  let s := s.setMem m { x with ue := satInc x.ue, lastUe := addr }
  let (src, k) := ueSource m
  let s := s.raise src k (ueUnit m)
  let s := s.remap m addr
  let s := if m.val = 9 ∧ full then s.draw.2.raise 50 .degrade (.dram s.dramDevice) else s
  if m.val = 8 then s.unsetPage (memPage 8 addr.toNat) else s

/-- Words of the buffer's write share, taken as its first 12 MiB (log 39). -/
def writeShareWords : Nat := 1572864

/-- Bytes of the buffer's withdrawn pages, in the write share or in the work share (R344). -/
def State.bufferLost (s : State) (write : Bool) : Nat :=
  4096 * ((s.memOf 0).withdrawn.filter fun p => decide (p < writeShareWords / 512) == write).length

/-- The write share of 12 MiB and the work share of 4 MiB, withdrawn pages taken off (R19, R344). -/
def State.writeShare (s : State) : Nat := 12582912 - s.bufferLost true
def State.workShare (s : State) : Nat := 4194304 - s.bufferLost false

/-! ### The flip-mask and injured words (R347, R348) -/

/-- Bits that differ in a byte: data and check. -/
def Flipped.weight (f : Flipped) : Nat := popcount f.data + popcount f.check

/-- A requester writes a byte of a word: an armed flip-mask aimed at it injures the stored byte and disarms;
otherwise the byte is whole again. -/
def State.memWrote (s : State) (m : Fin 10) (byteAddr : Nat) : State :=
  let x := s.memOf m
  let w := BitVec.ofNat 32 (byteAddr / 8)
  let i := BitVec.ofNat 3 (byteAddr % 8)
  let rest := x.flipped.filter fun f => !(f.addr == w && f.byte == i)
  if x.flipArmed ∧ x.flipAddr = w ∧ i = x.flipMask.extractLsb' 13 3 then
    let check := x.flipMask.extractLsb' 8 5 &&& (if m.val = 9 then 0x0F else 0x1F)
    let f : Flipped := { addr := w, byte := i, data := x.flipMask.extractLsb' 0 8, check := check }
    s.setMem m { x with flipped := rest ++ [f], flipArmed := false, flipHit := true }
  else if x.flipped.isEmpty then s
  else s.setMem m { x with flipped := rest }

/-- How a read of a word ends: clean, with bytes corrected, or uncorrectable. The (13,8) code corrects one bit and
detects two; three or more bits in a byte are outside what the manual states, and are taken as detected (log 27). -/
inductive MemHit where
  | clean
  | corrected
  | uncorrectable
  deriving DecidableEq, Repr

def State.memHit (s : State) (m : Fin 10) (word : Nat) : MemHit :=
  let fs := (s.memOf m).flipped.filter fun f => f.addr.toNat == word
  if fs.isEmpty then .clean
  else if fs.all fun f => f.weight ≤ 1 then .corrected
  else .uncorrectable

/-- The word's injuries end: it is written back (R342) or remapped (R343). -/
def State.memHeal (s : State) (m : Fin 10) (word : Nat) : State :=
  let x := s.memOf m
  s.setMem m { x with flipped := x.flipped.filter fun f => f.addr.toNat != word }

/-- Words are read: true when one of them was uncorrectable. -/
def State.memRead (s : State) (m : Fin 10) (word : Nat) : Nat → Bool × State
  | 0 => (false, s)
  | n + 1 =>
    match s.memHit m word with
    | .clean => s.memRead m (word + 1) n
    | .corrected => ((s.memHeal m word).memCe m (BitVec.ofNat 32 word) false).memRead m (word + 1) n
    | .uncorrectable => (true, (s.memHeal m word).memUe m (BitVec.ofNat 32 word))

/-! ### Program pool and scratch -/

/-- A requester writes bytes; each is checked against the flip-mask. -/
def State.wroteBytes (s : State) (m : Fin 10) (a : Nat) : Nat → State
  | 0 => s
  | n + 1 => (s.memWrote m a).wroteBytes m (a + 1) n

def State.poolWrite (s : State) (i : Nat) (w : W64) : State :=
  { s with pool := Memory.writeN s.pool (8 * i) (leBytes 8 w.toNat) }.wroteBytes 1 (8 * i) 8

def State.scratchWrite (s : State) (a : Nat) (d : List Byte) : State :=
  { s with scratch := Memory.writeN s.scratch a d }.wroteBytes 2 a d.length

/-- Pool units: 64 words of 8 bytes; a 4 KiB page holds eight units. -/
def State.unitWithdrawn (s : State) (u : Nat) : Bool := (s.memOf 1).withdrawn.contains (u * 512 / 4096)

/-- Units that some berth holds. -/
def State.unitTaken (s : State) (u : Nat) : Bool :=
  s.berths.toList.any fun x => x.poolBase ≤ u && u < x.poolBase + x.poolUnits

def State.unitFree (s : State) (u : Nat) : Bool := !s.unitTaken u && !s.unitWithdrawn u

def State.pageFree (s : State) (p : Nat) : Bool :=
  !(s.berths.toList.any fun x => x.scrBase ≤ p && p < x.scrBase + x.scrPages) && !(s.memOf 2).withdrawn.contains p

/-- First fit: the first run of `n` free places among `total` (R145, R146). -/
def firstFit (free : Nat → Bool) (n total : Nat) : Option Nat :=
  (List.range (total + 1 - n)).find? fun i => (List.range n).all fun j => free (i + j)

end Sys2Proof.Machine
end

