-- ==== Sys2Proof/Machine/Operands.lean ====
section
/-! DEFINITION. Tsuilaza words (R170 to R175): fields, conditions, extension words, and how a berth comes to its next
instruction and what refuses it before its own rules apply (Table COMB-2 rows 1 to 3). -/

namespace Sys2Proof.Machine

/-! ### Fields (Table TZ-1) -/

def QInstr.cc (q : QInstr) : Nat := bits q.word 52 4
def QInstr.dst (q : QInstr) : Nat := bits q.word 48 4
def QInstr.srcA (q : QInstr) : Nat := bits q.word 44 4
def QInstr.mode (q : QInstr) : Nat := bits q.word 40 4
def QInstr.imm (q : QInstr) (lo n : Nat) : Nat := bits q.word lo n
def QInstr.modeBit (q : QInstr) (i : Nat) : Bool := bit q.word (40 + i)

/-- The extension words taken. -/
def QInstr.xc (q : QInstr) : Nat := q.ext.length

def QInstr.extWord (q : QInstr) (i : Nat) : W64 := q.ext.getD i 0

/-- A value register. -/
def Berth.reg (x : Berth) (i : Nat) : W64 := x.v.getD (i % 16) 0

/-- The bits of a word that its instruction defines, OP and CC among them. -/
def usedMask (fs : List (Nat × Nat)) : W64 :=
  ((52, 12) :: fs).foldl (fun m f => m ||| BitVec.ofNat 64 ((2 ^ f.2 - 1) <<< f.1)) 0

/-- Every reserved bit is 0 (R171). -/
def QInstr.only (q : QInstr) (fs : List (Nat × Nat)) : Bool := q.word &&& ~~~(usedMask fs) == 0

/-- Field places: DST, SRCA, MODE, XC. -/
def fDst : Nat × Nat := (48, 4)
def fSrcA : Nat × Nat := (44, 4)
def fSrcB : Nat × Nat := (40, 4)
def fXc : Nat × Nat := (38, 2)

/-! ### Opcodes (Table TZ-5) -/

/-- The instructions that take extension words, so that IMM[39:38] is XC (R170, R182). -/
def takesExt (op : Byte) : Bool :=
  [0x20, 0x21, 0x22, 0x23, 0x24, 0x30, 0x31, 0x32, 0x34, 0x35, 0x40, 0x41, 0x60, 0x61, 0x62, 0x63, 0x64, 0x65, 0x67,
   0x6A].contains op.toNat

/-- The opcodes of Table TZ-5. -/
def knownOp (op : Byte) : Bool :=
  let n := op.toNat
  n ≤ 0x0A || (0x10 ≤ n && n ≤ 0x1A) || (0x20 ≤ n && n ≤ 0x24) || (0x30 ≤ n && n ≤ 0x35) ||
  (0x40 ≤ n && n ≤ 0x42) || n == 0x48 || n == 0x49 || n == 0x50 || n == 0x51 || (0x60 ≤ n && n ≤ 0x6B)

/-- GUARD, QUIESCE, APPLY, RESUME, STC, PATCH, HALTCTL, LOCK, UNLOCK and FERASE (R142). -/
def serviceOp (op : Byte) : Bool := [0x61, 0x62, 0x63, 0x64, 0x66, 0x67, 0x68, 0x69, 0x6A, 0x6B].contains op.toNat

/-- Extension words that follow a word (R170, R171). -/
def extCount (w : W64) : Nat := if takesExt (w.extractLsb' 56 8) then bits w 38 2 else 0

/-- The instructions of a push, each with its extension words; none when it ends inside one (R152). -/
def parsePush (tag : W16) : Nat → List W64 → Option (List QInstr)
  | 0, _ => some []
  | _ + 1, [] => some []
  | n + 1, w :: r =>
    if r.length < extCount w then none
    else match parsePush tag n (r.drop (extCount w)) with
      | some qs => some ({ tag := tag, word := w, ext := r.take (extCount w) } :: qs)
      | none => none

/-! ### Conditions (Table TZ-2) -/

def Berth.cond (x : Berth) (cc : Nat) : Bool :=
  match cc with
  | 0 => true
  | 1 => x.z
  | 2 => !x.z
  | 3 => x.n
  | 4 => !x.n
  | 5 => x.c
  | 6 => !x.c
  | 7 => x.e
  | 8 => !x.e
  | 9 => !x.c && !x.z
  | 10 => x.c || x.z
  | _ => false

/-! ### New work (Table COMB-2) -/

/-- A cause other than the ledger wait and stop-change-restart is active. -/
def State.hardBusy (s : State) : Bool := [1, 2, 3, 4, 5, 8].any s.busyCause

/-- New work for a berth is refused with BUSY (R129, Table COMB-2 row 2): stop-change-restart leaves berths 0-7
out. -/
def State.refusesBusy (s : State) (b : BerthId) : Bool := s.hardBusy || (s.busyCause 6 && 8 ≤ b.val)

/-! ### The next instruction -/

/-- The instruction at a resident berth's program counter; extension words past the allocation are missing. -/
def State.fetch (s : State) (x : Berth) : QInstr :=
  let i := x.pc.toNat
  let w := s.poolWord (x.poolStart + i)
  let n := min (extCount w) (x.poolWords - (i + 1))
  { tag := x.pc, word := w, ext := (List.range n).map fun j => s.poolWord (x.poolStart + i + 1 + j) }

/-- The instruction whose turn it is: a READY berth's, while the part and its berth engine run. -/
def State.nextInstr (s : State) (b : BerthId) : Option QInstr :=
  let x := s.berth b
  if s.alive && x.state == .ready && s.pmu.dom[(6 : Fin 16)] == .on then
    if x.kind then some (s.fetch x) else x.queue.head?
  else none

/-! ### The berth engine's bookings (R43, R44, R47, R158, R182) -/

/-- Engine time of an opcode in ns, and what each 64 KiB of data beyond the first adds (Table TZ-5). -/
def engineCost (op : Nat) : Nat × Nat :=
  match op with
  | 0x07 | 0x08 | 0x0A => (250, 0)
  | 0x09 | 0x35 | 0x49 | 0x51 => (300, 0)
  | 0x1A | 0x50 | 0x69 => (200, 0)
  | 0x20 | 0x41 => (400, 50)
  | 0x21 => (550, 50)
  | 0x22 => (600, 50)
  | 0x23 => (800, 100)
  | 0x24 => (400, 20)
  | 0x30 | 0x31 | 0x66 | 0x68 | 0x6B => (500, 0)
  | 0x32 => (1500, 0)
  | 0x33 | 0x42 | 0x60 | 0x61 | 0x62 | 0x63 | 0x64 | 0x6A => (1000, 0)
  | 0x34 | 0x65 => (2000, 0)
  | 0x40 => (1200, 0)
  | 0x48 => (800, 0)
  | 0x67 => (500, 0)
  | _ => (100, 0)

/-- Bytes of data that an instruction of the data family names, in the form of R190. -/
def State.dataBytes (s : State) (b : BerthId) (q : QInstr) : Nat :=
  if isDataOp q.op then
    (if q.modeBit 1 then bits ((s.berth b).reg q.dst) 0 32 else q.imm 0 32) * s.blockSize (bits (q.extWord 0) 0 6)
  else 0

/-- Engine time of an instruction's next micro-routine, in ns: four times as much on the RC oscillator, 40 us at most (R47, R393). -/
def State.engineNs (s : State) (b : BerthId) (q : QInstr) : Nat :=
  let c := engineCost q.op.toNat
  let n := if q.op = 0x67 then 200 * q.imm 0 9 else c.2 * ((s.dataBytes b q - 1) / 65536)
  min 40000 ((c.1 + n) * (if s.pmu.pll then 1 else 4))

/-- Bytes that a reservation gives its berth in a tide (R51). -/
def State.resvBytes (s : State) (b : BerthId) : Nat := match (s.berth b).resv with
  | some r => r.rate.toNat * periodNs s.tim.period / 1000
  | none => 0

/-- Bytes that a berth has moved in this tide. -/
def State.movedBytes (s : State) (b : BerthId) : Nat :=
  ((s.sched.moved.filter fun p => p.1 == b).map (·.2)).sum

/-- The rung of a berth's work other than records and counters: rung 3 up to its reservation, rung 7 beyond it (R158). -/
def State.workRung (s : State) (b : BerthId) : Nat :=
  if (s.berth b).resv.isSome ∧ s.movedBytes b < s.resvBytes b then 3 else 7

/-- The rung of a berth's next micro-routine, for a berth that takes turns (R158, R383). -/
def State.turnRung (s : State) (b : BerthId) : Option Nat :=
  match s.nextInstr b with
  | none => none
  | some q =>
    let op := q.op.toNat
    if (isDataOp q.op || op == 0x40) && s.delayed 9 then none
    else if op = 0x40 ∨ op = 0x42 ∨ op = 0x48 then some 2
    else some (s.workRung b)

/-- Berths in rotation, starting after the one served last (R43). -/
def rotation (last : Nat) : List BerthId := (List.range 512).map fun i => berthOf ((last + 1 + i) % 512)

/-- The berth served last at a rung. -/
def Sched.lastAt (x : Sched) (rung : Nat) : Nat := if rung = 2 then x.served2 else if rung = 3 then x.served3 else x.served7

def Sched.setLast (x : Sched) (rung : Nat) (b : BerthId) : Sched :=
  if rung = 2 then { x with served2 := b.val }
  else if rung = 3 then { x with served3 := b.val }
  else { x with served7 := b.val }

/-- Berths whose next micro-routine is at a rung, round robin. -/
def State.berthsAt (s : State) (rung : Nat) : List BerthId :=
  (rotation (s.sched.lastAt rung)).filter fun b => s.turnRung b == some rung

/-- A booking stands for a berth that has not had its turn. -/
def Sched.owes (x : Sched) (b : BerthId) : Bool :=
  (x.booked.any fun k => k.work == .berth b) && !x.served.contains b

/-- The berth that the engine starts next once it has finished what it had booked (R44); none while a booked berth can still
have its turn, so that booked work is not delayed, or while the tide has no engine time left. -/
def State.nextEarly (s : State) : Option BerthId :=
  if s.sched.spare = 0 ∨ (allBerths.any fun b => s.sched.owes b && (s.turnRung b).isSome) then none
  else [2, 3, 7].findSome? fun n => (s.berthsAt n).head?

/-- A berth may have a turn: the tide has it booked, or it is the engine's next early work (R44, R47). -/
def State.mayTurn (s : State) (b : BerthId) : Bool := s.sched.owes b || s.nextEarly == some b

/-- The instruction that a turn of a berth runs. -/
def State.turnOf (s : State) (b : BerthId) : Option QInstr := if s.mayTurn b then s.nextInstr b else none

/-- A berth has its turn: its booking is used, or the engine's free time. -/
def State.takeTurn (s : State) (b : BerthId) (q : QInstr) : State :=
  let x := s.sched
  let n := s.dataBytes b q
  let x := if x.owes b then { x with served := b :: x.served }
    else ({ x with spare := x.spare - s.engineNs b q }.setLast ((s.turnRung b).getD 7) b)
  { s with sched := if n = 0 then x else { x with moved := (b, min n 1048576) :: x.moved } }

/-! ### A turn -/

/-- A skipped instruction (R173): OK, DONE = 0, E cleared, nothing else; a resident berth sends no completion. -/
def State.skip (s : State) (b : BerthId) (q : QInstr) : State :=
  let pc := (s.berth b).pc.toNat + q.words
  let s := s.modBerth b fun x => { x with
    e := false
    lastStat := if setsLastStat q.op then .ok else x.lastStat
    queue := if x.kind then x.queue else x.queue.drop 1
    pc := x.pcPast q.words }
  if (s.berth b).kind then
    if (s.berth b).poolWords ≤ pc then
      let s := s.modBerth b fun x => { x with e := true }
      (s.sendCompletion b (BitVec.ofNat 16 pc) 0x00 .badTarget 0 none 0).stopBerth b .badTarget
    else s.rest b
  else
    let s := (s.leaveData b q false).sendCompletion b q.tag q.op .ok 0 none 0
    s.rest b

/-- What comes before an instruction's own rules: the fetch, HALTED, BUSY, the condition, NOT_SERVICE (R142, R167,
R172, R173, R343, Table COMB-2). -/
def State.begin (s : State) (b : BerthId) (q : QInstr) (body : QInstr → State → State) : State :=
  let x := s.berth b
  let (lost, s) := if x.kind then s.memRead 1 (x.poolStart + x.pc.toNat) q.words else (false, s)
  if lost then s.finish b q .memUncorrectable
  else if s.flt.halted then s.finish b q .halted
  else if s.refusesBusy b then s.finish b q .busy
  else if !knownOp q.op then s.finish b q .unknownOp
  else if 10 < q.cc then s.finish b q .badField
  else if !x.cond q.cc then s.skip b q
  else if x.kind && q.xc < extCount q.word then s.finish b q .badTarget
  else if serviceOp q.op && 8 ≤ b.val then s.finish b q .notService
  else body q s

/-- One turn of a berth whose next instruction has this opcode; any other turn is another row's (log 2). -/
def runTurn (b : BerthId) (op : Byte) (s : State) (body : QInstr → State → State) : Out :=
  match s.turnOf b with
  | some q => if q.op = op then answer ((s.takeTurn b q).begin b q body) else .next s
  | none => .next s

/-- An instruction whose fields are wrong (R171) completes with BAD_FIELD; otherwise its body runs. -/
def State.checked (s : State) (b : BerthId) (q : QInstr) (ok : Bool) (body : State → State) : State :=
  if ok then body s else s.finish b q .badField

/-! ### Scratch (R175, R232 to R234) -/

/-- The pages of `n` bytes at a scratch address carry the berth's colour (Table REGION-5). -/
def State.tagsMatch (s : State) (b : BerthId) (a n : Nat) : Bool :=
  (List.range ((a + n + 4095) / 4096 - a / 4096)).all fun i => s.scrTags.getD (i + a / 4096) 0 == (s.berth b).scolour

/-- Where a transfer of `n` bytes at an offset lies in scratch: BAD_FIELD outside the allocation, COLOUR_FAULT against
a page's tag or without the colour in the session, else the byte address. -/
def State.scratchPlace (s : State) (b : BerthId) (off n : Nat) : Status × Nat :=
  let x := s.berth b
  if 4096 * x.scrPages < off + n then (.badField, 0)
  else
    let a := 4096 * x.scrBase + off
    if n = 0 then (.ok, a)
    else if (bit x.session.set x.scolour.toNat) ∧ s.tagsMatch b a n then (.ok, a)
    else (.colourFault, a)

/-- A refused scratch access: a tag mismatch is counted (R233); the source is raised with every COLOUR_FAULT (R167, log
119). -/
def State.colourFault (s : State) (b : BerthId) (off n : Nat) : State :=
  (if s.tagsMatch b (4096 * (s.berth b).scrBase + off) n then s
   else { s with grd := { s.grd with tagFlt := satInc s.grd.tagFlt } }).raise 25 .degrade

/-- Bytes read from scratch, each word through its check (R342, R343): none when one is uncorrectable. -/
def State.scratchRead (s : State) (a n : Nat) : Option (List Byte) × State :=
  let (lost, s) := s.memRead 2 (a / 8) ((a + n + 7) / 8 - a / 8)
  if lost then (none, s) else (some (Memory.readN s.scratch a n), s)

/-- The scratch word of an instruction: its offset, with [63:18] reserved. -/
def scratchWordOk (w : W64) : Bool := bits w 18 46 == 0

end Sys2Proof.Machine
end

