-- ==== Sys2Proof/Machine/Guard.lean ====
section
/-! DEFINITION. The checks of every access in the order of R226 and Table COMB-2. -/

namespace Sys2Proof.Machine

/-! ### Regions -/

/-- A region's stored entry holds as pairs (R28). -/
def Region.ok (x : Region) : Bool := x.cfg.ok && x.siz.ok && x.ringCfg.ok

/-- A ring homed on a lost member (Table CASC-5). -/
def State.homeLost (s : State) (r : Nat) : Bool :=
  s.rtype r == .ring && bits (s.region r).cfg.val 16 1 == 0 && bit s.quy.lost (bits (s.region r).cfg.val 17 2)

/-- Fenced: for a mismatch (R28, R420), or its home lost. -/
def State.regionFenced (s : State) (r : Nat) : Bool :=
  (s.region r).fenced || (s.ring r).mismatch || s.homeLost r

/-- A consumer reads the region's entry and, for a ring, its head and tail: a broken pair fences it and raises F12 or F13
(R28). -/
def State.checkEntry (s : State) (r : Nat) : State :=
  let s := if (s.region r).ok || (s.region r).fenced then s else s.raise 12 .fence (.region (Fin.ofNat 64 r))
  if s.rtype r = .ring ∧ ¬(s.ring r).ok ∧ ¬(s.ring r).mismatch then
    (s.setRing r { s.ring r with mismatch := true }).raise 13 .fence
  else s

/-- The lock closes regions 1-63 (R180). -/
def State.lockedOut (s : State) (r : Nat) : Bool := r != 0 && bits s.grd.lock.val 0 2 != 0

/-- A session's colour. -/
def Berth.has (x : Berth) (c : Nat) : Bool := c == 0 || bit x.session.set c

/-- What V[DST] takes when an instruction is refused (R176): one whose table gives a count there writes 0 for the statuses
that the table adds (log 129). -/
def QInstr.refusedRes (q : QInstr) (st : Status) : Option W64 :=
  let op := q.op.toNat
  let writes := op == 0x20 || op == 0x21 || op == 0x23
  let counted := match st with
    | .denied | .range => writes || op == 0x24 || op == 0x30 || op == 0x31 || op == 0x41
    | .locked | .fenced | .readOnly => writes || op == 0x24 || op == 0x30 || op == 0x31
    | .mediaExhausted | .memberLost => writes
    | _ => false
  if counted then some 0 else none

/-- An instruction is refused before any transfer. -/
def State.refuse (s : State) (b : BerthId) (q : QInstr) (st : Status) (first : Option Nat := none) : State :=
  s.finish b q st 0 first (q.refusedRes st)

/-- A denied part is counted (R227). -/
def State.denyParts (s : State) (n : Nat) : State :=
  { s with grd := { s.grd with deny := satNat 32 (s.grd.deny.toNat + n) } }

/-- The closed gate covers a region (R229). -/
def State.gated (s : State) (r : Nat) : Bool := match s.grd.gate with
  | some g => bit g.regions r
  | none => false

/-- An access that finds the gate closed waits, neither allowed nor denied (R229). -/
def State.gateWait (s : State) (b : BerthId) (q : QInstr) : State := s.waitFor b .gate (Cur.init q .gate)

/-! ### Parts (R179, Table REGION-4) -/

/-- Neighbouring parts of one colour are one part. -/
def joinParts (ps : List Part) : List Part :=
  ps.foldr (fun p acc => match acc with
    | q :: r => if p.colour = q.colour then { p with len := p.len + q.len } :: r else p :: acc
    | [] => [p]) []

/-- The parts of a run of blocks for a read: by tag. -/
def State.partsOf (s : State) (x : Berth) (r start len : Nat) : List Part :=
  if s.rtype r = .ring then
    let g0 := start / segSize
    let g1 := (start + len - 1) / segSize
    joinParts ((List.range (g1 + 1 - g0)).map fun i =>
      let lo := max start ((g0 + i) * segSize)
      let hi := min (start + len) ((g0 + i + 1) * segSize)
      let c := s.segColour r (g0 + i)
      { off := lo - start, len := hi - lo, colour := c, ok := x.has c })
  else
    let c := (s.region r).colour
    [{ off := 0, len := len, colour := c, ok := x.has c }]

/-- Whether the block at an offset is allowed. -/
def allowedAt (ps : List Part) (i : Nat) : Bool := ps.any fun p => p.ok && p.off ≤ i && i < p.off + p.len

def firstDenied (ps : List Part) : Option Nat := (ps.find? fun p => !p.ok).map (·.off)

def deniedCount (ps : List Part) : Nat := (ps.filter fun p => !p.ok).length

/-! ### Units and domains on the path (Table COMB-2 rows 9 to 12) -/

/-- A fenced unit with no way around it: flash off by thermal shutdown (R421), no encoder or decoder of the kind, the
page-BCH unit for COMPAT writes (Table MEM-4), no set that opens rows. -/
def State.pathFenced (s : State) (r : Nat) (write : Bool) : Bool :=
  let f := s.cod.fenceWord ||| s.flt.fences.forcedCodec
  let compat := s.rtype r == .compat
  s.mon.shut ||
  (if write then
    ((List.range 4).all fun i => !s.setOpens i) ||
    (if compat then bit f 26 else f.extractLsb' 0 16 == BitVec.allOnes 16)
  else !compat && f.extractLsb' 16 8 == BitVec.allOnes 8 && f.extractLsb' 24 2 == 3 && f.extractLsb' 27 2 == 3)

/-- The domains a data instruction needs: CPU0, BUF, CODEC, SEAL, FLA and FLB, and for the map lookup of a GENERAL or COMPAT
region DRAMC, unless the DRAM controller is lost (Tables ARCH-1 to ARCH-3, ARCH-5, R305, R306). -/
def State.dataDoms (s : State) (r : Nat) : List (Fin 16) :=
  [2, 9, 10, 11, 13, 14] ++
    (if (s.rtype r == .general || s.rtype r == .compat) && !s.dramLost then [12] else [])

/-- The controller's media are exhausted for this region (Table MEDIA-5). -/
def State.exhaustedFor (s : State) (r : Nat) : Bool :=
  (s.region r).mro || (s.ftl.exhausted && (s.rtype r == .general || s.rtype r == .compat))

/-! ### The order of refusal -/

/-- What an access asks. -/
structure Ask where
  region : Nat
  /-- The types that Tables TZ-8 and TZ-9 accept. -/
  types : List RType
  write : Bool
  start : Nat
  len : Nat
  /-- The range check of R178 or R192 is made. -/
  ranged : Bool
  /-- Its scratch transfer lies outside the allocation (R175). -/
  misfit : Bool := false
  /-- It is an APPEND (R252, R263). -/
  append : Bool := false

/-- Appends to a ring with at most one unheld slot are refused (R263). -/
def State.appendsShut (s : State) (r : Nat) : Bool := s.unheld r ≤ 1

/-- The range (R178, R192, R252): GENERAL and COMPAT by their size, a RING by its readable positions, an APPEND by its
bound. -/
def State.inRange (s : State) (a : Ask) : Bool :=
  if s.rtype a.region = .ring then
    if a.append then a.len ≤ max (s.unheld a.region - s.minSeg a.region) 1 * segSize
    else if a.write then true
    else
      let g0 := a.start / segSize
      let g1 := (a.start + a.len - 1) / segSize
      a.start + a.len ≤ (s.ring a.region).tailPos &&
        (List.range (g1 + 1 - g0)).all fun i => (s.ring a.region).segs.contains (g0 + i)
  else a.start + a.len ≤ s.regionBlocks a.region

/-- Rows 3 to 7 of Table COMB-2 after the fields, in order: whether each refuses the access, and its status. -/
def State.refusalRows (s : State) (a : Ask) : List (Bool × Status) :=
  [(!a.types.contains (s.rtype a.region), .badRegion),
   (a.misfit, .badField),
   (s.regionFenced a.region || (a.append && s.appendsShut a.region), .fenced),
   (s.lockedOut a.region, .locked),
   (a.write && (s.region a.region).ro, .readOnly),
   (a.ranged && a.len != 0 && !s.inRange a, .range)]

/-- The first row that refuses an access. -/
def State.refusal (s : State) (a : Ask) : Option Status :=
  ((s.refusalRows a).find? fun p => p.1).map (·.2)

/-- The first row that refuses either of two accesses: each row covers both ends before the next is checked (R463). -/
def State.refusal2 (s : State) (a b : Ask) : Option Status :=
  (((s.refusalRows a).zip (s.refusalRows b)).find? fun p => p.1.1 || p.2.1).map (·.1.2)

/-- Rows 9 to 12: unit fenced, member lost, media exhausted, domain off. A domain to be woken leaves the berth READY
(R389). -/
inductive Later where
  | go
  | stop (st : Status)
  | hold (ds : List (Fin 16))

/-- What rows 9 to 12 need to know of an access. -/
structure Path where
  region : Nat
  write : Bool
  /-- It writes to a lost member (row 10). -/
  lost : Bool
  /-- Exhausted media refuse it (row 11). -/
  media : Bool
  doms : List (Fin 16)
  /-- Parts that the guard denies, counted once the access is not put off (R227). -/
  denied : Nat := 0

def State.later (s : State) (p : Path) : Later :=
  if s.pathFenced p.region p.write then .stop .fenced
  else if p.lost then .stop .memberLost
  else if p.media && s.exhaustedFor p.region then .stop .mediaExhausted
  else match s.need p.doms false with
    | .ready => .go
    | .off => .stop .domainOff
    | .wait ds => .hold ds

/-- Rows 9 to 12 around the rest of an instruction. -/
def State.onPath (s : State) (b : BerthId) (q : QInstr) (p : Path) (body : State → State) : State :=
  match s.later p with
  | .go => body (s.denyParts p.denied)
  | .stop st => (s.denyParts p.denied).refuse b q st
  | .hold ds => s.demand ds

/-- The gate and rows 3 to 7 around an access (R226, R229); an access of no blocks takes no guard check (R178). -/
def State.opened (s : State) (b : BerthId) (q : QInstr) (a : Ask) (body : State → State) : State :=
  if s.gated a.region && !(a.ranged && a.len == 0) then s.gateWait b q
  else
    let s := s.checkEntry a.region
    match s.refusal a with
    | some st => s.refuse b q st
    | none => body s

/-- The colours of an access that the guard allows whole or denies (Table REGION-4); each colour that the session lacks is a
denied part (R227). A LOGREAD that is denied is denied from its first record (Table BERTH-6, log 84). -/
def State.coloured (s : State) (b : BerthId) (q : QInstr) (colours : List Nat) (body : State → State) : State :=
  let missing := (colours.dedup.filter fun c => !(s.berth b).has c).length
  if missing = 0 then body s else (s.denyParts missing).refuse b q .denied (if q.op = 0x41 then some 0 else none)

end Sys2Proof.Machine
end

