-- ==== Sys2Proof/Machine/Data.lean ====
section
/-! DEFINITION. The data instructions (R190 to R195): their form, placement over the cascade (R451), reading, delivery,
and the atomic pieces of a write (Tables ARCH-2 and ARCH-3). -/

namespace Sys2Proof.Machine

/-! ### The form (R190, R174) -/

/-- The operands of a data instruction. -/
structure Form where
  region : Nat
  start : Nat
  len : Nat
  region2 : Nat
  start2 : Nat
  scratch : Option Nat

/-- Fields that every instruction of the form of R190 defines. -/
def formFields : List (Nat × Nat) := [fDst, fSrcA, (40, 2), fXc, (0, 32)]

/-- An address word: bits [7:6] are 0, and START is 0 when AREG gives it. -/
def addrOk (w : W64) (areg : Bool) : Bool := bits w 6 2 == 0 && (!areg || bits w 8 56 == 0)

/-- The form of an instruction with `n` address words; none is BAD_FIELD. -/
def QInstr.form (q : QInstr) (x : Berth) (n : Nat) (scr : Bool) : Option Form :=
  let areg := q.modeBit 0
  let lreg := q.modeBit 1
  let named := scr && q.xc == n + 1
  let w := q.extWord 0
  let w2 := q.extWord 1
  if q.only formFields && (q.xc == n || named) && addrOk w areg && (n == 1 || addrOk w2 areg) &&
      (!lreg || q.imm 0 32 == 0) && (!named || scratchWordOk (q.extWord n)) then
    some {
      region := bits w 0 6
      start := if areg then (x.reg q.srcA).toNat else bits w 8 56
      len := if lreg then bits (x.reg q.dst) 0 32 else q.imm 0 32
      region2 := bits w2 0 6
      start2 := if areg then (x.reg (q.srcA + 1)).toNat else bits w2 8 56
      scratch := if named then some (bits (q.extWord n) 0 18) else none }
  else none

/-- A scratch transfer of `n` bytes lies outside the allocation (R175). -/
def Berth.misfit (x : Berth) (scratch : Option Nat) (n : Nat) : Bool := match scratch with
  | some off => 4096 * x.scrPages < off + n
  | none => false

/-- The page tags of a scratch transfer (R175, R232): COLOUR_FAULT stops the berth. `denied` parts of the access are counted
then too (R227). -/
def State.spanned (s : State) (b : BerthId) (q : QInstr) (scratch : Option Nat) (n : Nat) (body : State → State)
    (denied : Nat := 0) : State :=
  match scratch with
  | none => body s
  | some off => if (s.scratchPlace b off n).1 = .ok then body s
    else ((s.denyParts denied).colourFault b off n).finish b q .colourFault

/-! ### Placement over the cascade (Table CASC-3) -/

/-- The position that holds a block of a region. -/
def State.placeOf (s : State) (r blk : Nat) : Nat :=
  let cfg := (s.region r).cfg.val
  let q := s.positions
  let spread := bit cfg 16
  let unit64 := blk / 64 % 1024
  if !spread then bits cfg 17 2
  else if s.rtype r = .ring ∨ bit cfg 19 then q.getD (unit64 % q.length) 0
  else q.getD ((blk / (if s.rtype r = .compat then 2048 else 256)) % q.length) 0

/-- Whether a run of blocks touches a lost member. -/
def State.touchesLost (s : State) (r start len : Nat) : Bool :=
  s.quy.lost != 0 && (List.range len).any fun i => bit s.quy.lost (s.placeOf r (start + i))

/-- Positions other than this controller's own that hold some of the offsets given, and are not lost. -/
def State.remotes (s : State) (r start : Nat) (offs : List Nat) : List (Fin 4) :=
  if s.quy.map.val = 0 then []
  else [1, 2, 3].filter fun p => !bit s.quy.lost p.val && offs.any fun i => s.placeOf r (start + i) == p.val

/-! ### Blocks -/

/-- The map unit of a block. -/
def State.blockKey (s : State) (r blk : Nat) : Nat := unitKey r (blk / s.unitBlocks r)

/-- The content of a block. -/
def State.blockData (s : State) (r blk : Nat) : List Byte :=
  let d := s.unitData (s.blockKey r blk)
  if s.rtype r = .compat then slice d (blk % 8 * 512) 512 else d

/-- The block's unit is lost (R343). -/
def State.blockLost (s : State) (r blk : Nat) : Bool := (s.unitOf (s.blockKey r blk)).lost

/-- The block must be read from a die: its unit is in flash. -/
def State.blockOnDie (s : State) (r blk : Nat) : Bool := match s.copyOf (s.blockKey r blk) with
  | some c => !c.lost
  | none => false

/-! ### Decode outcomes (R27, R319, R338) -/

/-- The correction limit of a code (Table CODE-1). -/
def Code.limit : Code → Nat
  | .strong => 160
  | .light => 72
  | .bch t => t

/-- COD_PEAK.CODE of a code, and the map units that share a codeword's outcome (R336). -/
def Code.number : Code → BitVec 2
  | .strong => 0
  | .light => 1
  | .bch _ => 2

def Code.units : Code → Nat
  | .bch _ => 4
  | _ => 1

/-- FTL_REFRESH.PCT as it acts. -/
def refreshPct (v : W32) : Nat := clampNat 30 90 (bits v 0 7)

/-- The decode was above the refresh threshold (R319). -/
def State.refreshes (s : State) (code : Code) : Decode → Bool
  | .hard n => refreshPct s.ftl.refreshNow * code.limit < 100 * n
  | .soft | .rebuilt => true
  | .lost => false

/-- The page that a copy stands in. -/
def Copy.page (c : Copy) : Nat := c.place.entry.toNat / 4

/-- The valid units that share the codeword of a copy of unit `k`: in a compat page, all of its units (R336). -/
def State.codewordUnits (s : State) (k : Nat) (c : Copy) : List Nat :=
  match c.code with
  | .bch _ => (s.store.filter fun p => match p.2.base with
      | some x => x.page == c.page
      | none => false).map (·.1)
  | _ => [k]

/-- With the page-BCH unit fenced, COMPAT pages are read by rebuild only (Table MEM-4). -/
def State.decodedAs (s : State) (code : Code) (d : Decode) : Decode :=
  match code with
  | .bch _ => if d ≠ .lost ∧ bit (s.cod.fenceWord ||| s.flt.fences.forcedCodec) 26 then .rebuilt else d
  | _ => d

/-- The names in a unit's metadata are checked on every flash read; others than were looked up act as an error of the DRAM
(R345). -/
def State.checkNames (s : State) (k : Nat) (c : Copy) : State :=
  if c.region = keyRegion k % 64 ∧ c.block = k % 2 ^ 60 * s.unitBlocks (keyRegion k) then s
  else { s with mem := { s.mem with crcFail := satInc s.mem.crcFail } }.raise 49 .degrade

/-- One codeword's outcome is counted (Tables MEM-4 and MEDIA-6). -/
def State.countDecode (s : State) (code : Code) (d : Decode) : State :=
  let per := code.units
  match d with
  | .hard n =>
    let s := { s with
      cod := { s.cod with hardCount := satInc s.cod.hardCount }
      ftl := { s.ftl with health := { s.ftl.health with hard := s.ftl.health.hard + 1 } } }
    if s.cod.peakBits.toNat < n then
      { s with cod := { s.cod with
        peakBits := satNat 16 n
        peakCode := code.number } }
    else s
  | .soft => { s with
      cod := { s.cod with softCount := satInc s.cod.softCount }
      ftl := { s.ftl with health := { s.ftl.health with soft := s.ftl.health.soft + 1 } } }
  | .rebuilt => { s with
      cod := { s.cod with rebuild := satInc s.cod.rebuild }
      ftl := { s.ftl with health := { s.ftl.health with rebuilt := s.ftl.health.rebuilt + 1 } } }
  | .lost =>
    { s with
      cod := { s.cod with lost := satNat 32 (s.cod.lost.toNat + per) }
      ftl := { s.ftl with health := { s.ftl.health with lost := s.ftl.health.lost + per } } }.raise 42 .note

/-- A codeword above the threshold is relocated (R319): every unit of it. -/
def State.refreshUnits (s : State) (ks : List Nat) : State :=
  let (ms, s) := s.planMoves ks false
  ms.foldl (fun s m => { (s.addDie (.relocate m)) with ftl := { s.ftl with
    health := { s.ftl.health with refreshed := s.ftl.health.refreshed + 1 } } }) s

/-- The outcomes of a read of region `r` from `start`: one for each codeword. -/
def State.decodeRead (s : State) (r start : Nat) (bs : List (Nat × Decode)) (miscor : Nat) : State :=
  let s := { s with cod := { s.cod with miscor := satNat 16 (s.cod.miscor.toNat + miscor) } }
  let s := (List.range miscor).foldl (fun s _ => s.raise 41 .note) s
  let step := fun (acc : List Nat × State) (p : Nat × Decode) =>
    let k := acc.2.blockKey r (start + p.1)
    match (acc.2.unitOf k).base with
    | none => acc
    | some c =>
      let word := if c.code.units = 1 then c.place.entry.toNat else 4 * c.page
      if acc.1.contains word then acc
      else
        let d := acc.2.decodedAs c.code p.2
        let t := (acc.2.checkNames k c).countDecode c.code d
        (word :: acc.1, if t.refreshes c.code d then t.refreshUnits (t.codewordUnits k c) else t)
  (bs.foldl step ([], s)).2

/-! ### Delivery (R26, R162) -/

/-- Bytes of read data that have not left the card. -/
def upBytes (ps : List UpParcel) : Nat := (ps.map fun p => match p.body with
  | .data d _ => d.length
  | _ => 0).sum

/-- Bytes of read data that have been formed into parcels and have not left the card. -/
def State.stagedBytes (s : State) : Nat := upBytes s.nar.up + upBytes (s.lnk.replayBuf.map (·.2))

/-- Read staging has room for a parcel more in the work share, the kept segment maps taken off (R19, R306). DESIGN
CHOICE (log 157): of a read's data, what is formed into parcels stands there; the rest is taken as room comes. With nothing
staged one parcel goes, however many maps are kept. -/
def State.stagingRoom (s : State) : Bool :=
  s.stagedBytes == 0 || s.stagedBytes + s.lnk.pay + s.mapShare ≤ s.workShare

/-- Data parcels of berth `b` leave while staging has room (R156, R162); when all have left, the instruction completes. -/
def State.pushData : Nat → BerthId → State → State
  | 0, _, s => s
  | n + 1, b, s => match (s.berth b).cur with
    | none => s
    | some c =>
      if c.acc.isEmpty then s.finish b c.ins c.status c.done c.first c.result
      else if s.stagingRoom then
        let d := c.acc.take s.lnk.pay
        let rest := c.acc.drop s.lnk.pay
        let s := s.sendUp { berth := BitVec.ofNat 16 b.val, tag := c.ins.tag, body := .data d rest.isEmpty }
        State.pushData n b (s.modCur b fun c => { c with acc := rest })
      else s.waitFor b .upPath { c with phase := .upPath }

/-- Data of an instruction go to scratch when it names it, else up in parcels; then it completes with what `c` holds. -/
def State.deliver (s : State) (b : BerthId) (c : Cur) : State :=
  match c.scratch with
  | some off =>
    (s.scratchWrite (s.scratchPlace b off c.acc.length).2 c.acc).finish b c.ins c.status c.done c.first c.result
  | none => State.pushData (c.acc.length + 1) b (s.modBerth b fun x => { x with cur := some c })

/-- How a read ended: blocks done, status, FIRST. -/
structure ReadEnd where
  upTo : Nat
  done : Nat
  status : Status
  first : Option Nat

/-- The first lost block, if any. -/
def Cur.firstLost (c : Cur) : Option Nat := ((c.blocks.filter fun p => p.2 == .lost).map (·.1)).min?

/-- R27, R179, R195: a lost block ends READ and COPY before it, where FIRST is the first block denied or lost (Table
BERTH-6); VERIFY goes on past it, completes with MEDIA_LOST, and FIRST is the first lost block. -/
def State.readEnd (s : State) (c : Cur) : ReadEnd :=
  let verify := c.ins.op == 0x24
  let lost := c.firstLost
  let n := if verify then c.len else lost.getD c.len
  let gone := fun i => c.blocks.any fun p => p.1 == i && p.2 == .lost
  let done := ((List.range n).filter fun i => allowedAt c.parts i && !gone i).length
  match lost with
  | some i => { upTo := n, done := done
                first := some (if verify then i else min i ((firstDenied c.parts).getD i))
                status := if !verify && bit s.quy.lost (s.placeOf c.region (c.start + i)) then .memberLost else .mediaLost }
  | none => match firstDenied c.parts with
    | some f => { upTo := n, done := done, status := .part, first := some f }
    | none => { upTo := n, done := done, status := .ok, first := none }

/-! ### Pieces of a write (Tables TZ-8 and HUP-4) -/

/-- The region that a write writes, and where. -/
def Cur.dest (c : Cur) : Nat := if c.ins.op = 0x23 then c.region2 else c.region
def Cur.destStart (c : Cur) : Nat := if c.ins.op = 0x23 then c.start2 else c.start

/-- Blocks of the piece that begins at offset `pos`: an append unit; the whole of an instruction up to 1 MiB, or the part
of it in one aligned MiB; never past the end of an allowed part (R227). -/
def State.pieceLen (s : State) (c : Cur) : Nat :=
  let bs := s.blockSize c.dest
  let mib := 1048576 / bs
  let blk := c.destStart + c.pos
  let stop := match c.parts.find? fun p => p.off ≤ c.pos && c.pos < p.off + p.len with
    | some p => p.off + p.len
    | none => c.len
  let stop := min stop c.len
  if c.ins.op = 0x22 then 64
  else if c.len ≤ mib then stop - c.pos
  else min (mib - blk % mib) (stop - c.pos)

/-- The colour of the part that the piece in progress lies in (R225, Table REGION-5). -/
def State.partColour (s : State) (c : Cur) : Nat := (s.region c.dest).colour

/-- Bytes of the piece in progress. -/
def State.pieceBytes (s : State) (c : Cur) : Nat := s.pieceLen c * s.blockSize c.dest

/-- A write's data come from scratch or from the source of a COPY; else from parcels. -/
def Cur.ownData (c : Cur) : Bool := c.scratch.isSome || c.ins.op == 0x23

/-- How the data of the piece in progress stand. -/
inductive Gather where
  | more
  | bad
  | got (d : List Byte)

/-- The chunks that a berth's instruction takes: those with its tag, in a resident berth all (R155). -/
def Berth.myChunks (x : Berth) (q : QInstr) : List Chunk :=
  if x.kind then x.chunks else x.chunks.filter fun c => c.tag == q.tag

/-- One chunk less. -/
def Berth.dropChunk (x : Berth) (q : QInstr) (rest : Option Chunk) : Berth :=
  let mine := fun (c : Chunk) => x.kind || c.tag == q.tag
  let before := x.chunks.takeWhile fun c => !mine c
  let after := x.chunks.dropWhile fun c => !mine c
  { x with chunks := before ++ (match rest with
      | some r => [r]
      | none => []) ++ after.drop 1 }

/-- Data parcels are taken in arrival order until the piece has its bytes (R155, R156). `total` bytes of the instruction
are still to come with this piece; END before its end, or bytes past it, are wrong. -/
def State.gather : Nat → BerthId → Nat → Nat → State → Gather × State
  | 0, _, _, _, s => (.more, s)
  | n + 1, b, need, total, s => match (s.berth b).cur with
    | none => (.more, s)
    | some c =>
      if need ≤ c.acc.length then (.got (c.acc.take need), s)
      else match (s.berth b).myChunks c.ins with
        | [] => (.more, s)
        | k :: _ =>
          let left := total - c.acc.length
          if (k.last && k.bytes.length < left) || left < k.bytes.length then
            (.bad, (s.modBerth b fun x => x.dropChunk c.ins none).modCur b fun c => { c with tookLast := k.last })
          else
            let t := need - c.acc.length
            let rest := if t < k.bytes.length then some { k with bytes := k.bytes.drop t } else none
            let s := s.modBerth b fun x => x.dropChunk c.ins rest
            State.gather n b need total (s.modCur b fun c => { c with
              acc := c.acc ++ k.bytes.take t, tookLast := rest.isNone && k.last })

/-- The offsets of the piece in progress that lie on this controller, and their map units. -/
def State.pieceOffs (s : State) (c : Cur) : List Nat :=
  (List.range (s.pieceLen c)).filter fun i => s.placeOf c.dest (c.destStart + c.pos + i) == s.position

def State.pieceKeys (s : State) (c : Cur) : List Nat :=
  ((s.pieceOffs c).map fun i => s.blockKey c.dest (c.destStart + c.pos + i)).dedup

/-- What a piece writes of one unit: the sectors it covers and their data. -/
def State.unitPart (s : State) (c : Cur) (d : List Byte) (k : Nat) : Byte × List Byte :=
  let r := c.dest
  let blk := c.destStart + c.pos
  let mine := (s.pieceOffs c).filter fun i => s.blockKey r (blk + i) == k
  let bs := s.blockSize r
  if bs = 512 then
    (BitVec.ofNat 8 (mine.map fun i => 2 ^ ((blk + i) % 8)).sum,
      mine.foldl (fun acc i => splice acc ((blk + i) % 8 * 512) (slice d (i * bs) bs)) (zeros 4096))
  else (wholeUnit, slice d (mine.headD 0 * bs) bs)

/-- A piece's bytes enter the write share as versions of map units (R23, R303), in the order of its admission (R24); their
pages carry the colour of the part (Table REGION-5). The answer is the units. -/
def State.storePiece (s : State) (c : Cur) (d : List Byte) : List Nat × State :=
  let ks := s.pieceKeys c
  let colour := BitVec.ofNat 4 (s.partColour c)
  let step := fun (t : State) (p : Nat × Nat) =>
    let w := s.unitPart c d p.1
    t.newVersion p.1 { stamp := c.stamp, cover := w.1, data := some w.2, place := c.places[p.2]?, seq := c.aseq,
                       thru := c.writeThrough, lost := false, tag := colour }
  (ks, ks.zipIdx.foldl step s)

/-- The piece is whole in the write share (steps 5 to 7 of Table ARCH-2): its program is booked, a covered append unit
completes, and the instruction goes on to its next piece. -/
def State.landPiece (s : State) (b : BerthId) (c : Cur) (d : List Byte) : State :=
  let n := s.pieceLen c
  let r := c.dest
  let blk := c.destStart + c.pos
  let bytes := n * s.blockSize r
  let (ks, s) := s.storePiece c d
  let ch : Change := {
    units := ks
    stamp := c.stamp
    moves := []
    after := []
    owner := if c.writeThrough then some b else none
    cost := if c.writeThrough then 0 else dataCost bytes
    kib := if c.writeThrough then 0 else kibOf bytes
    blocks := n
    commit := false }
  let s := s.addDie (.program ch)
  let s := if c.ins.op = 0x22 ∧ ¬c.writeThrough then s.completeUnit r (blk / 64) else s
  s.modCur b fun c => { c with
    pos := c.pos + n
    done := c.done + n
    admitted := false
    acc := if c.ownData then c.acc else []
    open_ := if c.writeThrough then c.open_ + 1 else c.open_ }

/-- A write's last piece is in: it completes, or waits for its write-through pieces (R22). Its status was settled by the
source of a COPY, if that was not whole. -/
def State.writeEnd (s : State) (b : BerthId) (c : Cur) : State :=
  let st := if c.status = .ok then (if c.writeThrough then Status.writeThrough else .ok) else c.status
  let res := if c.denied then c.ins.refusedRes .denied else if c.ins.op = 0x22 then some (BitVec.ofNat 64 c.start)
    else some (BitVec.ofNat 64 c.done)
  if c.open_ = 0 then s.finish b c.ins st c.done c.first res
  else s.waitFor b .die { c with phase := .durable, status := st, result := res }

/-- An admitted piece is given back: its data phase ended badly or was stopped. -/
def State.releasePiece (s : State) (c : Cur) : State :=
  let s := if c.admitted ∧ ¬c.writeThrough then s.creditItem (.data (kibOf (s.pieceBytes c))) (dataCost (s.pieceBytes c)) else s
  if c.ins.op = 0x22 ∧ c.admitted then s.settleWrap c.region else s

/-- A write ends with an error: the piece in progress is discarded, DONE counts the pieces before it (R156). -/
def State.writeFail (s : State) (b : BerthId) (c : Cur) (st : Status) : State :=
  let res := if c.ins.op = 0x22 then BitVec.ofNat 64 c.start else BitVec.ofNat 64 c.done
  ((s.releasePiece c).finish b c.ins st c.done none (some res)).disown b

/-- The mode, and the code, in which the piece in progress is programmed. -/
def State.pieceLoc (s : State) (c : Cur) : Loc := s.target c.dest (s.pieceKeys c).length

/-- The pages that the piece in progress gets at its admission (R325). Best-effort writes leave pruning its last row (R311). -/
def State.piecePlaces (s : State) (b : BerthId) (c : Cur) : Option (List Place × State) :=
  let ks := s.pieceKeys c
  let l := s.pieceLoc c
  if ks.isEmpty then some ([], s)
  else s.givePlaces l.cls l (s.codeOf c.dest) ks.length (s.berth b).resv.isNone

/-- The piece in progress waits for room: an append unit in its ring's share (R266), any piece for a row (R311). -/
def State.needsRoom (s : State) (b : BerthId) (c : Cur) : Bool :=
  (c.ins.op == 0x22 && !s.shareRoom c.region) || (s.piecePlaces b c).isNone

/-- The piece in progress is admitted: it takes its place in the order (R24) and its pages (R325). -/
def State.takePiece (s : State) (b : BerthId) (c : Cur) (thru : Bool) : State :=
  let (n, s) := s.nextStamp
  let (ps, s) := (s.piecePlaces b c).getD ([], s)
  s.modCur b fun c => { c with admitted := true, writeThrough := thru, stamp := n, aseq := s.ftl.jSeq, places := ps }

/-- An append unit needs a slot: it is the first of a segment that has none (R250). -/
def State.needsSlot (s : State) (c : Cur) : Bool :=
  c.ins.op == 0x22 && !(s.ring c.region).segs.contains ((c.start + c.pos) / segSize)

/-- The piece in progress comes before the ledger (R357 to R359, R361). -/
def State.admitPiece (s : State) (b : BerthId) (c : Cur) : Bool × State :=
  let bytes := s.pieceBytes c
  let cost := dataCost bytes
  if c.writeThrough then (true, s.takePiece b c true)
  else match s.hup.answerItem cost with
    | .admitted => (true, (s.admitItem (.data (kibOf bytes)) cost).takePiece b c false)
    | .writeThrough => (true, s.takePiece b c true)
    | .wait => (false, s.ledgerWait b c cost)

/-- The data of the piece in progress. -/
def State.pieceData (s : State) (b : BerthId) (c : Cur) : Gather × State :=
  let need := s.pieceBytes c
  if c.ownData then (.got (slice c.acc (c.pos * s.blockSize c.dest) need), s)
  else State.gather ((s.berth b).chunks.length + need + 1) b need ((c.len - c.pos) * s.blockSize c.dest) s

/-- Positions of members that hold some of the piece in progress. -/
def State.pieceRemotes (s : State) (c : Cur) : List (Fin 4) :=
  s.remotes c.dest (c.destStart + c.pos) (List.range (s.pieceLen c))

/-- A write goes from piece to piece until it waits or completes: room and slot, ledger, data, members, write share. -/
def State.writeStep : Nat → BerthId → State → State
  | 0, _, s => s
  | n + 1, b, s => match (s.berth b).cur with
    | none => s
    | some c =>
      if c.len ≤ c.pos then s.writeEnd b c
      else if c.ins.op = 0x23 ∧ ¬allowedAt c.parts c.pos then
        -- Destination blocks of a denied source part are left as they are (R227).
        State.writeStep n b (s.modCur b fun c => { c with pos := c.pos + 1 })
      else if ¬c.admitted ∧ ¬c.denied then
        if s.needsRoom b c then s.waitFor b .die { c with phase := .room }
        else
          match s.admitPiece b c with
          | (true, s) => State.writeStep n b s
          | (false, s) => s
      else if s.needsSlot c ∧ ¬c.denied then
        match s.takeSlot c.region ((c.start + c.pos) / segSize) with
        | some s => State.writeStep n b (s.modCur b fun c => { c with phase := .data })
        | none =>
          -- Each wait for a slot is counted once (R250).
          let x := s.ring c.region
          let s := if c.phase = .slot then s else s.setRing c.region { x with pinWait := satInc x.pinWait }
          s.waitFor b .die { c with phase := .slot }
      else
        match s.pieceData b c with
        | (.more, s) => match (s.berth b).cur with
          | some c => s.waitFor b .data { c with phase := .data }
          | none => s
        | (.bad, s) => s.writeFail b c .badField
        | (.got d, s) =>
          -- Data of a denied write is consumed and discarded (R227).
          if c.denied then State.writeStep n b (s.modCur b fun c => { c with pos := c.pos + s.pieceLen c, acc := [] })
          else
          let ps := s.pieceRemotes c
          if ps.isEmpty then State.writeStep n b (s.landPiece b c d)
          else
            let c := { c with
              phase := .cascade, target := ps.length, acc := if c.ownData then c.acc else d, tookLast := (s.berth b).tookLast }
            (s.waitFor b .cascade c).delegate b ps

/-- Enough steps for the pieces that are left. -/
def Cur.fuel (c : Cur) : Nat := 4 * (c.len - c.pos) + 8

/-- A write goes on. -/
def State.writeGo (s : State) (b : BerthId) : State := match (s.berth b).cur with
  | some c => State.writeStep c.fuel b s
  | none => s

/-- A part on a member has been answered: when the last one has, the piece lands; any write-through part makes the whole
piece so (R452, R453). -/
def State.pieceAnswered (s : State) (b : BerthId) (thru : Bool) : State :=
  match (s.berth b).cur with
  | none => s
  | some c =>
    let s := if thru ∧ ¬c.writeThrough then s.creditItem (.data (kibOf (s.pieceBytes c))) (dataCost (s.pieceBytes c)) else s
    let c := { c with writeThrough := c.writeThrough || thru, target := c.target - 1 }
    let s := s.modBerth b fun x => { x with cur := some c }
    if c.target ≠ 0 then s
    else
      let need := s.pieceBytes c
      let d := if c.ownData then slice c.acc (c.pos * s.blockSize c.dest) need else c.acc
      (s.landPiece b c d).writeGo b

/-! ### The end of a read -/

/-- The parts of the first `n` blocks. -/
def cutParts (ps : List Part) (n : Nat) : List Part :=
  (ps.filter fun p => p.off < n).map fun p => { p with len := min p.len (n - p.off) }

/-- The source of a COPY is read: its pieces are written (R194, R195). -/
def State.copyWrite (s : State) (b : BerthId) (c : Cur) (e : ReadEnd) : State :=
  let c : Cur := { c with
    phase := .data
    parts := cutParts c.parts e.upTo
    pos := 0
    done := 0
    status := e.status
    first := e.first }
  (s.modBerth b fun x => { x with cur := some c }).writeGo b

/-- Every block is in: READ delivers, VERIFY reports, COPY writes. -/
def State.readDone (s : State) (b : BerthId) (c : Cur) : State :=
  let e := s.readEnd c
  if c.ins.op = 0x23 then s.copyWrite b c e
  else
    let weak := (c.blocks.filter fun p => p.2 == .soft || p.2 == .rebuilt).length
    let c : Cur := { c with
      acc := c.acc.take (e.upTo * s.blockSize c.region)
      pos := c.len
      done := e.done
      status := e.status
      first := e.first
      result := some (BitVec.ofNat 64 (if c.ins.op = 0x24 then weak else e.done)) }
    if c.ins.op = 0x24 then s.finish b c.ins c.status c.done c.first c.result else s.deliver b c

/-- One source of a read is in: the die read, or a member's answer. -/
def State.readItem (s : State) (b : BerthId) : State :=
  match (s.berth b).cur with
  | none => s
  | some c =>
    let c : Cur := { c with open_ := c.open_ - 1 }
    if c.open_ = 0 then s.readDone b c
    else (s.modBerth b fun x => { x with cur := some c, why := .cascade })

/-- A read starts (steps 2 to 4 of Table ARCH-3): what the buffer holds is copied, the rest is read from the dies and
from members. Blocks on a lost member are lost (Table CASC-5). DESIGN CHOICE (log 151): a block is read as it stands when its
READ starts; a write to it that completes while the die read runs is not seen. -/
def State.readStart (s : State) (b : BerthId) (q : QInstr) (f : Form) (parts : List Part) : State :=
  let r := f.region
  let offs := (List.range f.len).filter (allowedAt parts)
  let lost := offs.filter fun i => s.blockLost r (f.start + i) || bit s.quy.lost (s.placeOf r (f.start + i))
  let bs := s.blockSize r
  let data := if q.op = 0x24 then [] else (List.range f.len).flatMap fun i =>
    if allowedAt parts i then s.blockData r (f.start + i) else zeros bs
  let ps := s.remotes r f.start offs
  let dies := offs.filter fun i => s.blockOnDie r (f.start + i)
  let die := !dies.isEmpty
  let c : Cur := { Cur.init q .die with
    region := r
    start := f.start
    len := f.len
    region2 := f.region2
    start2 := f.start2
    acc := data
    blocks := lost.map fun i => (i, Decode.lost)
    onDie := dies
    parts := parts
    scratch := f.scratch
    open_ := ps.length + (if die then 1 else 0) }
  let s := lost.foldl (fun s i => if s.blockLost r (f.start + i) then s.countDecode .strong .lost else s) s
  if c.open_ = 0 then s.readDone b c
  else
    let s := (s.waitFor b (if die then .die else .cascade) c).delegate b ps
    if die then s.addDie (.read b) else s

/-- The die read of berth `b` ends with outcomes; one given for a block that was copied from the buffer is none of its. -/
def State.readDies (s : State) (b : BerthId) (bs : List (Nat × Decode)) (miscor : Nat) : State :=
  match (s.berth b).cur with
  | none => s
  | some c =>
    let bs := bs.filter fun p => c.onDie.contains p.1
    let s := s.decodeRead c.region c.start bs miscor
    let s := s.modCur b fun c => { c with blocks := c.blocks ++ bs }
    s.readItem b

/-- A member's part of a read is answered: its blocks take their places, and where it fell short the blocks are lost. -/
def State.readAnswered (s : State) (b : BerthId) (p : Nat) (payload : List Byte) : State :=
  match (s.berth b).cur with
  | none => s
  | some c =>
    let bs := s.blockSize c.region
    let offs := (List.range c.len).filter fun i => allowedAt c.parts i && s.placeOf c.region (c.start + i) == p
    let step := fun (c : Cur) (x : Nat × Nat) =>
      if (x.2 + 1) * bs ≤ payload.length then
        if c.ins.op = 0x24 then c else { c with acc := splice c.acc (x.1 * bs) (slice payload (x.2 * bs) bs) }
      else { c with blocks := c.blocks ++ [(x.1, Decode.lost)] }
    (s.modBerth b fun x => { x with cur := some (offs.zipIdx.foldl step c) }).readItem b

/-! ### Internal tags (R232, R233) -/

/-- A page of the write share that holds a unit has another tag than a colour. -/
def State.bufferClash (s : State) (k c : Nat) : Bool := (s.unitOf k).fresh.any fun v => v.tag.toNat != c

/-- A map lookup of a region meets DRAM pages of another tag; rings are mapped by segment (R306), and with the DRAM controller
lost lookups read flash. -/
def State.mapClash (s : State) (r : Nat) : Bool :=
  (s.rtype r == .general || s.rtype r == .compat) && !s.dramLost && s.ftl.mapTags.toList.getD r 0 != BitVec.ofNat 4 (s.region r).colour

/-- A read meets a page of another tag than its part's colour. -/
def State.readClash (s : State) (f : Form) (parts : List Part) : Bool :=
  s.mapClash f.region || parts.any fun p => p.ok && (List.range p.len).any fun i =>
    s.bufferClash (s.blockKey f.region (f.start + p.off + i)) p.colour

/-- A write meets one: in the lookup, or in a unit that it merges with (R303). -/
def State.writeClash (s : State) (r start len : Nat) : Bool :=
  s.mapClash r || (s.rtype r == .compat && [start, start + len - 1].any fun i =>
    s.bufferClash (s.blockKey r i) (s.region r).colour)

/-- The transfer is refused against a tag: F25 is raised and counted, and the instruction ends with COLOUR_FAULT (R233). -/
def State.tagged (s : State) (b : BerthId) (q : QInstr) (clash : Bool) (body : State → State) : State :=
  if clash then
    ({ s with grd := { s.grd with tagFlt := satInc s.grd.tagFlt } }.raise 25 .degrade).finish b q .colourFault
  else body s

/-! ### The instructions -/

/-- READ and VERIFY. -/
def State.readBody (s : State) (b : BerthId) (q : QInstr) : State :=
  match q.form (s.berth b) 1 (q.op == 0x20) with
  | none => s.finish b q .badField
  | some f =>
    let bytes := f.len * s.blockSize f.region
    let a : Ask := { region := f.region, types := [.ring, .general, .compat], write := false, start := f.start,
                     len := f.len, ranged := true, misfit := (s.berth b).misfit f.scratch bytes }
    s.opened b q a fun s =>
      if f.len = 0 then s.finish b q .ok 0 none (some 0)
      else
        let parts := s.partsOf (s.berth b) f.region f.start f.len
        let denied := deniedCount parts
        if parts.all fun p => !p.ok then (s.denyParts denied).refuse b q .denied (some 0)
        else s.spanned b q f.scratch bytes (denied := denied) fun s =>
          let p : Path := { region := f.region, write := false, lost := false, media := false, doms := s.dataDoms f.region,
                            denied := denied }
          s.onPath b q p fun s => s.tagged b q (s.readClash f parts) fun s => s.readStart b q f parts

/-- The data of a write that names scratch, read at once; none is an uncorrectable word (R343). -/
def State.scratchData (s : State) (b : BerthId) (scratch : Option Nat) (n : Nat) : Option (List Byte) × State :=
  match scratch with
  | none => (some [], s)
  | some off => s.scratchRead (s.scratchPlace b off n).2 n

/-- A write begins. -/
def State.writeBegin (s : State) (b : BerthId) (q : QInstr) (f : Form) (start : Nat) : State :=
  match s.scratchData b f.scratch (f.len * s.blockSize f.region) with
  | (none, s) => s.finish b q .memUncorrectable
  | (some d, s) =>
    let c := { Cur.init q .data with region := f.region, start := start, len := f.len, acc := d, scratch := f.scratch }
    (s.modBerth b fun x => { x with cur := some c }).writeGo b

/-- A write that the guard denies (R227): its data is consumed and discarded. A stream berth completes it at once, and
its parcels find no instruction; a resident berth, whose parcels carry no tag of theirs, takes them first (log 31). -/
def State.writeDenied (s : State) (b : BerthId) (q : QInstr) (f : Form) : State :=
  let s := s.denyParts 1
  if (s.berth b).kind ∧ f.scratch = none then
    let c := { Cur.init q .data with region := f.region, start := f.start, len := f.len, denied := true,
                                     status := .denied, first := some 0 }
    (s.modBerth b fun x => { x with cur := some c }).writeGo b
  else s.refuse b q .denied (some 0)

/-- An APPEND to the ring still awaits data (R193). -/
def State.appendWaits (s : State) (r : Nat) : Bool :=
  s.berths.toList.any fun x => match x.cur with
    | some c => c.ins.op == 0x22 && c.region == r && c.pos < c.len && c.phase != .gate && !c.denied
    | none => false

/-- A hold that includes the tail segment is being ended by an admitted instruction: HARVEST would take the segment
(R257), so an APPEND begins after it; its berth stays READY. -/
def State.tailLeaving (s : State) (r : Nat) : Bool :=
  (s.holdsOn r).any fun h => h.leaving && h.segs.contains ((s.ring r).tailPos / segSize)

/-- WRITE and APPEND. A START that an APPEND gives names nothing: its units go to the tail (R190, R192, log 145). -/
def State.writeBody (s : State) (b : BerthId) (q : QInstr) : State :=
  let append := q.op == 0x22
  match q.form (s.berth b) 1 true with
  | none => s.finish b q .badField
  | some f =>
    if append && f.len % 64 != 0 then s.finish b q .badField
    else
      let bytes := f.len * s.blockSize f.region
      let a : Ask := { region := f.region, types := if append then [.ring] else [.general, .compat], write := true,
                       start := f.start, len := f.len, ranged := true, append := append,
                       misfit := (s.berth b).misfit f.scratch bytes }
      s.opened b q a fun s =>
        if f.len = 0 then s.finish b q .ok 0 none (if append then none else some 0)
        else if !(s.berth b).has (s.region f.region).colour then s.writeDenied b q f
        else
          if append && s.appendWaits f.region then s.finish b q .wrongState
          else if append && s.tailLeaving f.region then s
          else s.spanned b q f.scratch bytes fun s =>
            let start := if append then s.appendPos f.region else f.start
            let lost := if append then bit (s.region f.region).cfg.val 16 && s.quy.lost != 0
              else s.touchesLost f.region start f.len
            let p : Path := { region := f.region, write := true, lost := lost, media := !append,
                              doms := s.dataDoms f.region }
            s.onPath b q p fun s => s.tagged b q (s.writeClash f.region start f.len) fun s => s.writeBegin b q f start

/-- COPY (R194): both ends under each row. -/
def State.copyBody (s : State) (b : BerthId) (q : QInstr) : State :=
  match q.form (s.berth b) 2 false with
  | none => s.finish b q .badField
  | some f =>
    if (s.gated f.region || s.gated f.region2) && f.len != 0 then s.gateWait b q
    else
      let s := (s.checkEntry f.region).checkEntry f.region2
      let src : Ask := { region := f.region, types := [.ring, .general, .compat], write := false, start := f.start,
                         len := f.len, ranged := true }
      let dst : Ask := { region := f.region2, types := [.general, .compat], write := true, start := f.start2,
                         len := f.len, ranged := true }
      let src := if s.blockSize f.region = s.blockSize f.region2 then src else { src with types := [] }
      match s.refusal2 src dst with
      | some st => s.refuse b q st
      | none =>
        if f.len = 0 then s.finish b q .ok 0 none (some 0)
        else
          let parts := s.partsOf (s.berth b) f.region f.start f.len
          let dstOk := (s.berth b).has (s.region f.region2).colour
          let denied := deniedCount parts + (if dstOk then 0 else 1)
          if !dstOk || parts.all (fun p => !p.ok) then (s.denyParts denied).refuse b q .denied (some 0)
          else
            let p : Path := { region := f.region2, write := true, lost := s.touchesLost f.region2 f.start2 f.len,
                              media := true, doms := (s.dataDoms f.region ++ s.dataDoms f.region2).dedup, denied := denied }
            if s.pathFenced f.region false then (s.denyParts denied).refuse b q .fenced
            else s.onPath b q p fun s =>
              s.tagged b q (s.readClash f parts || s.writeClash f.region2 f.start2 f.len) fun s => s.readStart b q f parts

end Sys2Proof.Machine
end

