-- ==== Sys2Proof/Machine/RegionOps.lean ====
section
/-! DEFINITION. The region instructions (R196 to R201, R253 to R257) and the map commit that each of them is to the ledger
(Table TZ-4). -/

namespace Sys2Proof.Machine

/-! ### Map commits -/

/-- Domains of a map commit: CODEC, FLA, FLB. -/
def commitDomains : List (Fin 16) := [10, 13, 14]

/-- Rows 9 and 12 for an instruction that needs flash but names no data (R421, R390). -/
def State.onFlash (s : State) (b : BerthId) (q : QInstr) (body : State → State) : State :=
  if s.mon.shut then s.refuse b q .fenced
  else match s.need commitDomains false with
    | .ready => body s
    | .off => s.finish b q .domainOff
    | .wait ds => s.demand ds

/-- An instruction in progress is put before the ledger as one map commit; `go` runs it, covered or write-through. -/
def State.askCommit (s : State) (b : BerthId) (c : Cur) (go : Bool → State → State) : State :=
  let s := s.modBerth b fun x => { x with cur := some c }
  match s.hup.answerItem commitCost with
  | .admitted => go true (s.admitItem .commit commitCost)
  | .writeThrough => go false s
  | .wait => s.ledgerWait b c commitCost

/-- The change of a map commit. -/
def commitOf (b : Option BerthId) (covered : Bool) (units : List Nat) (after : List After) : Change where
  units := units
  stamp := 0
  moves := []
  after := after
  owner := b
  cost := if covered then commitCost else 0
  kib := 0
  blocks := 0
  commit := true

/-- The instruction waits until `n` things are durable, and completes with what `c` holds (R181). -/
def State.untilDurable (s : State) (b : BerthId) (c : Cur) (n : Nat) : State :=
  s.waitFor b .die { c with phase := .durable, open_ := n }

/-- An admitted map commit comes to nothing. -/
def State.commitFail (s : State) (b : BerthId) (q : QInstr) (covered : Bool) (st : Status) : State :=
  (if covered then s.creditItem .commit commitCost else s).finish b q st

/-! ### TRIM and WEED -/

/-- The units of a range are unmapped; a unit of COMPAT that the range covers in part keeps its other blocks (R197,
R303). The answer is the admission and the units. -/
def State.unmapRange (s : State) (r start len : Nat) (thru : Bool) : Nat × List Nat × State :=
  let per := s.unitBlocks r
  let ks := (s.rangeKeys r (start / per) ((start + len + per - 1) / per)).filter s.mapped
  let (n, s) := s.nextStamp
  let step := fun (s : State) (k : Nat) =>
    let u := k % 2 ^ 60
    if start ≤ u * per ∧ (u + 1) * per ≤ start + len then s.newVersion k (Version.unmap n s.ftl.jSeq thru)
    else
      let cover := BitVec.ofNat 8 (flagBits 8 fun i => decide (start ≤ u * per + i ∧ u * per + i < start + len))
      let (place, s) := match s.givePlaces .tlc .tlc (s.codeOf r) 1 false with
        | some (p, t) => (p.head?, t)
        | none => (none, s)
      s.newVersion k { Version.unmap n s.ftl.jSeq thru with cover := cover, data := some (zeros 4096), place := place }
  (n, ks, ks.foldl step s)

/-- The segments of a ring WEED that leave their slots: neither held, nor pinned, nor the tail's (R197). -/
def State.weedSegs (s : State) (r start len : Nat) : List Nat :=
  let x := s.ring r
  x.segs.filter fun g => start / segSize ≤ g && g < (start + len) / segSize && !s.heldSeg r g && !s.pinnedSeg r g &&
    g != x.tailPos / segSize

/-- TRIM is admitted. -/
def State.trimGo (s : State) (b : BerthId) (covered : Bool) : State :=
  match (s.berth b).cur with
  | none => s
  | some c =>
    let ps := s.remotes c.region c.start (List.range c.len)
    let (n, ks, s) := s.unmapRange c.region c.start c.len (!covered)
    let s := s.addChange { commitOf (some b) covered ks [] with stamp := n }
    let c := { c with done := c.len, result := some (BitVec.ofNat 64 c.len) }
    (s.untilDurable b c (1 + ps.length)).delegate b ps

/-- WEED is admitted: a ring's whole segments, or units (R197, R316). -/
def State.weedGo (s : State) (b : BerthId) (covered : Bool) : State :=
  match (s.berth b).cur with
  | none => s
  | some c =>
    let r := c.region
    let ring := s.rtype r == .ring
    let segs := if ring then s.weedSegs r c.start c.len else []
    let ps := s.remotes r c.start (List.range c.len)
    let (n, ks, s) := if ring then (0, ([] : List Nat), segs.foldl (fun s g => s.leaveSlot r g) s)
      else s.unmapRange r c.start c.len (!covered)
    let done := if ring then segs.length * segSize else c.len
    let s := s.addChange { commitOf (some b) covered ks [.weed (some b) r c.start c.len done segs] with stamp := n }
    let c := { c with done := done, result := some (BitVec.ofNat 64 done) }
    (s.untilDurable b c (2 + ps.length)).delegate b ps

/-- TRIM and WEED up to the ledger. -/
def State.trimBody (s : State) (b : BerthId) (q : QInstr) : State :=
  let weed := q.op == 0x31
  match q.form (s.berth b) 1 false with
  | none => s.finish b q .badField
  | some f =>
    let ring := weed && s.rtype f.region == .ring
    let a : Ask := { region := f.region, types := if weed then [.general, .compat, .ring] else [.general, .compat],
                     write := true, start := f.start, len := f.len, ranged := !ring || f.len == 0,
                     misfit := ring && (f.start % segSize != 0 || f.len % segSize != 0) }
    s.opened b q a fun s =>
      if ring && f.len != 0 && ((s.ring f.region).tailPos / segSize + 1) * segSize < f.start + f.len then
        s.refuse b q .range
      else if f.len = 0 then s.finish b q .ok 0 none (some 0)
      else if !(s.berth b).has (s.region f.region).colour then (s.denyParts 1).refuse b q .denied (some 0)
      else
        let p : Path := { region := f.region, write := false, lost := s.touchesLost f.region f.start f.len, media := false,
                          doms := commitDomains }
        s.onPath b q p fun s =>
          let c := { Cur.init q .ledger with region := f.region, start := f.start, len := f.len }
          s.askCommit b c fun cov s => if weed then s.weedGo b cov else s.trimGo b cov

/-! ### HOLD (R198, R253 to R255) -/

/-- The completed unit at or just before a time: the latest by its stored time, the later position on a tie. -/
def unitBefore (us : List RUnit) (t : Nat) : Option RUnit :=
  us.foldl (fun m u => if t < u.time.toNat then m else match m with
    | none => some u
    | some v => if v.time.toNat < u.time.toNat ∨ (v.time = u.time ∧ v.no < u.no) then some u else m) none

/-- The unit at or just before a time lay in a segment that has left: none of the units given answers for it (R198, R201). -/
def Ring.leftAt (x : Ring) (t : Nat) (u : Option RUnit) : Bool :=
  x.gone.any fun g => g.2.toNat ≤ t && (match u with
    | some v => v.time.toNat < g.2.toNat
    | none => true)

/-- The unit at or just before a time, if it stands among those given. -/
def Ring.unitAt (x : Ring) (us : List RUnit) (t : Nat) : Option RUnit :=
  let u := unitBefore us t
  if x.leftAt t u then none else u

/-- Units whose segment stands in a slot inside the rolling window. -/
def State.liveUnits (s : State) (r : Nat) : List RUnit :=
  (s.ring r).units.filter fun u => (s.ring r).segs.contains (u.no / 1024) && s.oldestLiveSeg r ≤ u.no / 1024

/-- The segments that HOLD freezes; none is RANGE. -/
def State.holdSegs (s : State) (r : Nat) (mode1 : Bool) (start n t : Nat) : Option (List Nat) :=
  let x := s.ring r
  if mode1 then
    let run := (List.range (min n (x.segs.length + 1))).map (· + start / segSize)
    if run.length = n ∧ (run.all fun g => x.segs.contains g && g * segSize < x.tailPos) then some run else none
  else
    let us := s.liveUnits r
    let hit := if n = 0 then (x.unitAt us t).toList else
      us.filter fun u => t - n * 1000000 ≤ u.time.toNat && u.time.toNat ≤ t
    match (hit.map fun u => u.no / 1024).min?, (hit.map fun u => u.no / 1024).max? with
    | some lo, some hi => some (x.segs.filter fun g => lo ≤ g && g ≤ hi)
    | _, _ => none

/-- The lowest hold id that is free. -/
def State.freeHold (s : State) : Nat := ((List.range 256).find? fun i => !s.holds.any fun h => h.id == i).getD 256

/-- HOLD's own checks (Table RING-2 rows 5 and 6). -/
def State.holdRefusal (s : State) (r : Nat) (segs : List Nat) : Option Status :=
  let fresh := (segs.filter fun g => !s.heldSeg r g).length
  if 32 ≤ (s.holdsOn r).length ∨ 256 ≤ s.holds.length then some .holdLimit
  else if s.belowMin r ∨ s.unheld r < fresh + s.minSeg r + 1 then some .belowMinimum
  else none

/-- The colour that HOLD names (CV = 1). -/
def QInstr.holdColour (q : QInstr) : Option (BitVec 4) := if bit q.word 36 then some (q.word.extractLsb' 32 4) else none

/-- HOLD is admitted: what it names is decided now (R260). -/
def State.holdGo (s : State) (b : BerthId) (covered : Bool) : State :=
  match (s.berth b).cur with
  | none => s
  | some c =>
    let q := c.ins
    match s.holdSegs c.region (q.modeBit 0) c.start (q.imm 0 32) c.target with
    | none => s.commitFail b q covered .range
    | some segs =>
      match s.holdRefusal c.region segs with
      | some st => s.commitFail b q covered st
      | none =>
        let id := s.freeHold
        let h : Hold := { id := id, region := c.region, first := (segs.min?).getD 0, segs := segs, colour := q.holdColour,
                          time := 0, stamp := s.rng.stamp, leaving := false }
        let s := { s with holds := s.holds ++ [h], rng := { s.rng with stamp := s.rng.stamp + 1 } }
        let s := s.retag.addChange (commitOf (some b) covered [] [.hold id])
        s.untilDurable b { c with result := some (BitVec.ofNat 64 id) } 1

/-- HOLD up to the ledger. -/
def State.holdBody (s : State) (b : BerthId) (q : QInstr) : State :=
  let w := q.extWord 0
  let mode1 := q.modeBit 0
  let r := bits w 0 6
  let start := bits w 8 56
  let n := q.imm 0 32
  let t := ((s.berth b).reg q.srcA).toNat
  s.checked b q (q.only [fDst, fSrcA, (40, 1), fXc, (0, 37)] && q.xc == 1 && bits w 6 2 == 0 &&
      !(mode1 && start % segSize != 0)) fun s =>
    s.opened b q { region := r, types := [.ring], write := false, start := 0, len := 0, ranged := false } fun s =>
      if mode1 && n == 0 then s.finish b q .ok
      else match s.holdSegs r mode1 start n t with
        | none => s.finish b q .range
        | some segs =>
          s.coloured b q ((s.region r).colour :: (q.holdColour.map BitVec.toNat).toList) fun s =>
            match s.holdRefusal r segs with
            | some st => s.finish b q st
            | none => s.onFlash b q fun s =>
              s.askCommit b { Cur.init q .ledger with region := r, start := start, target := t } fun cov s => s.holdGo b cov

/-! ### RELEASE and HARVEST (R200, R256, R257) -/

/-- A hold that exists and that no admitted RELEASE or HARVEST ends. -/
def State.findHold (s : State) (id : Nat) : Option Hold := s.holds.find? fun h => h.id == id && !h.leaving

/-- A hold is being ended by an admitted instruction. -/
def State.markLeaving (s : State) (id : Nat) : State :=
  { s with holds := s.holds.map fun h => if h.id = id then { h with leaving := true } else h }

/-- RELEASE is admitted. -/
def State.releaseGo (s : State) (b : BerthId) (covered : Bool) : State :=
  match (s.berth b).cur with
  | none => s
  | some c =>
    let id := c.ins.imm 0 8
    match s.findHold id with
    | none => s.commitFail b c.ins covered .badField
    | some _ => ((s.markLeaving id).addChange (commitOf (some b) covered [] [.release id])).untilDurable b c 1

/-- RELEASE up to the ledger. -/
def State.releaseBody (s : State) (b : BerthId) (q : QInstr) : State :=
  let id := q.imm 0 8
  match s.findHold id with
  | none => s.finish b q .badField
  | some h =>
    s.checked b q (q.only [(0, 8)]) fun s =>
      s.opened b q { region := h.region, types := [.ring], write := false, start := 0, len := 0, ranged := false } fun s =>
        s.coloured b q [s.holdColour h] fun s => s.onFlash b q fun s =>
          s.askCommit b { Cur.init q .ledger with region := h.region } fun cov s => s.releaseGo b cov

/-- The colours that HARVEST needs: of every hold that names one of the segments (R257). -/
def State.harvestColours (s : State) (h : Hold) : List Nat :=
  ((s.holdsOn h.region).filter fun o => o.segs.any fun g => h.segs.contains g).map s.holdColour

/-- The hold includes the tail segment while an APPEND awaits data (R257). -/
def State.harvestBlocked (s : State) (h : Hold) : Bool :=
  h.segs.contains ((s.ring h.region).tailPos / segSize) && s.appendWaits h.region

/-- An admitted HARVEST is to define this region. -/
def State.harvestInto (s : State) (region : Nat) : Bool :=
  !(s.openChanges fun c => c.after.any fun a => match a with
    | .harvest _ _ r => r == region
    | _ => false).isEmpty

/-- HARVEST is admitted. -/
def State.harvestGo (s : State) (b : BerthId) (covered : Bool) : State :=
  match (s.berth b).cur with
  | none => s
  | some c =>
    let id := c.ins.imm 0 8
    match s.findHold id with
    | none => s.commitFail b c.ins covered .badField
    | some h =>
      if s.rtype c.region2 ≠ .undefined ∨ s.harvestInto c.region2 then s.commitFail b c.ins covered .badRegion
      else if s.harvestBlocked h then s.commitFail b c.ins covered .wrongState
      else
        let s := (s.markLeaving id).addChange (commitOf (some b) covered [] [.harvest b id c.region2])
        s.untilDurable b { c with result := some (BitVec.ofNat 64 (h.segs.length * segSize)) } 1

/-- HARVEST up to the ledger. -/
def State.harvestBody (s : State) (b : BerthId) (q : QInstr) : State :=
  let id := q.imm 0 8
  let w := q.extWord 0
  let new := bits w 0 6
  match s.findHold id with
  | none => s.finish b q .badField
  | some h =>
    s.checked b q (q.only [fDst, fXc, (0, 8)] && q.xc == 1 && bits w 6 58 == 0) fun s =>
      if s.gated new then s.gateWait b q
      else s.opened b q { region := h.region, types := if s.rtype new = .undefined then [.ring] else [], write := false,
                          start := 0, len := 0, ranged := false } fun s =>
        s.coloured b q (s.harvestColours h) fun s =>
          if s.harvestBlocked h then s.finish b q .wrongState
          else s.onFlash b q fun s =>
            s.askCommit b { Cur.init q .ledger with region := h.region, region2 := new } fun cov s => s.harvestGo b cov

/-! ### RINGPOS (R201) -/

/-- The position RINGPOS writes; none is RANGE. -/
def State.ringPosition (s : State) (r mode t : Nat) : Option Nat :=
  let x := s.ring r
  match mode with
  | 0 => some x.tailPos
  | 1 => some (s.oldestLive r)
  | 2 => some (match (x.segs.filter fun g => s.heldSeg r g).min? with
    | some g => g * segSize
    | none => x.tailPos)
  | _ => (x.unitAt (x.units.filter fun u => x.segs.contains (u.no / 1024)) t).map fun u => u.no * 64

def State.ringposBody (s : State) (b : BerthId) (q : QInstr) : State :=
  let w := q.extWord 0
  let r := bits w 0 6
  s.checked b q (q.only [fDst, fSrcA, (40, 2), fXc] && q.xc == 1 && bits w 6 58 == 0) fun s =>
    s.opened b q { region := r, types := [.ring], write := false, start := 0, len := 0, ranged := false } fun s =>
      match s.ringPosition r (q.mode % 4) ((s.berth b).reg q.srcA).toNat with
      | none => s.finish b q .range
      | some p => s.coloured b q [(s.region r).colour] fun s => s.finish b q .ok 0 none (some (BitVec.ofNat 64 p))

end Sys2Proof.Machine
end

