-- ==== Sys2Proof/Machine/RecordOps.lean ====
section
/-! DEFINITION. The logbook, counter and time instructions (R202 to R206, R285 to R298). -/

namespace Sys2Proof.Machine

/-! ### SEAL-class items -/

/-- An instruction in progress is put before the ledger as one pending SEAL. -/
def State.askSeal (s : State) (b : BerthId) (c : Cur) (go : Bool → State → State) : State :=
  let s := s.modBerth b fun x => { x with cur := some c }
  match s.hup.answerItem sealCost with
  | .admitted => go true (s.admitItem .sealed sealCost)
  | .writeThrough => go false s
  | .wait => s.ledgerWait b c sealCost

def costIf (covered : Bool) : Nat := if covered then sealCost else 0

/-- Domains of the logbook and the counters: SAFE, CODEC, SEAL, FLA, FLB (R25, R279). -/
def recordDomains : List (Fin 16) := [1, 10, 11, 13, 14]

/-- Rows 9 and 12 for rung-2 work, which wakes domains whatever PMU_AUTO holds (R388). -/
def State.onRecords (s : State) (b : BerthId) (q : QInstr) (body : State → State) : State :=
  if s.mon.shut then s.finish b q .fenced
  else match s.need recordDomains true with
    | .ready => body s
    | .off => s.finish b q .domainOff
    | .wait ds => s.demand ds

/-! ### SEAL (R203) -/

def QInstr.sealType (q : QInstr) : W16 := q.word.extractLsb' 22 16
def QInstr.sealColour (q : QInstr) : BitVec 4 := q.word.extractLsb' 18 4
def QInstr.sealLen (q : QInstr) : Nat := q.imm 0 12

/-- The payload that the registers give. -/
def regsPayload (x : Berth) (q : QInstr) : List Byte :=
  ((List.range (16 - q.srcA)).flatMap fun i => leBytes 8 (x.reg (q.srcA + i)).toNat).take q.sealLen

/-- SEAL is admitted: its record takes its number (R277, R279). -/
def State.sealGo (s : State) (b : BerthId) (covered : Bool) : State :=
  match (s.berth b).cur with
  | none => s
  | some c =>
    if s.log.full then (if covered then s.creditItem .sealed sealCost else s).finish b c.ins .logbookFull
    else
      let seq := s.ownSeq s.log.next
      let s := s.untilDurable b { c with done := 1, result := some seq } 1
      s.sealRec { typ := c.ins.sealType, colour := c.ins.sealColour, card := false, payload := c.acc, owner := some b,
                  cost := costIf covered }

/-- The payload of a SEAL is complete: it comes before the ledger (R277, log 32). -/
def State.sealAsk (s : State) (b : BerthId) (c : Cur) : State :=
  s.askSeal b { c with phase := .ledger } fun cov s => s.sealGo b cov

/-- SEAL takes its payload from data parcels. -/
def State.sealData (s : State) (b : BerthId) : State :=
  match (s.berth b).cur with
  | none => s
  | some c =>
    match State.gather ((s.berth b).chunks.length + c.len + 1) b c.len c.len s with
    | (.more, s) => match (s.berth b).cur with
      | some c => s.waitFor b .data { c with phase := .data }
      | none => s
    | (.bad, s) => s.finish b c.ins .badField
    | (.got d, s) => s.sealAsk b { c with acc := d, tookLast := (s.berth b).tookLast }

def State.sealBody (s : State) (b : BerthId) (q : QInstr) : State :=
  let regs := q.modeBit 2
  let len := q.sealLen
  let scr := q.xc == 1
  let off := bits (q.extWord 0) 0 18
  let x := s.berth b
  let ok := q.only [fDst, fSrcA, (42, 1), fXc, (18, 20), (0, 12)] && q.xc ≤ 1 && len ≤ 2048 && bit q.sealType 15 &&
    !(regs && (scr || 8 * (16 - q.srcA) < len)) && (!scr || (scratchWordOk (q.extWord 0) && !x.misfit (some off) len))
  s.checked b q ok fun s =>
    if s.log.fenced then s.finish b q .fenced
    else s.coloured b q [q.sealColour.toNat] fun s =>
      if s.log.full then s.finish b q .logbookFull
      else s.spanned b q (if scr then some off else none) len fun s => s.onRecords b q fun s =>
        let c := { Cur.init q .data with len := len }
        if regs then s.sealAsk b { c with acc := regsPayload x q }
        else if scr then
          match s.scratchData b (some off) len with
          | (none, s) => s.finish b q .memUncorrectable
          | (some d, s) => s.sealAsk b { c with acc := d }
        else (s.modBerth b fun x => { x with cur := some c }).sealData b

/-! ### LOGREAD (R204, R285 to R289) -/

/-- A copy of a record as it reads; none when it fails its decode or its CPL check. -/
def LogRec.seen (r : LogRec) : CopyRead → Option LogRec
  | .good => some r
  | .otherPrev p => some { r with prev := p }
  | .decodeFails | .cplFails => none

/-- A record as it reads: copy A, and copy B where that fails (R287). -/
def State.readRec (s : State) (fails : List LogFail) (seq : W64) : Option LogRec :=
  (s.log.find seq).bind fun r => match fails.find? fun f => f.seq == seq with
    | some f => (r.seen f.copyA).or (r.seen f.copyB)
    | none => some r

/-- Whether a record's PREV holds: the record before is erased or damaged, or hashes to it (R287). -/
def State.chainOk (s : State) (fails : List LogFail) (r : LogRec) : Bool :=
  r.seq.toNat % 2 ^ 62 == 0 || (match s.readRec fails (r.seq - 1) with
    | some p => p.chain == r.prev
    | none => true)

/-- One record as delivered, and whether it failed (R288, R289). -/
def State.delivered (s : State) (fails : List LogFail) (seq : W64) : List Byte × Bool :=
  match s.readRec fails seq with
  | some r => let ok := s.chainOk fails r; (r.image (!ok), !ok)
  | none => (damagedImage seq, true)

/-- Sequence numbers of a range. -/
def seqRange (first : W64) (n : Nat) : List W64 := (List.range n).map fun i => first + BitVec.ofNat 64 i

/-- The images of `n` records from number `seq` on, and the offset of the first that failed. -/
def State.deliveredAll (s : State) (fails : List LogFail) (seq : W64) (n : Nat) : List Byte × Option Nat :=
  let rs := (seqRange seq n).map (s.delivered fails)
  (rs.flatMap (·.1), (rs.zipIdx.find? fun p => p.1.2).map (·.2))

/-- A header whose complement fails raises F05 (R28). -/
def State.logFaults (s : State) (fails : List LogFail) : State :=
  let cpl := (fails.map fun f => (if f.copyA = .cplFails then 1 else 0) + (if f.copyB = .cplFails then 1 else 0)).sum
  (List.range cpl).foldl (fun s _ => s.raise 5 .degrade) s

/-- The images of a LOGREAD stand ready; blocks that it alone still kept are erased (R290). -/
def State.logImages (s : State) (b : BerthId) (d : List Byte) (first : Option Nat) (lost : Bool) : State :=
  match (s.berth b).cur with
  | none => s
  | some c => (s.deliver b { c with
      acc := d
      pos := c.len
      done := c.len
      first := first
      status := if lost then .mediaLost else .ok
      result := some (BitVec.ofNat 64 c.len) }).eraseArchived

/-- The records are read: the images are delivered. -/
def State.logReadDone (s : State) (b : BerthId) (fails : List LogFail) : State :=
  match (s.berth b).cur with
  | none => s
  | some c =>
    let d := s.deliveredAll fails (BitVec.ofNat 64 c.start) c.len
    (s.logFaults fails).logImages b d.1 d.2 d.2.isSome

/-- A member has answered a LOGREAD of its logbook: RANGE, or its images (R286, R288). -/
def State.logAnswered (s : State) (b : BerthId) (a : SubAnswer) : State :=
  match (s.berth b).cur with
  | none => s
  | some c =>
    if a.status = Status.range.code then s.refuse b c.ins .range
    else s.logImages b a.payload a.first (a.status != Status.ok.code)

def State.logreadBody (s : State) (b : BerthId) (q : QInstr) : State :=
  let first := (s.berth b).reg q.srcA
  let n := q.imm 0 32
  let scr := q.xc == 1
  let off := bits (q.extWord 0) 0 18
  let pos := bits first 62 2
  let here := pos == s.position
  let ok := q.only [fDst, fSrcA, fXc, (0, 32)] && q.xc ≤ 1 && (!scr || scratchWordOk (q.extWord 0))
  s.checked b q ok fun s =>
    if s.gated 0 then s.gateWait b q
    else
      let absent := !here && (!bit s.quy.present pos || bit s.quy.lost pos)
      if n = 0 then s.finish b q .ok 0 none (some 0)
      else if absent || (here && (first.toNat < (s.ownSeq s.log.old).toNat ||
          (s.ownSeq s.log.next).toNat < first.toNat + n)) then s.refuse b q .range
      else s.coloured b q [(s.region 0).colour] fun s =>
        let size := if here then ((seqRange first n).map fun x => match s.log.find x with
          | some r => (80 + r.payload.length + 15) / 16 * 16
          | none => 80).sum else 0
        if (s.berth b).misfit (if scr then some off else none) size then s.finish b q .badField
        else s.spanned b q (if scr then some off else none) size fun s => s.onFlash b q fun s =>
          let c := { Cur.init q .die with start := first.toNat, len := n, scratch := if scr then some off else none }
          if here then (s.waitFor b .die c).addDie (.read b)
          else (s.waitFor b .cascade { c with phase := .cascade }).delegate b [Fin.ofNat 4 pos]

/-! ### CHECKPT (R204, R280) -/

/-- CHECKPT is admitted: the chain head is noted, and the signature starts. -/
def State.checkptGo (s : State) (b : BerthId) (covered : Bool) : State :=
  match (s.berth b).cur with
  | none => s
  | some c =>
    if s.log.full then (if covered then s.creditItem .sealed sealCost else s).finish b c.ins .logbookFull
    else (s.untilDurable b { c with done := 1 } 1).startCheckpoint (some b) (costIf covered)

def State.checkptBody (s : State) (b : BerthId) (q : QInstr) : State :=
  s.checked b q (q.only [fDst]) fun s =>
    if s.log.fenced then s.finish b q .fenced
    else if s.log.full then s.finish b q .logbookFull
    else s.onRecords b q fun s => s.askSeal b (Cur.init q .ledger) fun cov s => s.checkptGo b cov

/-- The front signature is formed: the checkpoint record is sealed, and its CHECKPT knows its number (R280, R281). -/
def State.signed (s : State) : State :=
  match s.log.signing with
  | [] => s
  | c :: _ =>
    let seq := s.ownSeq s.log.next
    let s := match c.owner with
      | some b => s.modCur b fun x => { x with result := some seq }
      | none => s
    s.sealCheckpoint c

/-! ### Counters (R205, R293 to R297) -/

/-- The value of a counter: of the mirror whose pair holds, or the larger when both do; none when both fail (R293). -/
def Counter.value (x : Counter) : Option W64 :=
  let good := fun (p : Option (Pair 64)) => match p with
    | some v => if v.ok then some v.val else none
    | none => none
  match good x.a, good x.b with
  | some v, some w => some (if v.toNat < w.toNat then w else v)
  | some v, none => some v
  | none, some w => some w
  | none, none => none

def badPair : Option (Pair 64) → Bool
  | some v => !v.ok
  | none => false

/-- The safety pair reads a counter (R28, R29): a broken mirror raises F05, and is rewritten from the other after the
repair record is sealed; two broken mirrors fence the counter. -/
def State.checkCounter (s : State) (n : Fin 32) : State :=
  let x := s.counter n
  if bit s.ctr.fence n then s
  else match x.value with
    | none => { s with ctr := { s.ctr with fence := setBit s.ctr.fence n } }.raise 5 .fence
    | some v =>
      if badPair x.a ∨ badPair x.b then
        let s := (s.raise 5 .degrade).sealCard 0x41 ([5, 0] ++ leBytes 2 n.val)
        s.setCounter n { x with a := x.a.map fun _ => Pair.mk' v, b := x.b.map fun _ => Pair.mk' v }
      else s

/-- The value that the next CTRINC starts from: that of the last step admitted and still to be programmed (R294). -/
def State.steppedValue (s : State) (n : Fin 32) : W64 :=
  let vs := s.dies.filterMap fun o => match o.kind with
    | .ctrMirror m v _ _ _ => if m = n then some v else none
    | _ => none
  vs.getLastD ((s.counter n).value.getD 0)

def ctrColour (cfg : W32) : Nat := bits cfg 0 4
def ctrBound (cfg : W32) : Bool := bit cfg 4
def ctrLogs (cfg : W32) : Bool := bit cfg 5
def ctrFrozen (cfg : W32) : Bool := bit cfg 6

/-- The counter of an instruction. -/
def QInstr.counter (q : QInstr) : Fin 32 := Fin.ofNat 32 (q.imm 0 5)

/-- AMOUNT of a CTRINC (R205). -/
def ctrAmount (x : Berth) (q : QInstr) : Nat := if q.modeBit 0 then (x.reg q.srcA).toNat else q.imm 6 33

/-- A counter is fenced: both mirrors fail, or neither has a journal (R296). -/
def State.ctrFenced (s : State) (n : Fin 32) : Bool := bit s.ctr.fence n || (s.counter n).value.isNone

/-- CTRINC is admitted: both mirrors are programmed, and the counter-step record is sealed with them (R294). -/
def State.ctrincGo (s : State) (b : BerthId) (covered : Bool) : State :=
  match (s.berth b).cur with
  | none => s
  | some c =>
    let n := c.ins.counter
    let old := s.steppedValue n
    let sum := old.toNat + c.target
    if old = BitVec.allOnes 64 then
      (if covered then s.creditItem .sealed sealCost else s).finish b c.ins .saturated 0 none (some old)
    else
      let new : W64 := if 2 ^ 64 ≤ sum then BitVec.allOnes 64 else BitVec.ofNat 64 sum
      let logs := ctrLogs (s.counter n).cfg.val
      let sealed := logs && !s.log.exhausted
      let mirrors := (if s.ctr.liveA then 1 else 0) + (if s.ctr.liveB then 1 else 0)
      let c := { c with
        done := 1
        status := if 2 ^ 64 ≤ sum then .saturated else .ok
        result := some new }
      let s := s.untilDurable b c (mirrors + (if sealed then 1 else 0))
      let s := if s.ctr.liveA then s.addDie (.ctrMirror n new false (some b) (costIf covered)) else s
      let s := if s.ctr.liveB then s.addDie (.ctrMirror n new true (some b) (costIf covered)) else s
      if !logs then s
      else if !sealed then { s with log := { s.log with unsealed := satInc s.log.unsealed } }
      else s.sealRec { typ := 0x33, colour := 0, card := true, owner := some b, cost := 0,
                       payload := [BitVec.ofNat 8 n.val, 0, 0, 0] ++ leBytes 8 old.toNat ++ leBytes 8 new.toNat }

def State.ctrincBody (s : State) (b : BerthId) (q : QInstr) : State :=
  let n := q.counter
  let amount := ctrAmount (s.berth b) q
  let ok := q.only [fDst, fSrcA, (40, 1), (0, 5), (6, 33)] && 0 < amount && amount ≤ 2 ^ 32
  s.checked b q ok fun s =>
    let s := s.checkCounter n
    let cfg := (s.counter n).cfg.val
    if s.ctrFenced n then s.finish b q .fenced
    else if ctrBound cfg && !(s.berth b).has (ctrColour cfg) then s.finish b q .counterBound
    else s.onRecords b q fun s =>
      s.askSeal b { Cur.init q .ledger with target := amount } fun cov s => s.ctrincGo b cov

def State.ctrreadBody (s : State) (b : BerthId) (q : QInstr) : State :=
  s.checked b q (q.only [fDst, (0, 5)]) fun s =>
    let s := s.checkCounter q.counter
    match (s.counter q.counter).value with
    | some v => if s.ctrFenced q.counter then s.finish b q .fenced else
      (s.modBerth b fun x => x.setFlags (aluMove v)).finish b q .ok 0 none (some v)
    | none => s.finish b q .fenced

/-! ### Time (R206) -/

def State.timerdBody (s : State) (b : BerthId) (q : QInstr) : State :=
  s.checked b q (q.only [fDst, fSrcA]) fun s =>
    let s := s.elapse
    let t := s.now
    let s := s.modBerth b fun x => { x.setFlags (aluMove t) with v := x.v.setIfInBounds q.srcA (s.tim.qual.setWidth 64) }
    s.finish b q .ok 0 none (some t)

/-- The wake alarm is armed at a time, or disarmed by 0 (R206): one alarm, in AON, with its complement. -/
def State.armAlarm (s : State) (t : W64) : State :=
  { s with tim := { s.tim with
    alml := t.setWidth 32
    almh := t.extractLsb' 32 32
    alarm := Pair.mk' t
    armed := t != 0
    alarmDue := false } }

def State.alarmBody (s : State) (b : BerthId) (q : QInstr) : State :=
  s.checked b q (q.only [fSrcA]) fun s => (s.armAlarm ((s.berth b).reg q.srcA)).finish b q .ok

end Sys2Proof.Machine
end

