-- ==== Sys2Proof/Machine/Abort.lean ====
section
/-! DEFINITION. How an instruction in progress is ended from outside (R150, R209, R435): what it has under way is
withdrawn, and it completes. -/

namespace Sys2Proof.Machine

/-- The newest record, if it is this berth's and not in both copies yet, is taken back with what its checkpoint noted
(R150). A copy that one die operation has programmed is a page that nothing names. -/
def State.unsealLast (s : State) (b : BerthId) : Option State :=
  match s.log.recs.getLast? with
  | some r =>
    if r.owner = some b ∧ ¬(r.durA ∧ r.durB) then
      let cps := s.log.cps.filter fun c => s.ownSeq c.seq != r.seq
      let s := { s with
        log := { s.log with
          recs := s.log.recs.dropLast
          next := s.log.next - 1
          cps := cps
          lastCp := if cps.length = s.log.cps.length then s.log.lastCp else ((cps.getLast?).map CpRef.seq).getD 0 }
        dies := s.dies.filter fun o => match o.kind with
          | .logCopy q _ => q != r.seq
          | _ => true }
      some (if r.cost = 0 then s else s.creditItem .sealed r.cost)
    else none
  | none => none

/-- A CHECKPT whose signature is still being formed is taken back. -/
def State.unsign (s : State) (b : BerthId) : State :=
  let mine := s.log.signing.filter fun c => c.owner == some b
  let s := { s with log := { s.log with signing := s.log.signing.filter fun c => c.owner != some b } }
  mine.foldl (fun s c => if c.cost = 0 then s else s.creditItem .sealed c.cost) s

/-- The programs of this berth's counter step that are still to come: counter, value, mirror, cost. -/
def State.stepsOf (s : State) (b : BerthId) : List (Fin 32 × W64 × Bool × Nat) :=
  s.dies.filterMap fun o => match o.kind with
    | .ctrMirror n v mb w cost => if w = some b then some (n, v, mb, cost) else none
    | _ => none

/-- A counter step of this berth that no later step follows is taken back: its programs go, and a mirror that has its value
takes that of the other again. -/
def State.unstep (s : State) (b : BerthId) : State :=
  match s.stepsOf b with
  | (n, v, mb, cost) :: rest =>
    if s.steppedValue n = v then
      let s := { s with dies := s.dies.filter fun o => match o.kind with
        | .ctrMirror _ _ _ w _ => w != some b
        | _ => true }
      let x := s.counter n
      let back := if mb then { x with a := x.a.bind fun _ => x.b } else { x with b := x.b.bind fun _ => x.a }
      let s := if rest.isEmpty then s.setCounter n back else s
      if cost = 0 then s else s.creditItem .sealed cost
    else s
  | [] => s

/-- Whether the instruction in progress of a berth can end before it has changed the logbook or a counter (R150). A SEAL,
CTRINC or CHECKPT that waits for its record or its step no longer can once a later record or step rests on its own, or once
both copies hold it (log 63). -/
def State.takesBack (s : State) (b : BerthId) (c : Cur) : Bool :=
  let newest := match s.log.recs.getLast? with
    | some r => r.owner == some b && !(r.durA && r.durB)
    | none => false
  let none' := !s.log.recs.any fun r => r.owner == some b
  let step := (s.stepsOf b).any fun p => s.steppedValue p.1 == p.2.1
  let single := !(s.ctr.liveA && s.ctr.liveB)
  if c.phase ≠ .durable then true
  else match c.ins.op.toNat with
    | 0x40 => newest
    | 0x42 => newest || s.log.signing.any fun x => x.owner == some b
    | 0x48 => step && (newest || none') && (!single || (s.stepsOf b).length == 1)
    | _ => true

/-- The gate opens again (R229, R230): accesses that waited are checked anew; a GUARD or APPLY that waits closes it
next, in arrival order, from State.settle. -/
def State.openGate (s : State) : State :=
  let s := { s with grd := { s.grd with gate := none } }
  allBerths.foldl (fun s b => match (s.berth b).cur with
    | some c => if c.phase = .gate ∧ ¬c.admitted then
        (s.modBerth b fun x => { x with cur := none, why := .none }).rest b
      else s
    | none => s) s

/-- Whether a berth's instruction has closed the gate. -/
def State.ownsGate (s : State) (b : BerthId) : Bool := match s.grd.gate with
  | some g => g.owner == b
  | none => false

/-- Held berths go on. -/
def State.freeBerths (s : State) : State :=
  allBerths.foldl (fun s b => if (s.berth b).state = .quiesced then s.rest b else s) s

/-- The release sequence begins (step 1 of Table HUP-7). -/
def State.startRelease (s : State) : State :=
  { s.refuseReq 7 with hup := { s.hup with release := .pending, pressLatched := false } }.raiseEvent 2 0 none

/-- QUIESCE is over: every quiesced function restarts; a press that counted meanwhile starts its release (R466, R467). -/
def State.leaveQuiesce (s : State) : State :=
  let s := { s with scr := Scr.init }.freeBerths
  if s.hup.pressLatched then s.startRelease else s

/-- What an instruction in progress has under way and has not finished is withdrawn: its piece, its waits, its changes
that are not durable, its sub-instructions, its gate. -/
def State.withdrawCur (s : State) (b : BerthId) (c : Cur) : State :=
  let op := c.ins.op.toNat
  let s := s.leaveLedger b
  let write := op == 0x21 || op == 0x22 || (op == 0x23 && (c.phase == .data || c.phase == .cascade))
  let s := if write then s.releasePiece c else s
  let inLedger := c.phase == .gate && c.admitted || c.phase == .drain && (op == 0x61 || op == 0x67)
  let s := if inLedger ∧ ¬c.writeThrough then s.creditItem .commit commitCost else s
  let s := if s.ownsGate b then s.openGate else s
  let s := if op = 0x66 then s.leaveQuiesce else s
  let s := s.withdraw fun ch => ch.owner == some b
  let s := (s.unstep b).unsign b
  let s := (s.unsealLast b).getD s
  let s := (s.disown b)
  { s with
    dies := s.dies.filter fun o => match o.kind with
      | .read w => w != b
      | _ => true
    quy := { s.quy with out := s.quy.out.filter fun o => o.berth != b } }

/-- DONE of an instruction that is ended early (R150, R156): the pieces that are whole, without those that run write-through
and are withdrawn, or, of a READ, the blocks that left (log 129). -/
def State.abortDone (s : State) (b : BerthId) (c : Cur) : Nat :=
  if c.ins.op = 0x20 ∧ c.phase = .upPath then
    let size := s.blockSize c.region
    let left := (s.readEnd c).upTo - (c.acc.length + size - 1) / size
    ((List.range left).filter fun i => allowedAt c.parts i).length
  else c.done - ((s.openChanges fun ch => ch.owner == some b).map Change.blocks).sum

/-- What V[DST] takes when an instruction is ended early (Table TZ-8, log 129): DONE, or the first position of an
APPEND. -/
def State.abortResult (s : State) (b : BerthId) (c : Cur) : Option W64 :=
  if c.ins.op = 0x20 ∨ c.ins.op = 0x21 ∨ c.ins.op = 0x23 then some (BitVec.ofNat 64 (s.abortDone b c))
  else if c.ins.op = 0x22 ∧ 0 < c.done then some (BitVec.ofNat 64 c.start)
  else none

/-- The instruction in progress completes with a status of its own, keeping the pieces that are whole (R150). -/
def State.abortCur (s : State) (b : BerthId) (st : Status) : State :=
  match (s.berth b).cur with
  | some c => (s.withdrawCur b c).finish b c.ins st (s.abortDone b c) none (s.abortResult b c)
  | none => s

end Sys2Proof.Machine
end

