-- ==== Sys2Proof/Machine/AdminOps.lean ====
section
/-! DEFINITION. The administration instructions but APPLY (R207 to R212, Table TZ-11). -/

namespace Sys2Proof.Machine

/-! ### Passwords (R221, R223) -/

/-- Password entry is blocked. -/
def State.entryBlocked (s : State) : Bool := 5 ≤ s.grd.tries

/-- A 16-byte key from two key words (Table TZ-3). -/
def QInstr.key (q : QInstr) : List Byte := leBytes 8 (q.extWord 0).toNat ++ leBytes 8 (q.extWord 1).toNat

/-- A password is entered: a right one clears the count, a wrong one counts, and at 5 entry is blocked and the
lock-change record sealed (R223, Table LOG-4). -/
def State.tryPassword (s : State) (b : BerthId) (p : Password) (key : List Byte) : Bool × State :=
  if Config.passwordMac p.salt key = p.mac then (true, { s with grd := { s.grd with tries := 0 } })
  else
    let s := { s with grd := { s.grd with tries := s.grd.tries + 1 } }
    let st := bits s.grd.lock.val 0 2
    (false, if s.entryBlocked then s.lockRecord st st 0 b else s)

/-- What is kept of a new password: a fresh salt and the salted HMAC (R221). -/
def State.newPassword (s : State) (key : List Byte) : Password × State :=
  let (n, s) := s.draw
  ({ salt := Config.freeWord n, mac := Config.passwordMac (Config.freeWord n) key }, s)

/-! ### SESSION (R208, R220 to R224) -/

def State.openColour (s : State) (b : BerthId) (colour : Nat) : State :=
  s.modBerth b fun x => { x with session := { x.session with set := setBit x.session.set colour } }

/-- MODE 2 and 3: colour 0 never leaves a session. -/
def State.closeColours (s : State) (b : BerthId) (all : Bool) (colour : Nat) : State :=
  s.modBerth b fun x => { x with session := { x.session with
    set := if all then 1 else clearBit x.session.set colour ||| 1 } }

/-- Whether colour c of 8-15 has a provisioned key. -/
def colourKeyed (c : Nat) : Bool := bit Config.colourKeyMask (c - 8)

/-- The bytes that a response answers (R222). -/
def responseText (chal : W64) (colour : Nat) : List Byte :=
  leBytes 8 chal.toNat ++ leBytes 8 Config.serial.toNat ++ [BitVec.ofNat 8 colour]

/-- A response to the berth's challenge, which it spends (R208). For a colour without a provisioned key it is BAD_PASSWORD
(R221), and no wrong response that counts or starts a pause (log 146). -/
def State.judgeResponse (s : State) (b : BerthId) (q : QInstr) (colour : Nat) (resp : List Byte) : State :=
  match (s.berth b).session.chal with
  | none => s.finish b q .wrongState
  | some chal =>
    let s := s.modBerth b fun x => { x with session := { x.session with chal := none } }
    if !colourKeyed colour then s.finish b q .badPassword
    else if resp = hmac (Config.colourKey colour) (responseText chal colour) then (s.openColour b colour).finish b q .ok
    else
      let s := { s with grd := { s.grd with hmacFail := satInc s.grd.hmacFail } }
      (s.modBerth b fun x => { x with session := { x.session with pause := 64 } }).finish b q .badPassword

/-- A response comes in data parcels. One that is refused is consumed and discarded. -/
def State.sessionData (s : State) (b : BerthId) : State :=
  match (s.berth b).cur with
  | none => s
  | some c =>
    match State.gather ((s.berth b).chunks.length + 33) b 32 32 s with
    | (.more, s) => match (s.berth b).cur with
      | some c => s.waitFor b .data { c with phase := .data }
      | none => s
    | (.bad, s) => s.finish b c.ins (if c.denied then c.status else .badField)
    | (.got d, s) => if c.denied then s.finish b c.ins c.status else s.judgeResponse b c.ins (c.ins.imm 0 4) d

/-- A response that is refused: a stream berth's parcels find no instruction (R155); a resident berth takes them first
(log 31). -/
def State.sessionRefuse (s : State) (b : BerthId) (q : QInstr) (st : Status) (parcels : Bool) : State :=
  if parcels ∧ (s.berth b).kind then
    (s.modBerth b fun x => { x with cur := some { Cur.init q .data with denied := true, status := st } }).sessionData b
  else s.finish b q st

/-- MODE 0 on a colour of 1-7. -/
def State.sessionPassword (s : State) (b : BerthId) (q : QInstr) (colour : Nat) : State :=
  match s.grd.colourPw.getD colour none with
  | none => s.finish b q .badPassword
  | some p =>
    if s.entryBlocked then s.finish b q .entryBlocked
    else
      let (ok, s) := s.tryPassword b p q.key
      if ok then (s.openColour b colour).finish b q .ok else s.finish b q .badPassword

/-- MODE 0 on a colour of 8-15. -/
def State.sessionResponse (s : State) (b : BerthId) (q : QInstr) (colour : Nat) : State :=
  let scr := q.xc == 1
  let off := bits (q.extWord 0) 0 18
  if scr && (!scratchWordOk (q.extWord 0) || (s.berth b).misfit (some off) 32) then s.finish b q .badField
  else if (s.berth b).session.chal.isNone then s.sessionRefuse b q .wrongState !scr
  else if scr then
    s.spanned b q (some off) 32 fun s => match s.scratchData b (some off) 32 with
      | (none, s) => s.finish b q .memUncorrectable
      | (some d, s) => s.judgeResponse b q colour d
  else (s.modBerth b fun x => { x with cur := some (Cur.init q .data) }).sessionData b

/-- A challenge is given (R208). -/
def State.giveChallenge (s : State) (b : BerthId) (q : QInstr) : State :=
  let (n, s) := s.draw
  let c := Config.freeWord n
  (s.modBerth b fun x => { x with session := { x.session with chal := some c } }).finish b q .ok 0 none (some c)

/-- SESSION: XC and DST are used only where the mode and the colour need them (R171). -/
def State.sessionBody (s : State) (b : BerthId) (q : QInstr) : State :=
  let colour := q.imm 0 4
  let xcOk := if q.mode ≠ 0 ∨ colour = 0 then q.xc == 0 else if colour < 8 then q.xc == 2 else q.xc ≤ 1
  let fs := [fSrcB, fXc, (0, 4)] ++ (if q.mode = 1 then [fDst] else [])
  s.checked b q (q.mode ≤ 3 && q.only fs && xcOk) fun s =>
    match q.mode with
    | 0 =>
      if colour = 0 then s.finish b q .ok
      else if colour < 8 then s.sessionPassword b q colour
      else s.sessionResponse b q colour
    | 1 =>
      if (s.berth b).session.pause = 0 then s.giveChallenge b q
      else s.waitFor b .waitt (Cur.init q .challenge)
    | m => (s.closeColours b (m == 3) colour).finish b q .ok

/-! ### The guard gate (R229, R230) -/

/-- Instructions that the guard checks against a region: data, region, LOGREAD. -/
def gatedOp (op : Nat) : Bool := (0x20 ≤ op && op ≤ 0x24) || (0x30 ≤ op && op ≤ 0x35) || op == 0x41

/-- An access already checked with a part in one of the regions (R229). -/
def Cur.inFlight (c : Cur) (regions : W64) : Bool :=
  let op := c.ins.op.toNat
  gatedOp op && c.phase != .gate &&
    (bit regions c.region || ((op == 0x23 || op == 0x34) && bit regions c.region2))

/-- The in-flight set of the gate is empty. -/
def State.gateDrained (s : State) (regions : W64) : Bool :=
  s.berths.toList.all fun x => match x.cur with
    | some c => !c.inFlight regions
    | none => true

/-- A GUARD or an APPLY closes the gate for its regions, kept in `acc` by APPLY and in the guard word by GUARD. -/
def State.closeGate (s : State) (b : BerthId) (c : Cur) (regions : W64) : State :=
  let s := { s with grd := { s.grd with gate := some { regions := regions, owner := b, tidesLeft := 1 } } }
  s.modBerth b fun x => { x with state := .running, why := .none, cur := some { c with phase := .drain } }

/-- One that finds the gate closed waits, in arrival order (R229). -/
def State.awaitGate (s : State) (b : BerthId) (c : Cur) : State :=
  let s := s.waitFor b .gate { c with phase := .gate, admitted := true, target := s.rng.stamp }
  { s with rng := { s.rng with stamp := s.rng.stamp + 1 } }

/-- Closes the gate, or waits for it. -/
def State.takeGate (s : State) (b : BerthId) (c : Cur) (regions : W64) : State :=
  if s.grd.gate.isSome then s.awaitGate b c else s.closeGate b c regions

/-- The change of a GUARD or an APPLY: covered, it needs no owner for its energy; `wait` says whether the instruction
waits for its durability. -/
def State.gateCommit (s : State) (b : BerthId) (c : Cur) (wait : Bool) (units : List Nat) (after : List After) : State :=
  let covered := !c.writeThrough
  let wait := wait || !covered
  let (n, s) := s.retag.nextStamp
  let s := s.addChange { commitOf (if wait then some b else none) covered units after with stamp := n }
  let s := if s.ownsGate b then s.openGate else s
  if wait then s.untilDurable b c 1 else s.finish b c.ins c.status c.done c.first c.result

/-- The gate's owner gives up, and the old rules stay. -/
def State.gateFail (s : State) (b : BerthId) (c : Cur) (st : Status) (first : Option Nat) : State :=
  let s := if c.writeThrough then s else s.creditItem .commit commitCost
  (if s.ownsGate b then s.openGate else s).finish b c.ins st 0 first none

/-! ### GUARD (R228 to R231) -/

def guardRegion (q : QInstr) : Nat := bits (q.extWord 0) 0 6
def guardColour (q : QInstr) : Nat := bits (q.extWord 0) 8 4
def guardRo (q : QInstr) : Bool := bit (q.extWord 0) 12

/-- What refuses a GUARD (R228). -/
def State.guardRefusal (s : State) (b : BerthId) (q : QInstr) : Option Status :=
  let r := guardRegion q
  if s.rtype r = .undefined ∨ s.regionFenced r ∨ (r = 0 ∧ guardRo q) then some .badRegion
  else if !(s.berth b).has (s.region r).colour || !(s.berth b).has (guardColour q) then some .badField
  else none

/-- GUARD is admitted. -/
def State.guardGo (s : State) (b : BerthId) (covered : Bool) : State :=
  match (s.berth b).cur with
  | none => s
  | some c => s.takeGate b { c with writeThrough := !covered } (BitVec.ofNat 64 (2 ^ guardRegion c.ins))

/-- The in-flight set is empty: the new entry is installed with its complement (R230). -/
def State.guardInstall (s : State) (b : BerthId) (c : Cur) : State :=
  match s.guardRefusal b c.ins with
  | some st => s.gateFail b c st none
  | none =>
    let r := guardRegion c.ins
    let x := s.region r
    let old := x.cfg.val
    let new := (old &&& ~~~(0xF8 : W32)) ||| word [(guardColour c.ins, 4), ((guardRo c.ins).toNat, 3)]
    let before : OldCfg := { regions := [(r, x, s.ring r)], holds := [], counters := [], colourPw := s.grd.colourPw,
                             pwSel := s.grd.pwSel,
                             map := s.quy.map }
    let s := (s.setRegion r { x with cfg := Pair.mk' new }).guardRecord r old new 0 b
    s.gateCommit b c false [] [.restore before]

def State.guardBody (s : State) (b : BerthId) (q : QInstr) : State :=
  let w := q.extWord 0
  s.checked b q (q.only [fXc] && q.xc == 1 && bits w 6 2 == 0 && bits w 13 51 == 0) fun s =>
    let s := s.checkEntry (guardRegion q)
    match s.guardRefusal b q with
    | some st => s.finish b q st
    | none => s.onFlash b q fun s => s.askCommit b (Cur.init q .ledger) fun cov s => s.guardGo b cov

/-! ### LOCK and UNLOCK (R236 to R239, Table REGION-6) -/

/-- What refuses LOCK or UNLOCK before its key is looked at. -/
def State.lockRefusal (s : State) (q : QInstr) : Option Status :=
  let st := bits s.grd.lock.val 0 2
  let lock := q.op == 0x62
  if q.key.all (· == 0) then some .badField
  else if st = 2 ∨ (lock ∧ st = 1) ∨ (¬lock ∧ s.grd.password.isNone) then some .wrongState
  else if s.entryBlocked then some .entryBlocked
  else none

/-- LOCK or UNLOCK is admitted: the key decides; the change takes effect when it is durable (R238). -/
def State.lockGo (s : State) (b : BerthId) (covered : Bool) : State :=
  match (s.berth b).cur with
  | none => s
  | some c =>
    let q := c.ins
    let lock := q.op == 0x62
    let go := fun (s : State) (st : BitVec 2) (pw : PwChange) =>
      (s.addChange (commitOf (some b) covered [] [.lock b st pw])).untilDurable b c 1
    match s.lockRefusal q with
    | some st => s.commitFail b q covered st
    | none => match s.grd.password with
      | none =>
        let (p, s) := s.newPassword q.key
        go s 1 (.store p)
      | some p =>
        let (ok, s) := s.tryPassword b p q.key
        if !ok then s.commitFail b q covered .badPassword
        else if lock then go s 1 .keep
        else if bits s.grd.lock.val 0 2 = 1 then go s 0 .keep
        else go s 0 .remove

/-- LOCK and UNLOCK up to the ledger. -/
def State.lockBody (s : State) (b : BerthId) (q : QInstr) : State :=
  s.checked b q (q.only [fXc] && q.xc == 2) fun s =>
    match s.lockRefusal q with
    | some st => s.finish b q st
    | none => s.onFlash b q fun s => s.askCommit b (Cur.init q .ledger) fun cov s => s.lockGo b cov

/-! ### FERASE (R241 to R243, Table REGION-7) -/

/-- FERASE is admitted: covered, step 1 takes effect now; otherwise when its journal entry is programmed. -/
def State.feraseGo (s : State) (b : BerthId) (covered : Bool) : State :=
  match (s.berth b).cur with
  | none => s
  | some c =>
    if s.scr.active || s.scr.draining then s.commitFail b c.ins covered .wrongState
    else
      let s := s.waitFor b .die { c with phase := .erase }
      let s := if covered then s.eraseStart b else s
      s.addChange (commitOf (if covered then none else some b) covered [] [.ferase b])

def State.feraseBody (s : State) (b : BerthId) (q : QInstr) : State :=
  s.checked b q (q.only [fXc] && q.xc == 1 && q.extWord 0 == 0x46455241) fun s =>
    if s.scr.active || s.scr.draining then s.finish b q .wrongState
    else s.onFlash b q fun s => s.askCommit b (Cur.init q .ledger) fun cov s => s.feraseGo b cov

/-- Step 4 of Table REGION-7 ends on this controller: everything outside the logbook, its map and the counters is erased, and
new keys are drawn. -/
def State.eraseLocal (s : State) (seconds : W32) : State :=
  let (n, s) := s.draw
  let data := (s.ftl.rows.filter fun (r : Row) => r.cls == .tlc || r.cls == .seedbed).map Row.id
  let s := { s with
    grd := { s.grd with erasePct := 100, eraseDone := setBit s.grd.eraseDone s.position, eraseSecs := seconds }
    rgn := Vector.ofFn fun i => if i.val = 0 ∨ rtypeOf s.rgn[i].cfg.val = RType.undefined then s.rgn[i]
      else { s.rgn[i] with key := some (Config.freeKey (n + i.val)) }
    freeCtr := s.freeCtr + 64
    store := []
    dies := s.dies.filter fun o => match o.kind with
      | .program _ | .relocate _ | .transplant _ | .copyRow .. | .eraseRow _ | .weedCopy .. | .weedErase .. => false
      | _ => true
    ftl := { s.ftl with stale := [], dirty := [], weeds := 0, weedRows := 0 } }
  s.freeRows data

/-- A sub-instruction of the master stands for steps 3 and 4 on a member. -/
def State.erasePart (s : State) (o : SubOut) : Bool :=
  o.berth == berthOf s.grd.eraseBerth.toNat && (match (s.berth o.berth).cur with
    | some c => c.phase == .erase
    | none => true)

/-- Steps 5 and 6, once step 4 has ended on every controller of the cascade: the card is unlocked without a password, the
record sealed, FERASE completes. After a removal only the status block reports it (R243). -/
def State.eraseEnd (s : State) : State :=
  if bits s.grd.lock.val 0 2 ≠ 2 ∨ s.grd.erasePct ≠ 100 ∨ s.quy.out.any s.erasePart then s
  else
    let b := berthOf s.grd.eraseBerth.toNat
    let had := s.grd.password.isSome
    let s := { s with grd := { s.grd with tries := 0, eraseKeysDone := false } }
    let s := s.lockChange b 0 (if had then .remove else .keep)
    let t := s.sealCard 0x21 (leBytes 4 s.grd.eraseSecs.toNat ++ [BitVec.ofNat 8 s.grd.eraseResumed.toNat, 0, 0, 0])
    match (t.berth b).cur with
    | some c => if c.phase = .erase then t.finish b c.ins .ok else t
    | none =>
      if s.grd.eraseResumed then
        t.modBerth b fun x =>
          let x := { x with cseq := x.cseq + 1 }
          x.record (x.completion .ok 0x64 0 none 0) s.grd.eraseTag
      else t

/-! ### HEALTH (R327, Table MEDIA-6) -/

/-- Positions present, fenced ones included. -/
def State.healthPositions (s : State) : List Nat :=
  (List.range 4).filter fun p => p == s.position || bit s.quy.present p || bit s.quy.lost p

/-- Over-provisioning above the floor of 153.6 GB, in MiB (Tables ARCH-8 and MEDIA-4). -/
def opMib : Nat := 573270

/-- User capacity of one controller in MiB (R215). -/
def userMib : Nat := 14648437

def leSat (n v : Nat) : List Byte := leBytes n (min v (2 ^ (8 * n) - 1))

/-- Mean and highest P/E count over the blocks that stand in some classes (Table MEDIA-6); a mean between two counts rounds
freely (log 47). -/
def State.wearOf (s : State) (cs : List RowClass) : List Byte :=
  let es := ((s.ftl.rows.filter fun r => cs.contains r.cls).flatMap Row.blocks).map s.ftl.erases
  let up := es.sum % max 1 es.length != 0 && Config.roundUpPct es.sum es.length
  leSat 4 (es.sum / max 1 es.length + up.toNat) ++ leSat 4 (es.foldl max 0)

/-- Bytes 0x00-0xFD of this controller's block. The blocks in reserve are free (log 33); a figure that nothing has measured
yet reads 0 (log 68). -/
def State.healthBody (s : State) (n : Nat) : List Byte :=
  let h := s.ftl.health
  let sp := (List.range 4).flatMap fun i => leSat 2 (s.setSpares i)
  let low := s.pruneRes
  [BitVec.ofNat 8 s.position, 0, 0, 0] ++ sp ++ leSat 2 s.fencedSpares ++
  leBytes 2 (Config.freeWord n).toNat ++ leSat 2 s.log.spare ++ [0, 0] ++
  s.wearOf [.tlc] ++ s.wearOf [.seedbed] ++ leSat 4 s.log.wearMean.toNat ++ leSat 4 s.log.wearMax.toNat ++
  s.wearOf [.map, .journal] ++
  leSat 8 h.hard ++ leSat 8 h.soft ++ leSat 8 h.rebuilt ++ leSat 8 h.lost ++ leSat 8 h.eraseFail ++
  leSat 8 h.programFail ++ leSat 8 h.retired ++ leSat 8 h.refreshed ++
  (h.tempBins.toList.flatMap fun t => leSat 4 (t / 60)) ++
  leBytes 2 (h.tempLow.getD 0).toNat ++ leBytes 2 (h.tempHigh.getD 0).toNat ++ leBytes 4 h.capLast.toNat ++ leBytes 4 h.capLow.toNat ++
  leBytes 4 (h.euLow.getD 0).toNat ++ leSat 4 h.waits ++ leSat 4 h.wt ++ leSat 4 h.clean ++ leSat 4 h.unclean ++
  leBytes 8 h.passEnd.toNat ++ leSat 4 h.passes ++
  leSat 4 (userMib - (s.ftl.lostMib - opMib)) ++ leSat 4 (opMib - s.ftl.lostMib) ++
  [BitVec.ofNat 8 (s.ftl.exhausted.toNat + 2 * low.toNat)] ++ zeros 21

/-- A block and its CRC-16. -/
def healthBlock (body : List Byte) : List Byte := body ++ leBytes 2 (crc16 body).toNat

def fencedBlock (p : Nat) : List Byte := healthBlock ([BitVec.ofNat 8 p, 1] ++ zeros 252)

/-- A member's block has come over the quay (R450). -/
def State.healthAnswered (s : State) (b : BerthId) (p : Nat) (payload : List Byte) : State :=
  match (s.berth b).cur with
  | none => s
  | some c =>
    let i := (s.healthPositions.filter (· < p)).length
    let c : Cur := { c with acc := splice c.acc (16 + 256 * i) (slice payload 0 256), open_ := c.open_ - 1 }
    if c.open_ = 0 then s.deliver b c else s.modBerth b fun x => { x with cur := some c }

def State.healthTurn (s : State) (b : BerthId) (q : QInstr) : State :=
  let ps := s.healthPositions
  let len := 16 + 256 * ps.length
  let scr := q.xc == 1
  let off := bits (q.extWord 0) 0 18
  let place := if scr then some off else none
  s.checked b q (q.only [fDst, fXc] && q.xc ≤ 1 && (!scr || scratchWordOk (q.extWord 0)) && !(s.berth b).misfit place len)
    fun s => s.spanned b q place len fun s =>
      let s := s.elapse
      let (n, s) := s.draw
      let s := { s with freeCtr := s.freeCtr + 8 }
      let head := [1, BitVec.ofNat 8 ps.length] ++ leBytes 2 len ++ leBytes 8 s.now.toNat ++
        leBytes 2 s.tim.qual.toNat ++ [0, 0]
      let blk := fun p => if p = s.position then healthBlock (s.healthBody n)
        else if bit s.quy.lost p then fencedBlock p else zeros 256
      let out := (ps.filter fun p => p != s.position && !bit s.quy.lost p).map (Fin.ofNat 4)
      let c := { Cur.init q .cascade with acc := head ++ ps.flatMap blk, scratch := place, open_ := out.length,
                                          result := some (BitVec.ofNat 64 len) }
      if out.isEmpty then s.deliver b c else (s.waitFor b .cascade c).delegate b out

/-! ### QUIESCE and RESUME (R209, R465 to R467) -/

/-- READY berths that QUIESCE covers are held. -/
def State.holdBerths (s : State) : State :=
  allBerths.foldl (fun s b => if (s.berth b).state = .ready ∧ s.quiesces b then s.rest b else s) s

/-- Die work that bit 2 of QUIESCE stops: pruning, transplanting and patrol. -/
def DieKind.background : DieKind → Bool
  | .transplant _ | .copyRow .. | .eraseRow _ | .patrol => true
  | _ => false

/-- Every function that QUIESCE names is at rest. -/
def State.quiesceDrained (s : State) : Bool :=
  (!bit s.scr.bits 0 || s.lnk.mode == .narrow || (s.lnk.mode != .training && s.lnk.replayBuf.isEmpty)) &&
  (!bit s.scr.bits 1 || allBerths.all fun b => b.val < 8 || (s.berth b).cur.isNone) &&
  (!bit s.scr.bits 2 || s.dies.all fun o => !o.kind.background) &&
  (!bit s.scr.bits 3 || s.quy.out.isEmpty)

/-- QUIESCE completes: its functions are in force. -/
def State.quiesceDone (s : State) : State :=
  let b := s.scr.owner
  let s := { s with scr := { s.scr with active := true, draining := false } }
  -- With bit 0 the link leaves lane mode for narrow mode (R137).
  let s := if bit s.scr.bits 0 ∧ s.lnk.mode ≠ .narrow then s.leaveLane else s
  s.finishCur b .ok 0 none none

def State.quiesceBody (s : State) (b : BerthId) (q : QInstr) : State :=
  s.checked b q (q.only [(0, 4), (8, 16)]) fun s =>
    if s.scr.active || s.scr.draining then s.finish b q .wrongState
    else
      let t := q.imm 8 16
      let s := { s with scr := { bits := BitVec.ofNat 8 (q.imm 0 4), active := false, draining := true, owner := b,
                                 tidesLeft := if t = 0 then 64 else t } }
      (s.modBerth b fun x => { x with state := .running, cur := some (Cur.init q .drain) }).holdBerths

/-- RESUME: every quiesced function restarts; a press that counted meanwhile starts its release (R466, R467). -/
def State.resumeBody (s : State) (b : BerthId) (q : QInstr) : State :=
  s.checked b q (q.only []) fun s =>
    if !s.scr.active then s.finish b q .wrongState
    else
      s.leaveQuiesce.finish b q .ok

/-! ### PATCH (R212, R437) -/

/-- The even-parity bits of a microword, bit g for bits 24g to 24g + 23 (R433). -/
def microParity (w : BitVec 96) : BitVec 4 :=
  BitVec.ofNat 4 (((List.range 4).map fun g =>
    ((List.range 24).filter fun i => w.getLsbD (24 * g + i)).length % 2 * 2 ^ g).sum)

/-- A word as it is written, with parity (R437). -/
def MicroWord.of (w : BitVec 96) : MicroWord := { data := w, parity := microParity w }

/-- The check of every fetch (R433). -/
def MicroWord.ok (w : MicroWord) : Bool := w.parity == microParity w.data

/-- The clocks that a microword is held for: its cycle field, bits [95:94], plus 1 (R434). -/
def MicroWord.clocks (w : MicroWord) : Nat := (w.data.extractLsb' 94 2).toNat + 1

/-- The word of patch RAM that serves a fetch from a control-store address: that of an enabled match register which holds it (R436).
Any other fetch is served from ROM. A dispatch, to entry OP of the table (R434), is matched as a fetch from its target. -/
def Ucs.served (u : Ucs) (addr : W16) : Option MicroWord :=
  match u.matches_.toList.findSome? fun m => match m with
    | some (a, r) => if a = addr then some r else none
    | none => none with
  | some r => u.patchRam[r.toNat]?
  | none => none

/-- A patch replaces the present one whole. -/
def State.applyPatch (s : State) (blob : List Byte) : State :=
  let ms := Config.patchMatches blob
  let id := Config.patchIdentity blob
  let s := { s with ucs := { s.ucs with
    patchRam := ((Config.patchWords blob).take 256).map MicroWord.of
    matches_ := Vector.ofFn fun i => ms[i.val]?
    patchState := 1
    patchId := id } }
  let s := s.sealCard 0x52 (leBytes 4 id.toNat)
  { s with ucs := { s.ucs with stored := some blob } }

/-- What a blob must hold (R437). -/
def patchOk (blob : List Byte) : Bool :=
  Config.patchSignatureOk blob && Config.patchSiliconRev blob == Config.siliconRev && Config.patchFirmwareFits blob

def State.patchWith (s : State) (b : BerthId) (q : QInstr) (blob : List Byte) : State :=
  if patchOk blob then (s.applyPatch blob).finish b q .ok else s.finish b q .badSignature

/-- PATCH takes its blob from data parcels. -/
def State.patchData (s : State) (b : BerthId) : State :=
  match (s.berth b).cur with
  | none => s
  | some c =>
    match State.gather ((s.berth b).chunks.length + c.len + 1) b c.len c.len s with
    | (.more, s) => match (s.berth b).cur with
      | some c => s.waitFor b .data { c with phase := .data }
      | none => s
    | (.bad, s) => s.finish b c.ins .badField
    | (.got d, s) => s.patchWith b c.ins d

def State.patchBody (s : State) (b : BerthId) (q : QInstr) : State :=
  let len := q.imm 0 20
  let scr := q.xc == 1
  let off := bits (q.extWord 0) 0 18
  let ok := q.only [fXc, (0, 20)] && q.xc ≤ 1 && 0 < len && len ≤ 8192 &&
    (!scr || (scratchWordOk (q.extWord 0) && !(s.berth b).misfit (some off) len))
  s.checked b q ok fun s =>
    if !(s.scr.active && bit s.scr.bits 1) then s.finish b q .wrongState
    else s.spanned b q (if scr then some off else none) len fun s =>
      if scr then
        match s.scratchData b (some off) len with
        | (none, s) => s.finish b q .memUncorrectable
        | (some d, s) => s.patchWith b q d
      else (s.modBerth b fun x => { x with cur := some { Cur.init q .data with len := len } }).patchData b

/-! ### HALTCTL (R212, R419) -/

/-- HALTCTL: MODE 0 names the last halt record; MODE 1 halts the controller, and completes with HALTED as everything in
progress does. -/
def State.haltctlBody (s : State) (b : BerthId) (q : QInstr) : State :=
  let ok := if q.modeBit 0 then q.only [(40, 1), (0, 32)] && q.imm 0 32 == 0x48414C54 else q.only [fDst]
  s.checked b q ok fun s =>
    if q.modeBit 0 then
      (s.modBerth b fun x => { x with state := .running, cur := some (Cur.init q .die) }).haltEntry 0xFF
    else s.finish b q .ok 0 none (some (match s.flt.haltSeq with
      | some n => s.ownSeq n
      | none => BitVec.allOnes 64))

end Sys2Proof.Machine
end

