-- ==== Sys2Proof/Machine/Apply.lean ====
section
/-! DEFINITION. APPLY (R210, R217 to R219, R221, R262, R264, R295, R441, R465; Tables REGION-2, RING-5 and COMB-4). -/

namespace Sys2Proof.Machine

/-! ### Entries -/

/-- The settings that change through APPLY (Table COMB-4). -/
inductive Setting where
  | cfg (n : Fin 64) | siz (n : Fin 64) | ringCfg (n : Fin 64)
  | pwSel | pwd (i : Fin 4) | ctr (n : Fin 32) | map
  deriving DecidableEq, Repr

/-- The setting at an address; none elsewhere, and at an unaligned address. -/
def settingAt (a : Nat) : Option Setting :=
  if a % 4 ≠ 0 then none
  else if 0x1400 ≤ a ∧ a < 0x1600 then
    let n := Fin.ofNat 64 ((a - 0x1400) / 8)
    some (if a % 8 = 0 then .cfg n else .siz n)
  else if 0x1804 ≤ a ∧ a < 0x1900 then some (.ringCfg (Fin.ofNat 64 ((a - 0x1800) / 4)))
  else if a = 0x1718 then some .pwSel
  else if 0x171C ≤ a ∧ a ≤ 0x1728 then some (.pwd (Fin.ofNat 4 ((a - 0x171C) / 4)))
  else if 0x1E00 ≤ a ∧ a < 0x1E80 then some (.ctr (Fin.ofNat 32 ((a - 0x1E00) / 4)))
  else if a = 0x3804 then some .map
  else none

/-- The bits of a setting's register that are defined (Tables REGION-9, RING-9, LOG-9 and CASC-8). -/
def Setting.mask : Setting → W32
  | .cfg _ => 0xFFFFF
  | .siz _ | .pwd _ => 0xFFFFFFFF
  | .ringCfg _ => 0x7FFFFF
  | .pwSel => 7
  | .ctr _ => 0x7F
  | .map => 0xE

/-- QUIESCE bits that a setting needs whatever it changes (Table COMB-4). -/
def Setting.quiesce : Setting → Nat
  | .map => 0xA
  | _ => 2

/-- The region that an entry names, whose gate APPLY closes (R219). -/
def Setting.region : Setting → Option Nat
  | .cfg n | .siz n | .ringCfg n => some n.val
  | _ => none

/-- One entry: address, value, complement; bytes 2-3 are reserved. -/
structure Entry where
  addr : Nat
  value : W32
  cpl : W32
  deriving DecidableEq, Repr

/-- The entries of a change set. -/
def entriesOf (d : List Byte) (n : Nat) : List Entry :=
  (List.range n).map fun i =>
    let e := slice d (12 * i) 12
    { addr := ofLe (e.take 2), value := BitVec.ofNat 32 (ofLe (slice e 4 4)), cpl := BitVec.ofNat 32 (ofLe (slice e 8 4)) }

/-- The staged set: the last entry for an address stands, and keeps its index (R210). -/
structure Staged where
  setting : Setting
  value : W32
  index : Nat
  deriving DecidableEq, Repr

def stage (es : List Entry) : List Staged :=
  es.zipIdx.foldl (fun acc p => match settingAt p.1.addr with
    | some x => (acc.filter fun (t : Staged) => t.setting != x) ++ [{ setting := x, value := p.1.value &&& x.mask, index := p.2 }]
    | none => acc) []

def stagedValue (st : List Staged) (x : Setting) : Option W32 :=
  (st.find? fun t => t.setting == x).map (·.value)

/-! ### The settings with the staged set in place -/

/-- What the checks look at: the state, the staged set, the berth whose session asks. -/
structure Plan where
  s : State
  staged : List Staged
  berth : BerthId

def Plan.cfg (p : Plan) (n : Nat) : W32 := (stagedValue p.staged (.cfg (Fin.ofNat 64 n))).getD (p.s.region n).cfg.val
def Plan.siz (p : Plan) (n : Nat) : Nat := ((stagedValue p.staged (.siz (Fin.ofNat 64 n))).getD (p.s.region n).siz.val).toNat
/-- RING_CFGn once the set is in place. A ring that is defined without it has the smallest MINSEG, 1 (R248, log 128). -/
def Plan.ringCfg (p : Plan) (n : Nat) : W32 :=
  let kept := (p.s.region n).ringCfg.val
  (stagedValue p.staged (.ringCfg (Fin.ofNat 64 n))).getD
    (if rtypeOf (p.cfg n) = .ring ∧ bits kept 0 16 = 0 then kept ||| 1 else kept)
def Plan.map (p : Plan) : W32 := (stagedValue p.staged .map).getD (p.s.quy.map.val.setWidth 32)
def Plan.typ (p : Plan) (n : Nat) : RType := rtypeOf (p.cfg n)
def Plan.has (p : Plan) (c : Nat) : Bool := (p.s.berth p.berth).has c
def Plan.quiesced (p : Plan) (bits' : Nat) : Bool := p.s.scr.active && p.s.scr.bits.toNat &&& bits' == bits'

/-- Whether a region was defined before. -/
def Plan.old (p : Plan) (n : Nat) : RType := p.s.rtype n

/-- User capacity of the controllers of a cascade map, less what lost members held (R215, R457), in MiB. -/
def State.capacityMib (s : State) (map : Nat) : Nat :=
  let n := 1 + ([1, 2, 3].filter fun p => map.testBit p).length
  let lost := (([1, 2, 3].filter fun p => map.testBit p && bit s.quy.lost p).map fun p =>
    match s.quy.reports.toList.getD p none with
    | some r => r.capacityMib
    | none => userMib).sum
  15360000000000 * n / 1048576 - lost

/-- Capacity given to regions 1-63. -/
def Plan.given (p : Plan) : Nat :=
  (((List.range 64).filter fun n => n != 0 && p.typ n != .undefined).map p.siz).sum

/-- The staged sizes pass what there is (R215). -/
def Plan.overFull (p : Plan) : Bool := p.s.capacityMib p.map.toNat < p.given

/-- RGN_FREE.MIB. -/
def State.rgnFree (s : State) : Nat :=
  let p : Plan := { s := s, staged := [], berth := 0 }
  s.capacityMib s.quy.map.val.toNat - p.given

/-- CODE and BCHT as Table REGION-1 allows them. -/
def codeOk (cfg : W32) : Bool :=
  let code := bits cfg 8 2
  let t := bits cfg 10 6
  match rtypeOf cfg with
  | .ring | .general => code ≤ 1 && t == 0
  | .compat => code == 2 && 2 ≤ t && t ≤ 32
  | _ => code == 0 && t == 0

/-! ### Rings (Table RING-5) -/

/-- Slots of a ring once the set is in place: an existing ring's change with its size. -/
def Plan.slots (p : Plan) (n : Nat) : Nat :=
  if p.old n = .ring then (p.s.ring n).k + p.siz n / 256 - (p.s.region n).mib / 256 else p.siz n / 256

/-- Unheld slots once the set is in place. -/
def Plan.unheld (p : Plan) (n : Nat) : Nat := p.slots n - (if p.old n = .ring then p.s.heldCount n else 0)

def Plan.minSeg (p : Plan) (n : Nat) : Nat := bits (p.ringCfg n) 0 16
def Plan.share (p : Plan) (n : Nat) : Nat := bits (p.ringCfg n) 16 7

/-- Positions of the staged map. -/
def Plan.positions (p : Plan) : List Nat := 0 :: [1, 2, 3].filter fun i => bit p.map i

/-- Rings with pages on a position (R264). -/
def Plan.ringsAt (p : Plan) (pos : Nat) : List Nat :=
  (List.range 64).filter fun n => p.typ n == .ring && (bit (p.cfg n) 16 || bits (p.cfg n) 17 2 == pos)

/-- The seedbed shares hold on every controller (R264). -/
def Plan.sharesOk (p : Plan) : Bool :=
  p.positions.all fun pos =>
    let ids := p.ringsAt pos
    let sum := (ids.map p.share).sum
    let bare := (ids.filter fun n => p.share n == 0).length
    sum ≤ 64 && (bare == 0 || bare ≤ 64 - sum)

/-- Live slots that a decrease may take: neither held, pinned nor the tail's. -/
def State.takable (s : State) (n : Nat) : List Nat :=
  let x := s.ring n
  x.segs.filter fun g => !s.heldSeg n g && !s.pinnedSeg n g && g != x.tailPos / segSize

/-- A ring's size. -/
def Plan.ringSize (p : Plan) (n : Nat) : Option Status :=
  let new := p.siz n
  if new % 256 ≠ 0 then some .badField
  else if p.old n ≠ .ring then
    if new < 512 then some .badField else if p.unheld n - 1 < p.minSeg n then some .belowMinimum else none
  else if new < (p.s.region n).mib then
    if p.unheld n < p.minSeg n + 1 then some .belowMinimum
    else if (p.s.ring n).k ≤ p.slots n + p.s.freeSlots n + (p.s.takable n).length then none
    else some .wrongState
  else none

/-! ### The checks of each setting -/

/-- Fenced so that only its deletion is allowed (Table REGION-2). -/
def Plan.fenced (p : Plan) (n : Nat) : Bool := p.old n != .undefined && p.s.regionFenced n

/-- A ring fenced for a complement mismatch, whose deletion ends its holds (R420). -/
def Plan.deadRing (p : Plan) (n : Nat) : Bool :=
  p.old n == .ring && ((p.s.region n).fenced || (p.s.ring n).mismatch)

/-- The size of a region, new or changed (Tables REGION-2 and RING-5). -/
def Plan.sizeCheck (p : Plan) (n : Nat) : Option Status :=
  let new := p.siz n
  let old := if p.old n = .undefined then 0 else (p.s.region n).mib
  match (if p.typ n = .ring then p.ringSize n else none) with
  | some st => some st
  | none =>
    if old < new ∧ p.overFull then some .mediaExhausted
    else if p.typ n ≠ .ring ∧ new < old then
      let bs := if p.typ n = .compat then 512 else 4096
      let per := if p.typ n = .compat then 8 else 1
      let last := ((p.s.regionKeys n).filter p.s.mapped).map fun k => (k % 2 ^ 60 + 1) * per
      if last.any fun e => new * 1048576 / bs < e then some .range else none
    else none

/-- Placement (Table CASC-3): UNIT changes only by HARVEST; in a cascade a GENERAL or COMPAT region that APPLY defines is
spread; HOME names the master or a position of the map. A change of SPREAD or HOME needs QUIESCE bit 3 (R465). -/
def Plan.placeCheck (p : Plan) (n : Nat) : Option Status :=
  let new := p.cfg n
  let old := if p.old n = .undefined then 0 else (p.s.region n).cfg.val
  let spread := bit new 16
  let home := bits new 17 2
  if bit new 19 ≠ bit old 19 then some .badField
  else if !spread && !p.positions.contains home then some .badField
  else if p.typ n ≠ .ring ∧ p.old n = .undefined ∧ ¬spread ∧ p.map ≠ 0 then some .badField
  else if bits new 16 3 ≠ bits old 16 3 ∧ ¬p.quiesced 0xA then some .wrongState
  else none

/-- Deletion (Table REGION-2). -/
def Plan.deleteCheck (p : Plan) (n : Nat) : Option Status :=
  let hs := p.s.holdsOn n
  let dead := p.deadRing n
  let colours := (p.s.region n).colour :: (if dead then hs.filterMap fun h => h.colour.map BitVec.toNat else [])
  if (!hs.isEmpty && !dead) || p.s.resvs.any (·.names n) then some .wrongState
  else if !colours.all p.has then some .denied
  else none

def Plan.cfgCheck (p : Plan) (n : Nat) : Option Status :=
  let new := p.cfg n
  let old := (p.s.region n).cfg.val
  let colours := [bits old 4 4, bits new 4 4]
  if n = 0 then
    if p.fenced 0 || new &&& ~~~(0xF0 : W32) != old &&& ~~~(0xF0 : W32) then some .badRegion
    else if colours.all p.has then none else some .denied
  else if p.old n = .undefined then
    if p.typ n = .undefined then none
    else if p.typ n = .logbook ∨ p.typ n = .reserved ∨ p.siz n = 0 ∨ ¬codeOk new then some .badRegion
    else match p.sizeCheck n with
      | some st => some st
      | none => if p.typ n = .ring ∧ ¬p.sharesOk then some .mediaExhausted
        else match p.placeCheck n with
          | some st => some st
          | none => if p.has (bits new 4 4) then none else some .denied
  else if p.typ n = .undefined then p.deleteCheck n
  else if p.fenced n || p.typ n != p.old n || !codeOk new then some .badRegion
  else match p.placeCheck n with
    | some st => some st
    | none => if p.typ n = .ring ∧ bits new 16 3 ≠ bits old 16 3 ∧ ¬p.sharesOk then some .mediaExhausted
      else if bits new 3 5 = bits old 3 5 || colours.all p.has then none else some .denied

def Plan.sizCheck (p : Plan) (n : Nat) : Option Status :=
  if n = 0 then (if p.siz 0 = (p.s.region 0).mib ∧ ¬p.fenced 0 then none else some .badRegion)
  else if p.typ n = .undefined || p.fenced n then some .badRegion
  else if p.old n = .undefined then none
  else p.sizeCheck n

def Plan.ringCheck (p : Plan) (n : Nat) : Option Status :=
  if p.typ n ≠ .ring || p.fenced n then some .badRegion
  else if p.minSeg n = 0 then some .badField
  else if (p.old n ≠ .ring ∨ p.minSeg n ≠ p.s.minSeg n) ∧ p.unheld n < p.minSeg n + 1 then some .belowMinimum
  else if (p.old n ≠ .ring ∨ p.share n ≠ p.s.sbShareField n) ∧ !p.sharesOk then some .mediaExhausted
  else none

/-- The password of a set: one GRD_PWSEL with all four GRD_PWDn (R221). -/
def Plan.pwWhole (p : Plan) : Bool := (List.finRange 4).all fun i => (stagedValue p.staged (.pwd i)).isSome

def Plan.pwCheck (p : Plan) (sel : Bool) : Option Status :=
  match stagedValue p.staged .pwSel with
  | none => some .badField
  | some c =>
    let c := c.toNat
    if (sel && !p.pwWhole) || c = 0 then some .badField
    else if (p.s.grd.colourPw.getD c none).isSome && !p.has c then some .denied
    else none

def Plan.ctrCheck (p : Plan) (n : Fin 32) : Option Status :=
  let old := (p.s.counter n).cfg.val
  let new := (stagedValue p.staged (.ctr n)).getD old
  if ctrFrozen old then some .wrongState
  else if (ctrBound old && !p.has (ctrColour old)) || (ctrBound new && !p.has (ctrColour new)) then some .denied
  else none

/-- The cascade map (R441). -/
def Plan.mapCheck (p : Plan) : Option Status :=
  if (List.range 64).any fun n => n != 0 && p.typ n != .undefined &&
      (bit (p.cfg n) 16 || !p.positions.contains (bits (p.cfg n) 17 2)) then some .wrongState else none

def Plan.check (p : Plan) : Setting → Option Status
  | .cfg n => p.cfgCheck n
  | .siz n => p.sizCheck n
  | .ringCfg n => p.ringCheck n
  | .pwSel => p.pwCheck true
  | .pwd _ => p.pwCheck false
  | .ctr n => p.ctrCheck n
  | .map => p.mapCheck

/-- One entry: its own form first, then, if it is the last for its address, its setting's checks (R210). -/
def Plan.entryCheck (p : Plan) (e : Entry) (i : Nat) : Option Status :=
  match settingAt e.addr with
  | none => some .badField
  | some x =>
    if e.cpl ≠ ~~~e.value then some .badField
    else if (p.staged.any fun t => t.index == i) then
      if p.quiesced x.quiesce then p.check x else some .wrongState
    else none

/-- The failing entry with the lowest index (R210). -/
def Plan.failing (p : Plan) (es : List Entry) : Option (Nat × Status) :=
  es.zipIdx.findSome? fun e => (p.entryCheck e.1 e.2).map fun st => (e.2, st)

/-! ### The commit -/

/-- A deleted region: its key is lost, its blocks are unmapped as by TRIM (R218). The answer is the units. -/
def State.deleteRegion (s : State) (n : Nat) (thru : Bool) : List Nat × State :=
  let ks := (s.regionKeys n).filter s.mapped
  let s := ks.foldl (fun s k => s.newVersion k (Version.unmap s.ftl.stamp s.ftl.jSeq thru)) s
  let s := (s.setRegion n Region.init).setRing n Ring.init
  (ks, { s with holds := s.holds.filter fun h => h.region != n })

/-- A ring's new size: an increase adds free slots; a decrease takes free slots, then the oldest live ones (R262). The
answer is the segments dropped. -/
def State.resizeRing (s : State) (n k : Nat) : List Nat × State :=
  let x := s.ring n
  let free := x.k - x.segs.length
  let gone := (s.takable n).take (x.k - k - free)
  let s := s.setRing n { x with
    k := k
    segs := x.segs.filter fun g => !gone.contains g
    wraps := satNat 32 (x.wraps.toNat + gone.length) }
  (gone, if gone.isEmpty then s else s.raiseCut n)

/-- One region's settings take their staged values. The answer is its unmapped units and its dropped segments. -/
def State.commitRegion (s : State) (p : Plan) (thru : Bool) (n : Nat) : List Nat × List Nat × State :=
  let x := s.region n
  let cfg := p.cfg n
  let changed := cfg != x.cfg.val || p.siz n != x.mib
  let record := fun (s : State) => if changed then s.guardRecord n x.cfg.val cfg 1 p.berth else s
  if p.typ n = .undefined then
    if p.old n = .undefined then ([], [], s)
    else
      let (ks, s) := s.deleteRegion n thru
      (ks, [], record s)
  else
    let k := p.slots n
    let y := { x with cfg := Pair.mk' cfg, siz := Pair.mk' (BitVec.ofNat 32 (p.siz n)), ringCfg := Pair.mk' (p.ringCfg n) }
    if p.old n = .undefined then
      let (i, s) := s.draw
      let s := s.setRegion n { y with key := some (Config.freeKey i) }
      ([], [], record (s.setRing n { Ring.init with k := if p.typ n = .ring then k else 0 }))
    else
      let (gone, s) := if p.typ n = .ring then s.resizeRing n k else ([], s)
      ([], gone, record (s.setRegion n y))

/-- The regions that a staged set names. -/
def regionsOf (st : List Staged) : List Nat := (st.filterMap fun t => t.setting.region).dedup

/-- A counter's configuration takes its staged value; the change is recorded (Table LOG-4). -/
def State.commitCtr (s : State) (b : BerthId) (n : Fin 32) (v : W32) : State :=
  let x := s.counter n
  let old := x.cfg.val
  if old = v then s
  else
    let s := s.setCounter n { x with cfg := Pair.mk' v }
    s.sealCard 0x32 ([BitVec.ofNat 8 n.val, old.setWidth 8, v.setWidth 8, 0] ++ leBytes 2 b.val ++ [0, 0])

/-- A colour's password: the 16 bytes staged; all zeros remove it (R221). GRD_PWSEL shows the colour from then on. -/
def State.commitPw (s : State) (p : Plan) : State :=
  match stagedValue p.staged .pwSel with
  | none => s
  | some c =>
    let key := (List.finRange 4).flatMap fun i => leBytes 4 ((stagedValue p.staged (.pwd i)).getD 0).toNat
    let put := fun (s : State) (v : Option Password) =>
      { s with grd := { s.grd with colourPw := s.grd.colourPw.setIfInBounds c.toNat v, pwSel := c.setWidth 3 } }
    if key.all (· == 0) then put s none
    else
      let (w, s) := s.newPassword key
      put s (some w)

/-- The cascade map: a position it leaves out is absent, and its port stays down (R441). -/
def State.commitMap (s : State) (v : BitVec 4) : State :=
  { s with quy := { s.quy with
    map := Pair.mk' v
    present := s.quy.present &&& v
    ports := Vector.ofFn fun i => if bit v (i.val + 1) then s.quy.ports[i] else { s.quy.ports[i] with state := .down } } }

/-- The whole set takes effect. The answer is the unmapped units and the dropped segments by ring. -/
def State.commitSet (s : State) (p : Plan) (thru : Bool) : List Nat × List (Nat × List Nat) × State :=
  let (ks, gs, s) := (regionsOf p.staged).foldl (fun acc n =>
    let (k, g, s) := acc.2.2.commitRegion p thru n
    (acc.1 ++ k, acc.2.1 ++ (if g.isEmpty then [] else [(n, g)]), s)) (([] : List Nat), ([] : List (Nat × List Nat)), s)
  let s := p.staged.foldl (fun s t => match t.setting with
    | .ctr n => s.commitCtr p.berth n t.value
    | .map => s.commitMap (t.value.setWidth 4)
    | _ => s) s
  (ks, gs, s.commitPw p)

/-- Entries of a set that can move reserved work (R54). -/
def Setting.moves : Setting → Bool
  | .cfg _ | .siz _ | .map => true
  | _ => false

/-- What stands again if the set vanishes. -/
def State.beforeSet (s : State) (st : List Staged) : OldCfg where
  regions := (regionsOf st).map fun n => (n, s.region n, s.ring n)
  holds := s.holds.filter fun h => (regionsOf st).contains h.region
  counters := st.filterMap fun t => match t.setting with
    | .ctr n => some (n, (s.counter n).cfg)
    | _ => none
  colourPw := s.grd.colourPw
  pwSel := s.grd.pwSel
  map := s.quy.map

/-! ### The instruction -/

/-- Entries of the APPLY in progress. -/
def Cur.entries (c : Cur) : List Entry := entriesOf c.acc (c.ins.imm 0 9)

/-- Its plan as things stand. -/
def State.planOf (s : State) (b : BerthId) (c : Cur) : Plan := { s := s, staged := stage c.entries, berth := b }

/-- What refuses the set: its first failing entry, or a reservation left above its limits (R54). -/
def State.applyRefusal (s : State) (b : BerthId) (c : Cur) : Option (Nat × Status) :=
  let p := s.planOf b c
  match p.failing c.entries with
  | some f => some f
  | none =>
    let t := (s.commitSet p c.writeThrough).2.2
    match (p.staged.filter fun t => t.setting.moves).map (·.index) |>.min? with
    | some i => if s.resvs.isEmpty ∨ t.limitsHold t.lnk.agreed.val t.resvs then none else some (i, .overReserved)
    | none => none

/-- The gate has drained, or is not needed: the set is committed whole or not at all. -/
def State.applyInstall (s : State) (b : BerthId) (c : Cur) : State :=
  match s.applyRefusal b c with
  | some (i, st) => s.gateFail b c st (some i)
  | none =>
    let n := c.entries.length
    let before := s.beforeSet (stage c.entries)
    let (ks, gs, s) := s.commitSet (s.planOf b c) c.writeThrough
    let c := { c with done := n, result := some (BitVec.ofNat 64 n) }
    s.gateCommit b c true ks (.restore before :: gs.map fun g => .drop g.1 g.2)

/-- APPLY is admitted: it closes the gate for the regions its entries name (R219); one that names none still waits for a
closed gate (R229). -/
def State.applyGo (s : State) (b : BerthId) (covered : Bool) : State :=
  match (s.berth b).cur with
  | none => s
  | some c =>
    let c := { c with writeThrough := !covered }
    let rs : List Nat := ((c.entries.filterMap fun e => settingAt e.addr).filterMap Setting.region).dedup
    if rs.isEmpty && s.grd.gate.isNone then s.applyInstall b c
    else s.takeGate b c (BitVec.ofNat 64 (rs.map fun r => 2 ^ r).sum)

/-- The change set is in: a set that fails its checks as things stand needs no commit. -/
def State.applyAsk (s : State) (b : BerthId) (c : Cur) : State :=
  match s.applyRefusal b c with
  | some (i, st) => s.finish b c.ins st 0 (some i)
  | none => s.onFlash b c.ins fun s => s.askCommit b { c with phase := .ledger } fun cov s => s.applyGo b cov

/-- APPLY takes its entries from data parcels. -/
def State.applyData (s : State) (b : BerthId) : State :=
  match (s.berth b).cur with
  | none => s
  | some c =>
    match State.gather ((s.berth b).chunks.length + c.len + 1) b c.len c.len s with
    | (.more, s) => match (s.berth b).cur with
      | some c => s.waitFor b .data { c with phase := .data }
      | none => s
    | (.bad, s) => s.finish b c.ins .badField
    | (.got d, s) => s.applyAsk b { c with acc := d, tookLast := (s.berth b).tookLast }

def State.applyBody (s : State) (b : BerthId) (q : QInstr) : State :=
  let n := q.imm 0 9
  let len := 12 * n
  let scr := q.xc == 1
  let off := bits (q.extWord 0) 0 18
  let ok := q.only [fDst, fXc, (0, 9)] && q.xc ≤ 1 && 1 ≤ n && n ≤ 256 &&
    (!scr || (scratchWordOk (q.extWord 0) && !(s.berth b).misfit (some off) len))
  s.checked b q ok fun s =>
    if !s.scr.active then s.finish b q .wrongState
    else s.spanned b q (if scr then some off else none) len fun s =>
      let c := { Cur.init q .data with len := len }
      if scr then
        match s.scratchData b (some off) len with
        | (none, s) => s.finish b q .memUncorrectable
        | (some d, s) => s.applyAsk b { c with acc := d }
      else (s.modBerth b fun x => { x with cur := some c }).applyData b

end Sys2Proof.Machine
end

