-- ==== Sys2Proof/Machine/Sched.lean ====
section
/-! DEFINITION. Die time (R30, R31, R41 to R50, R158, R267, R268, R274): what each operation takes of its dies, the ladder, which
operation begins on which die, and which erases are suspended. -/

namespace Sys2Proof.Machine

/-! ### What an operation takes (Table ARCH-6) -/

/-- A time of Table ARCH-6 in ns, with the cores that are left (R30). -/
def State.dieNs (s : State) (ns : Nat) : Nat := ns * 4 / s.coresLeft

/-- The die and the block that a place lies in (R304). -/
def Place.die (p : Place) : Nat := p.entry.toNat / 2 ^ 25
def Place.block (p : Place) : Nat := p.entry.toNat % 2 ^ 25 / 36864

/-- The moves that an operation makes. -/
def DieKind.moves : DieKind → List Move
  | .relocate m => [m]
  | .transplant ms | .copyRow _ ms | .weedCopy _ _ _ _ _ ms => ms
  | _ => []

/-- Program time of some units on one die: pages of 64 KiB, or wordlines of 192 KiB. -/
def programNs (l : Loc) (units : Nat) : Nat := match l with
  | .seedbed => (units + 15) / 16 * 700000
  | .tlc => (units + 47) / 48 * 2500000

/-- Read time of some units on one die. -/
def readNs (units : Nat) : Nat := (units + 15) / 16 * 60000

def eraseNs : Nat := 8000000

/-- A partial program of a single-plane page (R273). -/
def logNs : Nat := 100000

/-- How often each die stands in a list. -/
def tally (ds : List Nat) : List (Nat × Nat) := ds.dedup.map fun d => (d, ds.count d)

/-- Two lists of die time, die by die. -/
def joinNeeds (a b : List (Nat × Nat)) : List (Nat × Nat) :=
  b.foldl (fun m p => tabPut m p.1 (some ((tabGet m p.1).getD 0 + p.2))) a

/-- Programs of some places. -/
def programNeed (ps : List Place) : List (Nat × Nat) :=
  [Loc.seedbed, Loc.tlc].foldl (fun m l =>
    joinNeeds m ((tally ((ps.filter fun p => p.loc == l).map Place.die)).map fun x => (x.1, programNs l x.2))) []

/-- Reads of the copies of some units. -/
def State.readNeed (s : State) (ks : List Nat) : List (Nat × Nat) :=
  joinNeeds [] ((tally (ks.filterMap fun k => (s.copyOf k).map fun c => c.place.die)).map fun x => (x.1, readNs x.2))

/-- Moves: each copy is read and programmed anew. -/
def State.moveNeed (s : State) (ms : List Move) : List (Nat × Nat) :=
  joinNeeds (programNeed (ms.map Move.place)) (s.readNeed (ms.map Move.unit))

/-- Erases of rows. -/
def State.eraseNeed (s : State) (rows : List Nat) : List (Nat × Nat) :=
  joinNeeds [] ((s.ftl.rows.filter fun r => rows.contains r.id).flatMap fun r => r.blocks.map fun b => (b.1, eraseNs))

/-- The dies of the records that a read takes, copy A (R287). -/
def State.recordNeed (s : State) (lo n : Nat) : List (Nat × Nat) :=
  joinNeeds [] ((tally ((s.log.recs.filter fun r => lo ≤ r.seq.toNat && r.seq.toNat < lo + n).filterMap fun r =>
    s.log.copyA.dieOf r.blkA)).map fun x => (x.1, readNs x.2))

/-- The die of a mirror's journal block: the pairs lie on channels 0 and 1 (R272, log 153). -/
def Counters.die (c : Counters) (mirrorB : Bool) : Nat :=
  if mirrorB then 1 + 16 * c.secondB.toNat else 16 * c.secondA.toNat

/-- The die that a journal entry is programmed on: those of the journal rows in turn (R305, log 153). -/
def State.journalDie (s : State) (seq : W64) : Option Nat :=
  let ds := ((s.ftl.rows.filter fun r => r.cls == .journal).flatMap fun r => r.blocks.map (·.1)).filter s.dieUsable
  ds[seq.toNat % max 1 ds.length]?

/-- The units that the read of a berth takes from the dies. -/
def State.berthKeys (s : State) (b : BerthId) : List Nat := match (s.berth b).cur with
  | some c => (c.onDie.map fun i => unitKey c.region ((c.start + i) / s.unitBlocks c.region)).dedup
  | none => []

/-- Codewords of one 64 KiB read (R318). -/
def patrolSlice : Nat := 16

/-- The map units in flash, in key order. -/
def State.flashKeys (s : State) : List Nat := (s.store.filter fun p => p.2.base.isSome).map (·.1)

/-- A codeword that patrol reads: the map unit that it is, none for one of the card's own, and its die. -/
structure PatrolItem where
  unit : Option Nat
  die : Nat
  /-- It is of a map, journal or logbook block. -/
  kept : Bool

/-- The parity pages of the stripes of a row that are programmed. -/
def Row.parityItems (r : Row) : List PatrolItem :=
  (List.range (r.used / (4 * max 1 (r.blocks.length - 1)))).flatMap fun n =>
    List.replicate 4 { unit := none, die := (r.blocks.getD (r.parityMember n) (0, 0)).1, kept := r.cls == .map }

/-- What a pass reads (R318): valid units, map pages among them, parity pages, both logbook copies and the journal; stale pages
and the spare class are not read. -/
def State.patrolItems (s : State) : List PatrolItem :=
  (s.store.filterMap fun p => p.2.base.map fun c => { unit := some p.1, die := c.place.die, kept := 64 ≤ keyRegion p.1 }) ++
  s.ftl.rows.flatMap Row.parityItems ++
  (s.log.recs.flatMap fun r => [s.log.copyA.dieOf r.blkA, s.log.copyB.dieOf r.blkB].filterMap fun d =>
    d.map fun d => { unit := none, die := d, kept := true }) ++
  s.ftl.journal.flatMap fun e => match s.journalDie e.seq.val with
    | some d => List.replicate patrolSlice { unit := none, die := d, kept := true }
    | none => []

/-- The codewords that patrol reads next: fenced dies and channels are skipped, and while erasing only map, journal and logbook
blocks are read (Table COMB-3). -/
def State.patrolNext (s : State) : List PatrolItem :=
  ((s.patrolItems.drop s.ftl.patrolPos).take patrolSlice).filter fun i =>
    s.dieUsable i.die && (bits s.grd.lock.val 0 2 != 2 || i.kept)

/-- The die time of an operation, by die. -/
def State.needOf (s : State) (k : DieKind) : List (Nat × Nat) :=
  let l : List (Nat × Nat) := match k with
    | .program c => programNeed (c.units.flatMap fun u =>
        ((s.unitOf u).fresh.filter fun (v : Version) => v.stamp == c.stamp).filterMap Version.place)
    | .read b => match (s.berth b).cur with
      | some c => if c.ins.op = 0x41 then s.recordNeed c.start c.len else s.readNeed (s.berthKeys b)
      | none => []
    | .logCopy q copyB => match s.log.find q with
      | some r => match if copyB then s.log.copyB.dieOf r.blkB else s.log.copyA.dieOf r.blkA with
        | some d => [(d, logNs)]
        | none => []
      | none => []
    | .ctrMirror _ _ mb _ _ => [(s.ctr.die mb, logNs)]
    | .journal q _ => match s.journalDie q with
      | some d => [(d, programNs .seedbed 16)]
      | none => []
    | .relocate m => s.moveNeed [m]
    | .transplant ms | .copyRow _ ms | .weedCopy _ _ _ _ _ ms => s.moveNeed ms
    | .eraseRow r => s.eraseNeed [r]
    | .weedErase _ _ _ _ rows => s.eraseNeed rows
    | .patrol => joinNeeds [] ((tally (s.patrolNext.map PatrolItem.die)).map fun x => (x.1, readNs x.2))
    | .memberLog i => s.recordNeed i.unit (i.records.getD 0)
    | .memberRead i => s.readNeed [subKey i]
  l.map fun p => (p.1, s.dieNs p.2)

def DieKind.erases : DieKind → Bool
  | .eraseRow _ | .weedErase .. => true
  | _ => false

/-! ### The ladder (Table TIDE-3) -/

/-- The rung of a die operation: its berth's, or that of what it is for. The erase of a TLC row ends a pruning move, that of a
seedbed row a transplant; a WEED's work runs at its berth's rung (R316). Relocations come first in rung 4 (R43). -/
def State.rungOf (s : State) (k : DieKind) : Nat :=
  let by' := fun (o : Option BerthId) => match o with
    | some b => s.workRung b
    | none => 7
  let pruning := if s.pruneRes then 4 else 8
  match k with
  | .program c => if s.hup.overdrawn && !c.thru then 1 else by' c.owner
  | .read b => by' (some b)
  | .logCopy .. | .ctrMirror .. | .journal .. => 2
  | .relocate _ => 4
  | .copyRow .. => pruning
  | .patrol => 5
  | .transplant _ => 6
  | .eraseRow r => match s.ftl.rows.find? fun x => x.id == r with
    | some x => if x.cls == .seedbed then 6 else pruning
    | none => pruning
  | .weedCopy b .. | .weedErase b .. => by' b
  | .memberLog _ | .memberRead _ => 7

/-- The place of an operation in the ladder: its rung, media repair before pruning in rung 4, then its age. -/
def State.ladder (s : State) (o : DieOp) : Nat := 2 * s.rungOf o.kind + (match o.kind with
  | .relocate _ => 0
  | _ => 1)

/-- Operations in ladder order. -/
def State.inOrder (s : State) (os : List DieOp) : List DieOp :=
  (List.range 18).flatMap fun n => os.filter fun o => s.ladder o == n

/-- Whether an operation has its booking in this tide. -/
def Sched.books (x : Sched) (id : Nat) : Bool := x.booked.any fun b => b.work == .die id

/-! ### Capacities (R41, R52, Table TIDE-2) -/

/-- Bytes that a link direction carries in one tide (R52); none outside lane mode. -/
def State.linkBytes (s : State) (up : Bool) : Nat :=
  if s.lnk.mode = .lane then
    s.laneCount s.lnk.agreed.val up * s.laneMbps s.lnk.agreed.val * 128 * periodNs s.tim.period / (130 * 8 * 1000)
  else 0

/-- Units of a kind that are not fenced, of `n` from bit `lo` of the codec's forced fences. -/
def State.codecUnits (s : State) {w : Nat} (fence : BitVec w) (lo n : Nat) : Nat :=
  n - ((List.range n).filter fun i => bit fence i || bit s.flt.fences.forcedCodec (lo + i)).length

/-- Capacity of a resource in one tide: ns over its unfenced units, bytes for a link direction. The overhang of the tide before
is charged to the engine (R47). -/
def State.resCap (s : State) (r : Res) : Nat :=
  let p := periodNs s.tim.period
  match r with
  | .down => s.linkBytes false
  | .up => s.linkBytes true
  | .engine => p - s.sched.overhang
  | .encoder => p * s.codecUnits s.cod.enc 0 16
  | .decoder => p * s.codecUnits s.cod.hard 16 8
  | .soft => p * s.codecUnits s.cod.soft 24 2
  | .pageBch => p * s.codecUnits (BitVec.ofBool s.cod.bch) 26 1
  | .trellis => p * s.codecUnits s.cod.xor 27 2
  | .seal | .safety | .monitor => p
  | .channel n => if bit (s.ftl.chFence ||| s.flt.fences.forcedChannels) n then 0 else p
  | .die d => if s.dieUsable d then p else 0

/-- The resources of Table TIDE-2 that are counted in ns. -/
def Res.timed : List Res :=
  [.engine, .encoder, .decoder, .soft, .pageBch, .trellis, .seal, .safety, .monitor] ++
    (List.range 16).map Res.channel ++ (List.range 128).map Res.die

/-- The tide capacity: one period of each fitted, unfenced resource; a link direction that carries parcels has its period too
(R41). -/
def State.tideCap (s : State) : Nat :=
  (Res.timed.map s.resCap).sum + ([Res.down, Res.up].filter fun r => s.resCap r != 0).length * periodNs s.tim.period

/-- The resource that a self-test slice occupies (Table FLT-3): the link direction of its lane, its channel, else the monitor. -/
def State.sliceRes (s : State) (row item : Nat) : Res := match row with
  | 0 => if bit s.lnk.down item then .down else .up
  | 2 | 8 => .channel item
  | _ => .monitor

/-- Longest time that a slice occupies its resource (R45), in ns. -/
def sliceNs : Nat := 20000

/-- The tide still has room for a slice on a resource: 3 % of the tide capacity with patrol, and one slice a resource (R43, R45,
R429). -/
def State.sliceFits (s : State) (r : Res) : Bool :=
  100 * (s.sched.bg + sliceNs) ≤ 3 * s.tideCap && !s.sched.sliced.contains r

/-- A slice is booked at rung 5. -/
def Sched.bookSlice (x : Sched) (r : Res) : Sched :=
  { x with
    booked := x.booked ++ [{ rung := 5, work := .slice, takes := [(r, sliceNs)] }]
    sliced := r :: x.sliced
    bg := x.bg + sliceNs }

/-! ### Which operations run (R44, R50, R274) -/

def DieOp.on (o : DieOp) (d : Nat) : Bool := o.need.any fun p => p.1 == d

def DieOp.dies (o : DieOp) : List Nat := o.need.map (·.1)

/-- Each copy of the logbook keeps an open block on a die that none of these dies is (R274). -/
def State.logIdle (s : State) (taken : List Nat) : Bool :=
  [s.log.copyA, s.log.copyB].all fun c =>
    let ds := c.openDies.filter s.dieUsable
    ds.isEmpty || ds.any fun d => !taken.contains d

/-- Operations of the logbook and the counters, which the idle die of R274 is for. -/
def DieKind.logs : DieKind → Bool
  | .logCopy .. | .ctrMirror .. => true
  | _ => false

/-- The domains that an operation works in: its dies' and, but for an erase, the codec's (Table ARCH-1). -/
def DieOp.doms (o : DieOp) : List (Fin 16) :=
  (if o.dies.any fun d => d % 16 < 8 then [13] else []) ++ (if o.dies.any fun d => 8 ≤ d % 16 then [14] else []) ++
    (if o.kind.erases then [] else [10])

/-- The domains of an operation that cannot serve it yet: asleep, or their wake time not passed, or, for rungs 3 to 8, delayed
(R383, R387). One that has failed serves nothing; the operation ends there. -/
def State.lacking (s : State) (o : DieOp) : List (Fin 16) :=
  o.doms.filter fun d => s.dom d != .failed && (!s.domReady d || (2 < s.rungOf o.kind && s.delayed d))

/-- Domains that waiting operations need are woken: for rungs 1 and 2 whatever PMU_AUTO holds (R388, R390). -/
def State.wakeFor (s : State) (os : List DieOp) : State :=
  s.demand ((os.flatMap fun o => (s.lacking o).filter fun d => s.rungOf o.kind ≤ 2 || bit s.pmu.auto d.val).dedup)

/-- One operation that waits begins when its domains serve it, its dies are free and R274 holds; either way work behind it does
not take them, so that nothing that comes later in the order delays it (R44). -/
def State.beginOp (s : State) (acc : List Nat × List Nat) (o : DieOp) : List Nat × List Nat :=
  let taken := acc.1 ++ o.dies
  let waits := !(s.lacking o).isEmpty || o.dies.any acc.1.contains || !(o.kind.logs || s.logIdle taken)
  (taken, if waits then acc.2 else o.id :: acc.2)

/-- Erases on dies that rung 1 to 3 work needs are suspended, and go on when it is done (R50). Then what is booked begins on its
dies, and what is not begins where a die has finished early (R44), but under a thermal throttle for rungs 6 to 8 (R421). -/
def State.arrange (s : State) : State :=
  let os := s.dies.map fun (o : DieOp) => if o.need.isEmpty && !o.run then { o with need := s.needOf o.kind } else o
  let urgent := os.filter fun o => !o.kind.erases && s.rungOf o.kind ≤ 3
  let os := os.map fun (o : DieOp) => { o with
    suspended := o.run && o.kind.erases && urgent.any fun u => u.dies.any fun d => o.on d }
  let taken := (os.filter fun o => o.run && !o.suspended).flatMap DieOp.dies
  let wait := s.inOrder (os.filter fun o => !o.run)
  let (booked, rest) := wait.partition fun o => s.sched.books o.id
  let rest := rest.filter fun o => !s.mon.throttle || s.rungOf o.kind < 6
  let begun := ((booked ++ rest).foldl s.beginOp (taken, [])).2
  { s.wakeFor wait with dies := os.map fun (o : DieOp) => if begun.contains o.id then { o with run := true } else o }

end Sys2Proof.Machine
end

