-- ==== Sys2Proof/Machine/Resume.lean ====
section
/-! DEFINITION. Waits end when their cause does: whatever an event makes possible happens in the same step, one thing at
a time and in a fixed order (log 22). -/

namespace Sys2Proof.Machine

/-! ### The ledger's queue (R357, R358) -/

/-- What kind of item an instruction in progress puts before the ledger (Table TZ-4). -/
def State.itemKind (s : State) (c : Cur) : ItemKind :=
  let op := c.ins.op.toNat
  if op = 0x21 ∨ op = 0x22 ∨ op = 0x23 then .data (kibOf (s.pieceBytes c))
  else if op = 0x40 ∨ op = 0x42 ∨ op = 0x48 then .sealed
  else .commit

/-- A piece that was admitted, or runs write-through, goes on. If its pages are gone while it waited, it gives its admission
back and waits for a row (R311). -/
def State.pieceGo (s : State) (b : BerthId) (c : Cur) (covered : Bool) : State :=
  if s.needsRoom b c then
    (if covered then s.creditItem (s.itemKind c) (dataCost (s.pieceBytes c)) else s).waitFor b .die { c with phase := .room }
  else (s.takePiece b c !covered).writeGo b

/-- An instruction's item is admitted, or runs write-through: the instruction goes on. -/
def State.proceed (s : State) (b : BerthId) (covered : Bool) : State :=
  match (s.berth b).cur with
  | none => s
  | some c => match c.ins.op.toNat with
    | 0x30 => s.trimGo b covered
    | 0x31 => s.weedGo b covered
    | 0x32 => s.holdGo b covered
    | 0x33 => s.releaseGo b covered
    | 0x34 => s.harvestGo b covered
    | 0x40 => s.sealGo b covered
    | 0x42 => s.checkptGo b covered
    | 0x48 => s.ctrincGo b covered
    | 0x61 => s.guardGo b covered
    | 0x62 | 0x63 => s.lockGo b covered
    | 0x64 => s.feraseGo b covered
    | 0x67 => s.applyGo b covered
    | _ => s.pieceGo b c covered

/-- The item at the head of the ledger's queue is covered: it is admitted (R357). -/
def State.admitFront (s : State) : Option State :=
  match s.hup.queue with
  | i :: r =>
    if s.hup.covers i.cost then
      match (s.berth i.berth).cur with
      | some c =>
        let k := s.itemKind c
        let s := { s with hup := { s.hup with queue := r } }
        some ((s.admitItem k i.cost).proceed i.berth true)
      | none => some { s with hup := { s.hup with queue := r } }
    else none
  | [] => none

/-! ### The gate (R229, R230) -/

/-- Regions that a GUARD or an APPLY closes the gate for. -/
def Cur.gateRegions (c : Cur) : W64 :=
  if c.ins.op = 0x61 then BitVec.ofNat 64 (2 ^ guardRegion c.ins)
  else BitVec.ofNat 64 ((((c.entries.filterMap fun e => settingAt e.addr).filterMap Setting.region).dedup).map fun r => 2 ^ r).sum

/-- The drain has ended: the gate's owner goes on. With the gate open, the first that waits for it closes it. -/
def State.gateStep (s : State) : Option State :=
  match s.grd.gate with
  | some g =>
    if s.gateDrained g.regions then
      match (s.berth g.owner).cur with
      | some c => if c.phase = .drain then
          some (if c.ins.op = 0x61 then s.guardInstall g.owner c else s.applyInstall g.owner c)
        else none
      | none => none
    else none
  | none =>
    let ws := (s.berths.toList.zip allBerths).filterMap fun p => match p.1.cur with
      | some c => if c.phase = .gate ∧ c.admitted then some (c.target, p.2, c) else none
      | none => none
    match (ws.map (·.1)).min? with
    | some t => (ws.find? fun w => w.1 == t).map fun w => s.closeGate w.2.1 w.2.2 w.2.2.gateRegions
    | none => none

/-! ### Waits of one berth -/

/-- A berth that waits for data takes what has come. -/
def State.dataGo (s : State) (b : BerthId) (op : Nat) : State :=
  match op with
  | 0x40 => s.sealData b
  | 0x60 => s.sessionData b
  | 0x67 => s.applyData b
  | 0x6A => s.patchData b
  | _ => s.writeGo b

/-- A slot that an APPEND waits for is there (R250). -/
def State.slotReady (s : State) (c : Cur) : Bool := (s.takeSlot c.region ((c.start + c.pos) / segSize)).isSome

/-- What a berth that waits does now, if its wait can end. -/
def State.resumeOne (s : State) (b : BerthId) : Option State :=
  match (s.berth b).state, (s.berth b).cur with
  | .waiting, some c =>
    match c.phase with
    | .slot => if s.slotReady c then some (s.writeGo b) else none
    | .room => if s.needsRoom b c then none else some (s.writeGo b)
    | .upPath => if s.stagingRoom then some (State.pushData (c.acc.length + 1) b s) else none
    | .data => if ((s.berth b).myChunks c.ins).isEmpty then none else some (s.dataGo b c.ins.op.toNat)
    | _ => s.wakeOne b
  | _, _ => none

def State.resumeFirst (s : State) : List BerthId → Option State
  | [] => none
  | b :: r => match s.resumeOne b with
    | some t => some t
    | none => s.resumeFirst r

/-- QUIESCE's functions are at rest (R209). -/
def State.quiesceStep (s : State) : Option State :=
  if s.scr.draining && s.quiesceDrained then some s.quiesceDone else none

/-- The first wait that can end does. -/
def State.settleOne (s : State) : Option State :=
  if s.flt.halted then none
  else match s.admitFront with
    | some t => some t
    | none => match s.gateStep with
      | some t => some t
      | none => match s.resumeFirst s.waiters with
        | some t => some t
        | none => match s.sweepStep with
          | some t => some t
          | none => s.quiesceStep

/-- Waits end until none can. -/
def State.settle : Nat → State → State
  | 0, s => s
  | n + 1, s => match s.settleOne with
    | some t => State.settle n t
    | none => s

/-! ### Credits (R127) -/

/-- Trellis parity not yet programmed: a page for each stripe that has begun and is not full (R19). -/
def State.parityHeld (s : State) : Nat :=
  16384 * (s.ftl.rows.filter fun r => r.isOpen && r.used % (4 * max 1 (r.blocks.length - 1)) != 0).length

/-- Bytes in the write share (R19): data that waits, data of pieces being taken, versions that are not durable, parity. -/
def State.shareUsed (s : State) : Nat :=
  (s.berths.toList.map fun x => (x.chunks.map fun c => c.bytes.length).sum + (match x.cur with
    | some c => if c.phase = .data then c.acc.length else 0
    | none => 0)).sum +
  (s.store.map fun p => p.2.heldBytes).sum + s.parityHeld

/-- Credits owed are returned once the write share has room. -/
def State.returnCredits (s : State) : State :=
  if s.lnk.withheld = 0 ∨ s.lnk.mode ≠ .lane ∨ s.writeShare ≤ s.shareUsed then s
  else { s with lnk := { s.lnk with
    creditDown := s.lnk.creditDown + s.lnk.withheld
    withheld := 0
    sent := s.lnk.sent ++ [.control s.lnk.rxLast none (BitVec.ofNat 8 s.lnk.withheld) s.busy] } }

/-- What follows a command's own effect: the logbook's space is checked (Table LOG-5), every wait that the effect ends
ends, released segments whose last pin ended leave their slots (R256), and credits owed are returned. -/
def State.close (before s : State) : State := (before.checkDebit ((before.checkLog s).settle 4096)).returnCredits.arrange

/-- The next state of a meaning that may end waits of any kind. -/
def settled (before s : State) : Out := .next (before.close s)

/-- One turn of a berth whose next instruction has this opcode; any other turn is another row's (log 2). -/
def turn (b : BerthId) (op : Byte) (s : State) (body : QInstr → State → State) : Out :=
  match s.turnOf b with
  | some q => if q.op = op then settled s ((s.takeTurn b q).begin b q body) else .next s
  | none => .next s

end Sys2Proof.Machine
end

