-- ==== Sys2Proof/Machine/AdminInstr.lean ====
section
/-! DEFINITION. The administration family (R207 to R212) but STC, and the events that end its waits. -/

namespace Sys2Proof.Machine

/-- SESSION (R208). -/
def execSession (b : BerthId) (s : State) : Out := turn b 0x60 s fun q s => s.sessionBody b q

/-- The pause after a wrong response is over: the challenge asked for is given (R222). -/
def execChallengePauseEnd (b : BerthId) (s : State) : Out :=
  match (s.berth b).cur with
  | some c =>
    if c.phase = .challenge ∧ (s.berth b).session.pause = 0 then settled s (s.giveChallenge b c.ins) else .next s
  | none => .next s

/-- GUARD (R228 to R231). -/
def execGuard (b : BerthId) (s : State) : Out := turn b 0x61 s fun q s => s.guardBody b q

/-- One tide after the gate closed its in-flight set is not empty: GUARD or APPLY completes with GATE_TIMEOUT, and the
old rules stay (R219, R230). -/
def execGateTimeout (s : State) : Out :=
  match s.grd.gate with
  | none => .next s
  | some g => match (s.berth g.owner).cur with
    | none => .next s
    | some c =>
      if g.tidesLeft = 0 ∧ c.phase = .drain then
        settled s ({ s with grd := { s.grd with timeouts := satInc s.grd.timeouts } }.gateFail g.owner c .gateTimeout none)
      else .next s

/-- LOCK (R236 to R238). -/
def execLock (b : BerthId) (s : State) : Out := turn b 0x62 s fun q s => s.lockBody b q

/-- UNLOCK (R236 to R238). -/
def execUnlock (b : BerthId) (s : State) : Out := turn b 0x63 s fun q s => s.lockBody b q

/-- FERASE (R241). -/
def execFerase (b : BerthId) (s : State) : Out := turn b 0x64 s fun q s => s.feraseBody b q

/-- Step 4 of a forced erase ends on this controller: step 3 is durable and every block erased (Table REGION-7). Steps 5 and
6 follow once every member has answered; a member answers its master (R241). -/
def execFeraseEraseDone (seconds : W32) (s : State) : Out :=
  if s.grd.eraseKeysDone ∧ s.grd.erasePct ≠ 100 ∧ ¬s.flt.halted ∧ s.alive then
    let t := s.eraseLocal seconds
    settled s (if s.position = 0 then t.eraseEnd
      else { t with
        grd := { t.grd with eraseKeysDone := false }
        quy := { t.quy with
          answers := t.quy.answers ++ [{ id := 0, status := 0, writeThrough := false, payload := [], first := none }] } })
  else .next s

/-- HEALTH (R327). -/
def execHealth (b : BerthId) (s : State) : Out := turn b 0x65 s fun q s => s.healthTurn b q

/-- QUIESCE (R209). -/
def execQuiesce (b : BerthId) (s : State) : Out := turn b 0x66 s fun q s => s.quiesceBody b q

/-- The deadline of QUIESCE passes: what is not at a boundary completes with ABORTED (R209). -/
def execQuiesceDeadline (s : State) : Out :=
  if s.scr.draining ∧ s.scr.tidesLeft = 0 then
    let stop := fun (s : State) (b : BerthId) => if 8 ≤ b.val ∧ bit s.scr.bits 1 then s.abortCur b .aborted else s
    settled s (allBerths.foldl stop s).quiesceDone
  else .next s

/-- APPLY (R210). -/
def execApply (b : BerthId) (s : State) : Out := turn b 0x67 s fun q s => s.applyBody b q

/-- RESUME (R466). -/
def execResume (b : BerthId) (s : State) : Out := turn b 0x68 s fun q s => s.resumeBody b q

/-- PATCH (R212, R437). -/
def execPatch (b : BerthId) (s : State) : Out := turn b 0x6A s fun q s => s.patchBody b q

/-- HALTCTL (R212). -/
def execHaltctl (b : BerthId) (s : State) : Out := turn b 0x6B s fun q s => s.haltctlBody b q

/-- The second boundary of an item's wait passes uncovered: it runs write-through (R358, R359). -/
def execLedgerWaitExpiry (b : BerthId) (s : State) : Out :=
  match s.hup.queue.find? fun i => i.berth == b with
  | some i => if i.tidesLeft = 0 then settled s ((s.leaveLedger b).proceed b false) else .next s
  | none => .next s

end Sys2Proof.Machine
end

