-- ==== Sys2Proof/Machine/Arith.lean ====
section
/-! DEFINITION. The arithmetic and logic family but LDC (R188, Table TZ-7). -/

namespace Sys2Proof.Machine

/-- How operand B extends an immediate. -/
inductive BExt where
  | signed | zero
  deriving DecidableEq, Repr

/-- Fields of an instruction with operand B: a register, or 32 bits of immediate (R188). -/
def QInstr.bFieldsOk (q : QInstr) (dst : Bool) : Bool :=
  let d := if dst then [fDst, fSrcA] else [fSrcA]
  if bit q.word 39 then q.only ([fSrcB, (39, 1), (0, 32)] ++ d) else q.only ([fSrcB] ++ d)

/-- Operand B (R188). -/
def operandB (x : Berth) (q : QInstr) (e : BExt) : W64 :=
  if bit q.word 39 then
    match e with
    | .signed => (q.word.setWidth 32).signExtend 64
    | .zero => (q.word.setWidth 32).setWidth 64
  else x.reg q.mode

/-- The shift count: V[SRCB], or IMM[5:0] (R188). -/
def shiftCount (x : Berth) (q : QInstr) : Nat := if bit q.word 39 then q.imm 0 6 else (x.reg q.mode).toNat

/-- Flags and result of an arithmetic instruction; CMP writes no register. -/
def State.arith (s : State) (b : BerthId) (q : QInstr) (r : Alu) (write : Bool) : State :=
  (s.modBerth b fun x => x.setFlags r).finish b q .ok 0 none (if write then some r.val else none)

/-- A two-operand instruction. -/
def State.binary (s : State) (b : BerthId) (q : QInstr) (e : BExt) (f : W64 → W64 → Alu) (write : Bool) : State :=
  s.checked b q (q.bFieldsOk write) fun s =>
    s.arith b q (f ((s.berth b).reg q.srcA) (operandB (s.berth b) q e)) write

/-- A shift. -/
def State.shift (s : State) (b : BerthId) (q : QInstr) (f : W64 → Nat → Alu) : State :=
  s.checked b q (q.bFieldsOk true) fun s => s.arith b q (f ((s.berth b).reg q.srcA) (shiftCount (s.berth b) q)) true

/-- The value LDI forms (Table TZ-7). -/
def ldiValue (x : Berth) (q : QInstr) : W64 :=
  match q.mode with
  | 0 => (q.word.setWidth 40).setWidth 64
  | 1 => (q.word.setWidth 40).signExtend 64
  | _ => (q.word.setWidth 24).setWidth 64 <<< 40 ||| ((x.reg q.dst).setWidth 40).setWidth 64

/-- LDI; MODE 3 and above are reserved, and MODE 2 takes IMM[23:0]. -/
def execLdi (b : BerthId) (s : State) : Out :=
  runTurn b 0x10 s fun q s =>
    s.checked b q (q.mode ≤ 2 && q.only [fDst, fSrcB, (0, if q.mode = 2 then 24 else 40)]) fun s =>
      s.arith b q (aluMove (ldiValue (s.berth b) q)) true

/-- MOV. -/
def execMov (b : BerthId) (s : State) : Out :=
  runTurn b 0x11 s fun q s => s.checked b q (q.only [fDst, fSrcA]) fun s =>
    s.arith b q (aluMove ((s.berth b).reg q.srcA)) true

/-- ADD: modulo 2^64, C the carry. -/
def execAdd (b : BerthId) (s : State) : Out := runTurn b 0x12 s fun q s => s.binary b q .signed aluAdd true

/-- SUB: modulo 2^64, C the borrow. -/
def execSub (b : BerthId) (s : State) : Out := runTurn b 0x13 s fun q s => s.binary b q .signed aluSub true

/-- AND. -/
def execAnd (b : BerthId) (s : State) : Out :=
  runTurn b 0x14 s fun q s => s.binary b q .zero (fun x y => aluLogic (x &&& y)) true

/-- OR. -/
def execOr (b : BerthId) (s : State) : Out :=
  runTurn b 0x15 s fun q s => s.binary b q .zero (fun x y => aluLogic (x ||| y)) true

/-- XOR. -/
def execXor (b : BerthId) (s : State) : Out :=
  runTurn b 0x16 s fun q s => s.binary b q .zero (fun x y => aluLogic (x ^^^ y)) true

/-- SHL. -/
def execShl (b : BerthId) (s : State) : Out := runTurn b 0x17 s fun q s => s.shift b q aluShl

/-- SHR, logical. -/
def execShr (b : BerthId) (s : State) : Out := runTurn b 0x18 s fun q s => s.shift b q aluShr

/-- CMP: flags only. -/
def execCmp (b : BerthId) (s : State) : Out := runTurn b 0x19 s fun q s => s.binary b q .signed aluSub false

/-- An opcode outside Table TZ-5 (R182, R434). -/
def execUnknownOp (b : BerthId) (s : State) : Out :=
  match s.turnOf b with
  | some q => if knownOp q.op then .next s else answer ((s.takeTurn b q).begin b q fun q s => s.finish b q .unknownOp)
  | none => .next s

end Sys2Proof.Machine
end

