-- ==== Sys2Proof/Machine/Berth.lean ====
section
/-! DEFINITION. Berth commands, the BTH_ requests, instruction pushes and data (R143 to R160, R165, R497). -/

namespace Sys2Proof.Machine

/-- The berth in BTH_SEL. -/
def State.selected (s : State) : BerthId := berthOf (bits s.bth.sel 0 9)

/-- A change of the selected berth's window. -/
def State.modWindow (s : State) (f : BthWindow → BthWindow) : State :=
  s.modBerth s.selected fun x => { x with win := f x.win }

/-! ### Commands (Table BERTH-5) -/

/-- Hardware clears a run of a protected memory: its bytes are whole again, and an armed flip-mask aimed at it acts. -/
def State.memCleared (s : State) (m : Fin 10) (a n : Nat) : State :=
  let x := s.memOf m
  let s := s.setMem m { x with flipped := x.flipped.filter fun f =>
    let i := 8 * f.addr.toNat + f.byte.toNat
    i < a || a + n ≤ i }
  let i := 8 * x.flipAddr.toNat + bits x.flipMask 13 3
  if x.flipArmed ∧ a ≤ i ∧ i < a + n then s.memWrote m i else s

/-- ALLOC: first fit in the pool and in scratch; pool words read as NOP, scratch pages are zeroed and take the berth's
colour (R145, R146, Table REGION-5). -/
def State.allocBerth (s : State) (b : BerthId) : Status × State :=
  let n := (s.berth b).win.units
  let p := (s.berth b).win.pages
  if n = 0 ∨ 1024 < n ∨ 64 < p then (.badField, s)
  else match firstFit s.unitFree n 1024, (if p = 0 then some 0 else firstFit s.pageFree p 64) with
    | some u, some g =>
      let colour := (s.berth b).scolour
      let s := { s with
        pool := Memory.clear s.pool (512 * u) (512 * n)
        scratch := Memory.clear s.scratch (4096 * g) (4096 * p)
        scrTags := Vector.ofFn fun i => if g ≤ i.val ∧ i.val < g + p then colour else s.scrTags[i] }
      let s := (s.memCleared 1 (512 * u) (512 * n)).memCleared 2 (4096 * g) (4096 * p)
      (.ok, s.modBerth b fun x => { x with
        state := .loading, poolBase := u, poolUnits := n, scrBase := g, scrPages := p, loadPtr := 0 })
    | _, _ => (.poolFull, s)

/-- START (Table BERTH-5, R184). -/
def State.startBerth (s : State) (b : BerthId) : State :=
  (s.modBerth b fun x => { x with
    pc := 0, v := Vector.replicate 16 0, z := false, n := false, c := false, e := false, stack := [], inbox := [],
    lastStat := .ok }).rest b

/-- The instruction that STOP ends completes with ABORTED, and its completion is always sent (R150, R151). -/
def State.endAborted (s : State) (b : BerthId) (c : Cur) : State :=
  let (n, res) := (s.abortDone b c, s.abortResult b c)
  let s := s.withdrawCur b c
  let s := s.modBerth b fun x => { x with
    v := match res with
      | some r => x.v.setIfInBounds (bits c.ins.word 48 4) r
      | none => x.v
    e := true
    lastStat := if setsLastStat c.ins.op then .aborted else x.lastStat
    queue := if x.kind then x.queue else x.queue.drop 1
    pc := x.pcPast c.ins.words
    cur := none }
  let s := s.leaveData b c.ins c.tookLast
  s.sendCompletion b c.ins.tag c.ins.op .aborted n none (res.getD 0)

/-- STOP: at the next instruction boundary, to which an instruction that waits comes by completing with ABORTED (R150). One
whose record or counter step can no longer be taken back completes first (log 63). -/
def State.stopCommand (s : State) (b : BerthId) : State :=
  match (s.berth b).cur with
  | some c =>
    if s.takesBack b c then (s.endAborted b c).stopBerth b .aborted
    else s.modBerth b fun x => { x with stopDue := true }
  | none => s.stopHere b

/-- The session keeps colour 0 only (R224). -/
def Berth.closeSession (x : Berth) : Berth := { x with session := { x.session with set := 1 } }

/-- FREE. -/
def State.freeBerth (s : State) (b : BerthId) : State :=
  s.modBerth b fun x => { x.closeSession with
    state := .empty, kind := false, poolBase := 0, poolUnits := 0, scrBase := 0, scrPages := 0, inbox := [], queue := [],
    pc := 0 }

/-- RESTART. -/
def State.restartBerth (s : State) (b : BerthId) : State :=
  s.modBerth b fun x => { x.closeSession with
    state := if x.kind then .loaded else .empty, queue := if x.kind then x.queue else [], pc := if x.kind then x.pc else 0,
    inbox := if x.kind then [] else x.inbox }

/-- The states that a command leaves (Table BERTH-5). -/
def commandFrom (op : Nat) (x : Berth) : Bool :=
  match op with
  | 1 => x.state == .unallocated
  | 2 => x.state == .loaded || (x.state == .stopped && x.kind)
  | 3 => x.state == .loading || x.state == .loaded
  | 4 => !(x.state == .empty || x.state == .unallocated || x.state == .stopped)
  | 5 => x.state == .unallocated || x.state == .loading || x.state == .loaded || (x.state == .stopped && x.kind)
  | _ => x.state == .stopped

/-- BTH_CMD.GO with an OP (R148). -/
def State.berthCommand (s : State) (op : Nat) : State :=
  let b := s.selected
  let done := fun (p : Status × State) => p.2.modBerth b fun x => { x with win := { x.win with cmdSt := p.1 } }
  if op = 0 ∨ 7 ≤ op then done (.badField, s)
  else if !commandFrom op (s.berth b) then done (.wrongState, s)
  else match op with
    | 1 => done (s.allocBerth b)
    | 2 => done (.ok, s.modBerth b fun x => { x with state := .loading, loadPtr := 0 })
    | 3 => done (.ok, s.startBerth b)
    | 4 => done (.ok, s.stopCommand b)
    | 5 => done (.ok, s.freeBerth b)
    | _ => done (.ok, s.restartBerth b)

/-- BTH_CMD.OP and GO written on the berth in BTH_SEL. -/
def berthRow (op : Nat) (s : State) : Out :=
  if s.alive then settled s ((s.modWindow fun w => { w with op := BitVec.ofNat 3 op }).berthCommand op) else .next s

/-- ALLOC. -/
def execAlloc (s : State) : Out := berthRow 1 s

/-- LOAD. -/
def execLoad (s : State) : Out := berthRow 2 s

/-- START. -/
def execStart (s : State) : Out := berthRow 3 s

/-- STOP. -/
def execStop (s : State) : Out := berthRow 4 s

/-- FREE. -/
def execFree (s : State) : Out := berthRow 5 s

/-- RESTART. -/
def execRestart (s : State) : Out := berthRow 6 s

/-! ### BTH_CFG, reservations, reporting -/

/-- A write of BTH_CFG by berth `who` (R149): SCOLOUR must be in the session that acts (R225, R234). The answer is the
status; nothing is written unless it is OK. -/
def State.writeBthCfg (s : State) (who : BerthId) (v : W32) : Status × State :=
  let b := s.selected
  let x := s.berth b
  let kind := bit v 0
  let colour : BitVec 4 := v.extractLsb' 4 4
  let open' := x.state == .empty || x.state == .unallocated
  if !(open' || x.state == .loaded || x.state == .stopped) || (kind != x.kind && !open') then (.wrongState, s)
  else if !bit (s.berth who).session.set colour.toNat then (.badField, s)
  else (.ok, s.modBerth b fun x => { x with
    kind := kind, stopErr := bit v 1, rcomp := bit v 2, scolour := colour,
    state := if open' then (if kind then .unallocated else .empty) else x.state })

/-- BTH_CFG written by the host, which acts with the session of berth 0 (R149, R225). -/
def execBthCfgWrite (v : W32) (s : State) : Out := if s.alive then settled s (s.writeBthCfg 0 v).2 else .next s

/-- Regions that a request names. -/
def BthWindow.regions (w : BthWindow) : W64 := w.resvRh ++ w.resvRl

/-- A request may name this region (R160). -/
def State.reservable (s : State) (n : Nat) : Bool :=
  n != 0 && (s.rtype n == .ring || s.rtype n == .general || s.rtype n == .compat)

/-- The answer to a reservation request (R53, R159, R160). -/
def State.requestResv (s : State) : State :=
  let b := s.selected
  let v := (s.berth b).win.resv
  let rate : W16 := v.setWidth 16
  let rs := (s.berth b).win.regions
  let r : Resv := { rate := rate, up := bit v 16, regions := rs, stamp := s.bth.stamp }
  let others := ((s.berths.toList.zip allBerths).filterMap fun p => if p.2 = b then none else p.1.resv)
  let say := fun (s : State) (st : Status) => { s with bth := { s.bth with resvSt := st } }
  if rate = 0 then say (s.modBerth b fun x => { x with resv := none }) .ok
  else if rs = 0 ∨ ((List.range 64).any fun n => bit rs n && !s.reservable n) then say s .badRegion
  else if 64 ≤ others.length ∨ ¬s.limitsHold s.lnk.agreed.val (others ++ [r]) then say s .overReserved
  else say ({ s with bth := { s.bth with stamp := s.bth.stamp + 1 } }.modBerth b fun x => { x with resv := some r }) .ok

/-- BTH_RESV written; REQUEST submits it. -/
def State.writeResv (s : State) (v : W32) : State :=
  let s := s.modWindow fun w => { w with resv := v &&& 0x1FFFF }
  if bit v 17 then s.requestResv else s

/-- BTH_RESV.REQUEST written (R159). -/
def execBthResvRequest (v : W32) (s : State) : Out := if s.alive then settled s (s.writeResv (v ||| 0x20000)) else .next s

/-- BTH_UNREPCLR.CLR (R165). -/
def State.clearUnrep (s : State) : State :=
  { s with
    berths := s.berths.map fun x => { x with
      rseq := x.cseq, badStat := 0, saved := { x.saved with rseq := x.saved.cseq, badStat := 0 } }
    bth := { s.bth with unrep := 0 } }

/-- BTH_UNREPCLR.CLR written (R165). -/
def execBthUnrepclr (s : State) : Out := if s.alive then answer s.clearUnrep else .next s

/-! ### Instruction pushes (R152 to R154) -/

/-- The 64-bit words of a payload. -/
def payloadWords (d : List Byte) : List W64 :=
  (List.range (d.length / 8)).map fun i => BitVec.ofNat 64 (ofLe (slice d (8 * i) 8))

/-- A push to a stream berth enters whole or not at all. -/
def State.pushStream (s : State) (b : BerthId) (tag : W16) (ws : List W64) : State :=
  let x := s.berth b
  let first := ws.headD 0
  match parsePush tag (ws.length + 1) ws with
  | none => s.refusePush b tag first .truncatedPush 0
  | some qs =>
    if x.state = .stopped then s.refusePush b tag first .wrongState 0
    else if x.qfree < ws.length then s.refusePush b tag first .queueFull 0
    else
      let s := s.modBerth b fun x => { x with queue := x.queue ++ qs }
      if x.state = .empty then s.rest b else s

/-- Words written at the load pointer, as many as fit. -/
def State.loadWords (s : State) (b : BerthId) : List W64 → State
  | [] => s
  | w :: r =>
    let x := s.berth b
    ((s.poolWrite (x.poolStart + x.loadPtr) w).modBerth b fun x => { x with loadPtr := x.loadPtr + 1 }).loadWords b r

/-- A push to a resident berth: program words, or the inbox. -/
def State.pushResident (s : State) (b : BerthId) (tag : W16) (ws : List W64) : State :=
  let x := s.berth b
  let first := ws.headD 0
  match x.state with
  | .loading =>
    let n := min ws.length (x.poolWords - x.loadPtr)
    let s := s.loadWords b (ws.take n)
    if n < ws.length then s.refusePush b tag first .poolFull n else s
  | .ready | .running | .waiting =>
    if x.inbox.isEmpty ∧ ws.length ≤ 4 then
      s.modBerth b fun x => { x with inbox := ws }.pendEvent 0 (eventWord 0 b.val 0)
    else s.refusePush b tag first .queueFull 0
  | _ => s.refusePush b tag first .wrongState 0

/-- An instruction push reaches its berth (R129, R497). -/
def State.push (s : State) (b : BerthId) (tag : W16) (d : List Byte) : State :=
  let ws := payloadWords d
  let s := if bit s.pmu.auto 6 then s.demand [6] else s
  if s.refusesBusy b then s.refusePush b tag (ws.headD 0) .busy 0
  else if (s.berth b).kind then s.pushResident b tag ws
  else s.pushStream b tag ws

/-! ### Data parcels (R155) -/

/-- The berth has, or may come to, an instruction for data with this tag: in a stream berth one whose run of parcels is not
complete yet. -/
def Berth.joins (x : Berth) (tag : W16) : Bool :=
  if x.kind then x.state == .ready || x.state == .running || x.state == .waiting
  else
    let served := (x.chunks.filter fun c => c.tag == tag && c.last).length +
      (match x.cur with
        | some c => c.tookLast && c.ins.tag == tag
        | none => false).toNat
    served < (x.queue.filter fun q => q.tag == tag && q.takesData).length

/-- A data parcel waits in the write share, or is discarded. -/
def State.takeParcelData (s : State) (b : BerthId) (tag : W16) (d : List Byte) (last : Bool) : State :=
  if (s.berth b).joins tag then
    s.modBerth b fun x => { x with chunks := x.chunks ++ [{ tag := tag, bytes := d, last := last }] }
  else s.discard 1

end Sys2Proof.Machine
end

