-- ==== Sys2Proof/Machine/MemberOps.lean ====
section
/-! DEFINITION. The loss of a cascade member (R456, R457). -/

namespace Sys2Proof.Machine

/-- The instruction of a berth that waited for the member ends; HEALTH enters a fenced block instead (R327),
and a forced erase goes on without the member. -/
def State.endDelegated (s : State) (p : Fin 4) (b : BerthId) : State :=
  match (s.berth b).cur with
  | none => s
  | some c =>
    if c.phase = .erase then s
    else if c.ins.op = 0x65 then s.healthAnswered b p.val (fencedBlock p.val)
    else (s.withdrawCur b c).finish b c.ins .memberLost c.done none none

/-- What the master does once a member is fenced: outstanding work on it ends, and MEMBER is raised (Table CASC-5). -/
def State.memberGone (s : State) (p : Fin 4) : State :=
  let mine := s.quy.out.filter fun o => o.position == p
  let s := { s with quy := { s.quy with
    out := s.quy.out.filter fun o => o.position != p
    lostSubs := satNat 16 (s.quy.lostSubs.toNat + mine.length) } }
  let s := s.raiseEvent 9 (BitVec.ofNat 32 p.val) none
  ((mine.map (·.berth)).dedup.foldl (fun s b => s.endDelegated p b) s).eraseEnd

/-- A member is lost: F20 at FENCE. -/
def State.loseMember (s : State) (p : Fin 4) (forced : Bool := false) : State :=
  if bit s.quy.lost p.val then s else (s.raise 20 .fence (.member p) forced).memberGone p

end Sys2Proof.Machine
end

