-- ==== Sys2Proof/Machine/Time.lean ====
section
/-! DEFINITION. Disciplined time: markers, the servo, steps, quality and the alarm (R56 to R69, R206). Periods and
boundaries are in Machine/Tide.lean. -/

namespace Sys2Proof.Machine

/-! ### Quality (R67) -/

/-- A change of the quality raises TIME_QUALITY (Table BERTH-7). -/
def State.setQuality (s : State) (q : Quality) : State :=
  if q = s.tim.quality then s
  else { s with tim := { s.tim with quality := q } }.raiseEvent 5 (BitVec.ofNat 32 q.code) none

/-- The counter runs on the RC oscillator because the crystal failed (R68). -/
def State.crystalLost (s : State) : Bool := s.pmu.rcOnly && !s.pmu.xtal

/-! ### Markers (R60 to R62) -/

/-- A marker is seen, at an instant less the receive latency (R60): it is counted. One that comes while a step is pending
is discarded (R65). -/
def State.seeMarker (s : State) (lane : Bool) (number : Byte) (latency : W16) : State :=
  let s := s.elapse
  let m : Marker := { number := number, instant := s.now - latency.setWidth 64, lane := lane, tidesLeft := 4,
                      dropped := s.tim.step.isSome }
  { s with tim := { s.tim with markers := s.tim.markers + 1, marks := s.tim.marks ++ [m] } }

/-- Limit of Table TIDE-5 in ns. -/
def markerLimit (lane : Bool) : Nat := if lane then 250 else 2000

/-- TIM_STEPTHR.US as ns. -/
def Tim.stepNs (t : Tim) : Nat := bits t.stepThrNow 0 24 * 1000

/-- A correction held within TIM_SERVO.SLEW (values above 200 act as 200), in 2^-25 ppm. -/
def Tim.slewed (t : Tim) (r : Int) : Int :=
  let m : Int := min (bits t.servoNow 8 8) 200 * 2 ^ 25
  max (-m) (min m r)

/-- A used marker: frequency, rate and qualification (R65, log 13). DESIGN CHOICE (log 130): its age (Table TIDE-7) counts
from the moment its time is used, not from the marker instant. -/
def State.useMarker (s : State) (offset : Int) (lane : Bool) : State :=
  let t := s.tim
  let freq := t.freq + offset * 2 ^ (25 - bits t.servoNow 4 4)
  let s := { s with tim := { t with
    outliers := 0
    freq := freq
    rate := t.slewed (freq + offset * 2 ^ (25 - bits t.servoNow 0 4))
    usedOffset := offset.natAbs
    usedAt := s.now
    qualified := if offset.natAbs ≤ markerLimit lane then t.qualified + 1 else 0 } }
  if 4 ≤ s.tim.qualified ∧ ¬s.crystalLost then s.setQuality .synced else s

/-- The servo on an accepted marker (R65). -/
def State.servo (s : State) (offset : Int) (lane : Bool) : State :=
  let t := s.tim
  let limit := markerLimit lane
  let big := t.stepNs < offset.natAbs
  let first := t.quality = .freeRunning ∧ t.qualified = 0 ∧ limit < offset.natAbs
  if t.stepNs ≠ 0 ∧ (big ∨ first) then
    { s with tim := { t with step := some offset, qualified := 0, outliers := 0 } }.setQuality .freeRunning
  else if t.quality = .synced ∧ 16 * limit < offset.natAbs then
    let s := { s with tim := { t with outliers := t.outliers + 1, mkOutlier := satInc t.mkOutlier } }
    if s.tim.outliers = 4 then { s with tim := { s.tim with qualified := 0, outliers := 0 } }.setQuality .freeRunning else s
  else s.useMarker offset lane

/-- The time of a marker is late or unmatched (R62). -/
def State.lateMarker (s : State) : State := { s with tim := { s.tim with mkLate := satInc s.tim.mkLate } }

/-- A marker time arrives (R62): it is accepted for the marker of its number, at most four boundaries old. DESIGN CHOICE
(log 131): while a step is pending the time of a marker that came before the step is dropped as well, and counted
nowhere. -/
def State.markerTime (s : State) (time : W64) (number : Byte) : State :=
  match s.tim.marks.find? fun m => m.number == number with
  | none => s.lateMarker
  | some m =>
    let s := { s with tim := { s.tim with marks := s.tim.marks.filter fun x => x.number != number } }
    if m.dropped ∨ s.tim.step.isSome then s
    else
      let offset : Int := m.instant.toNat - time.toNat
      { s with tim := { s.tim with mkAcc := satInc s.tim.mkAcc, offset := offset } }.servo offset m.lane

/-- A boundary passes: markers of four tides ago are given up. -/
def Tim.ageMarks (t : Tim) : Tim :=
  { t with marks := (t.marks.map fun m => { m with tidesLeft := m.tidesLeft - 1 }).filter fun m => m.tidesLeft != 0 }

/-- The SB1 pattern of narrow mode (R60): its number is the card's own count (log 34). -/
def execNarrowSyncMarker (s : State) : Out :=
  if s.alive ∧ s.position = 0 ∧ (s.lnk.mode = .narrow ∨ s.lnk.mode = .training) then
    answer (s.seeMarker false s.tim.markers Config.rxlatNarrow)
  else .next s

/-- TIM_HTGO.GO: the time in TIM_HTL and TIM_HTH for marker `seq` (R60, R62). -/
def State.htgo (s : State) (seq : Byte) : State :=
  { s with tim := { s.tim with htSeq := seq } }.markerTime (s.tim.hth ++ s.tim.htl) seq

def execTimHtgo (seq : Byte) (s : State) : Out := if s.alive then answer (s.htgo seq) else .next s

/-! ### Steps (R39) -/

/-- The armed alarm's time is at or before an instant (R59). -/
def Tim.alarmAt (t : Tim) (ns : Nat) : Bool := t.armed && t.alarm.ok && t.alarm.val.toNat ≤ ns

/-- The counter steps at the boundary that has just opened the tide; the next boundary lies at least one period after
the stepped time. -/
def State.applyStep (s : State) (offset : Int) : State :=
  let p := periodNs s.tim.period
  let base : Int := s.tim.next.toNat - p
  let now := (base - offset).toNat
  { s with tim := { s.tim with
    counter := BitVec.ofNat 64 now
    next := BitVec.ofNat 64 (ceilMul (now + p) p)
    step := none
    steps := satInc s.tim.steps
    alarmDue := s.tim.alarmAt now } }

/-- WAITT deadlines that the stepped time reaches (R59). -/
def State.markWaitt (s : State) : State :=
  { s with berths := s.berths.map fun (x : Berth) => match x.cur with
    | some c =>
      if c.phase = .waitt ∧ c.ins.modeBit 0 ∧ c.target ≤ s.now.toNat then { x with cur := some { c with admitted := true } }
      else x
    | none => x }

/-- A pending step is applied at the boundary (R39, R65). -/
def execTimeStep (s : State) : Out :=
  match s.tim.step with
  | some o => if s.tim.opened then answer (s.applyStep o).markWaitt else .next s
  | none => .next s

/-! ### Quality timeouts (Table TIDE-6) -/

/-- TIM_SYNCAGE as it acts, in ns: values below 100 ms act as 100 (Table TIDE-9). -/
def Tim.syncAgeNs (t : Tim) : Nat := max 100 (bits t.syncAgeNow 0 16) * 1000000

/-- The first instant at which the age of the last used marker is above TIM_HOLDMAX. -/
def Tim.holdMaxNs (t : Tim) : Nat := bits t.holdMaxNow 0 14 * 1000000000 + 1

/-- An age of the last used marker is reached before the next boundary. -/
def Tim.agesTo (t : Tim) (ns : Nat) : Bool := t.usedAt.toNat + ns < t.next.toNat

/-- The counter has come to an instant, or has passed it already. -/
def State.comeTo (s : State) (ns : Nat) : State :=
  { s with tim := { s.tim with counter := BitVec.ofNat 64 (max s.tim.counter.toNat ns), opened := false } }

/-- No used marker for TIM_SYNCAGE: holdover, or free-running without the crystal (R67, R68). -/
def execSyncageTimeout (s : State) : Out :=
  if s.tim.quality = .synced ∧ s.tim.agesTo s.tim.syncAgeNs then
    let s := s.comeTo (s.tim.usedAt.toNat + s.tim.syncAgeNs)
    answer ({ s with tim := { s.tim with qualified := 0 } }.setQuality (if s.crystalLost then .freeRunning else .holdover))
  else .next s

/-- The age passes TIM_HOLDMAX: free-running. DESIGN CHOICE (log 133): markers that have qualified in holdover still
count. -/
def execHoldmaxTimeout (s : State) : Out :=
  if s.tim.quality = .holdover ∧ s.tim.agesTo s.tim.holdMaxNs then
    answer ((s.comeTo (s.tim.usedAt.toNat + s.tim.holdMaxNs)).setQuality .freeRunning)
  else .next s

/-! ### Snapshots and the alarm -/

/-- A read of TIM_NOWL by the host latches its snapshot (R57). -/
def State.latchNow (s : State) : State :=
  let s := s.elapse
  { s with tim := { s.tim with snap := s.snapshot } }

/-- A time snapshot has failed its check (Table ARCH-4): F01, and the second one in a tide marks time free-running. -/
def State.snapMismatch (s : State) : State :=
  let again := s.tim.snapBad
  let s := { s with tim := { s.tim with snapBad := true } }.raise 1 .degrade
  if again then { s with tim := { s.tim with qualified := 0 } }.setQuality .freeRunning else s

/-- The berth engine reads on in a berth's snapshot: a broken pair is discarded and taken again (R28, Table ARCH-4). -/
def State.checkSnap (s : State) (b : BerthId) : State :=
  if (s.berth b).snap.ns.ok then s
  else
    let s := s.snapMismatch.elapse
    s.modBerth b fun x => { x with snap := s.snapshot }

def execTimNowlRead (s : State) : Out := if s.alive then .next s.latchNow else .next s

/-- TIM_ALMCTL.ARM (R206). -/
def State.armFromRegs (s : State) : State := s.armAlarm (s.tim.almh ++ s.tim.alml)

def execTimAlmctlArm (s : State) : Out := if s.alive then answer s.armFromRegs else .next s

/-- The alarm's pair is checked: a broken one disarms it and raises F01 (R206). -/
def State.checkAlarm (s : State) : State :=
  if s.tim.armed && !s.tim.alarm.ok then { s with tim := { s.tim with armed := false } }.raise 1 .degrade else s

/-- The alarm's time is reached (R59, R206). -/
def State.fireAlarm (s : State) : State :=
  let s := { s with tim := { s.tim with armed := false, fired := true, alarmDue := false } }
  (s.wakeBy 5 [6, 7]).raiseEvent 8 0 none

/-- The armed alarm fires at the first boundary at or past its time: until a boundary has come that is, nothing happens. -/
def execAlarmFire (s : State) : Out :=
  if s.tim.armed && s.tim.alarmDue then
    if ¬s.tim.alarm.ok then settled s s.checkAlarm else settled s s.fireAlarm
  else .next s

end Sys2Proof.Machine
end

