-- ==== Sys2Proof/Machine/Power.lean ====
section
/-! DEFINITION. Power domains, rails and clocks (R375 to R398): the handshake, failed wakes, failed clocks. -/

namespace Sys2Proof.Machine

/-! ### Going down (R377 to R383) -/

/-- The domains that rely on a domain (Table ARCH-1). The channel sequencers rely on CPU0 alone: the work of the other cores moves
to those left (Table POWER-1). -/
def dependents : Nat → List (Fin 16)
  | 0 => [7, 8, 11, 12, 15]
  | 1 => [6]
  | 2 => [13, 14]
  | 7 => [6]
  | 9 => [2, 3, 4, 5, 6, 7, 10]
  | 10 => [13, 14]
  | 11 => [1]
  | 12 => [2, 3, 4, 5]
  | 15 => [1]
  | _ => []

/-- The domain may never be lowered that far (Table POWER-1). `off`: the target is off. -/
def neverLower (d : Nat) (off : Bool) : Bool := d == 0 || (off && [1, 2, 7, 13, 14].contains d)

/-- Whether a removal is excluded: a release sequence, a forced erase or HALT is in progress (R384, Table POWER-2). -/
def State.powerHeld (s : State) : Bool :=
  s.hup.release != .none || bits s.grd.lock.val 0 2 == 2 || s.flt.halted

/-- The write share holds data. -/
def State.shareHolds (s : State) : Bool := s.shareUsed != 0

/-- The work share holds staging: read data on its way. -/
def State.stagingHolds (s : State) : Bool :=
  upBytes s.nar.up != 0 || upBytes (s.lnk.replayBuf.map (·.2)) != 0 || s.berths.toList.any fun x => match x.cur with
    | some c => c.phase == .upPath || c.phase == .die
    | none => false

/-- A die on the channels of FLA (13) or FLB (14) is busy: an operation that has begun holds one (Table POWER-1). -/
def State.groupBusy (s : State) (d : Nat) : Bool :=
  s.dies.any fun o => o.run && o.need.any fun p => decide (p.1 % 16 < 8) == (d == 13)

/-- Codec work is booked: a die operation that encodes or decodes. -/
def State.codecBusy (s : State) : Bool := s.dies.any fun o => match o.kind with
  | .eraseRow _ | .weedErase .. => false
  | _ => true

/-- A signature or a seal is being formed. -/
def State.sealBusy (s : State) : Bool := !s.log.signing.isEmpty || s.dies.any fun o => match o.kind with
  | .logCopy .. | .program _ => true
  | _ => false

/-- A reservation in force on a GENERAL or COMPAT region. -/
def State.resvOnMap (s : State) : Bool := s.resvs.any fun r => (List.range 64).any fun n =>
  r.names n && (s.rtype n == .general || s.rtype n == .compat)

/-- The conditions of Table POWER-1 under which a block refuses, as the reason of Table POWER-2. -/
def State.ruleRefusal (s : State) (d : Nat) (off : Bool) : Option Nat :=
  let on' := fun (i : Fin 16) => s.dom i == .on
  let when' := fun (c : Bool) (r : Nat) => if c then some r else none
  match d with
  | 1 => when' (floorCost < s.hup.d) 4
  | 2 => when' ([(6 : Fin 16), 9, 10, 12, 13, 14].any on') 6
  | 3 | 4 | 5 => when' (!s.resvs.isEmpty) 5
  | 6 =>
    if off then when' (s.berths.toList.any fun x => x.state != .empty || x.session.set != 1) 6
    else when' (s.berths.toList.any fun x => x.state == .ready || x.state == .running) 6
  | 7 => when' (s.lnk.mode == LinkMode.lane || s.lnk.mode == LinkMode.training || !s.nar.up.isEmpty) 6
  | 8 => when' (s.position != 0 || s.quy.map.val != 0) 6
  | 9 => if s.shareHolds then some 4 else when' s.stagingHolds 6
  | 10 => if s.codecBusy then some 6 else when' (off && s.shareHolds) 4
  | 11 => if s.sealBusy then some 6 else when' (off && s.shareHolds) 4
  | 12 => if off then when' s.resvOnMap 5 else when' (s.dies.any fun o => match o.kind with
      | .read _ | .memberRead _ => true
      | _ => false) 6
  | 13 | 14 => when' (s.groupBusy d) 6
  | 15 => when' (s.hup.ledger != .bench) 6
  | _ => none

/-- Why a request to lower a domain is refused, if it is (R379, R384, Tables POWER-1 and POWER-2; log 35 for the order). -/
def State.lowerRefusal (s : State) (d : Fin 16) (off : Bool) : Option Nat :=
  let relied := (dependents d.val).any fun x => s.dom x == .on
  if s.dom d == .failed then some 9
  else if s.powerHeld then some 7
  else if neverLower d.val off then some 3
  else if relied && (off || !bit s.pmu.auto d.val) then some 1
  else s.ruleRefusal d.val off

/-- An answer stands: REFUSE with its reason. -/
def State.answerRefuse (s : State) (reason : Nat) : State :=
  { s with pmu := { s.pmu with
    pend := false, answer := 3, reason := BitVec.ofNat 4 reason, refusals := satInc s.pmu.refusals } }

/-- ACCEPT takes effect at the next boundary; a domain already that low stays. -/
def State.answerAccept (s : State) (d : Fin 16) (x : Dom) : State :=
  let lower := s.dom d == .on || (s.dom d == .retention && x == .off)
  { s with pmu := { s.pmu with
    pend := false
    answer := 1
    reason := 0
    change := if lower then s.pmu.change.filter (fun c => c.1 != d) ++ [(d, x)] else s.pmu.change } }

/-- TARGET 0 is a wake: accepted unless the domain has failed (R380). -/
def State.wakeRequest (s : State) (d : Fin 16) : State :=
  if s.dom d == .failed then s.answerRefuse 9
  else { s with pmu := { s.pmu with
    answer := 1
    reason := 0
    change := s.pmu.change.filter (fun c => c.1 != d) ++ (if s.dom d == .on then [] else [(d, Dom.on)]) } }

/-- PMU_REQ written with GO (R380). -/
def State.pmuGo (s : State) (v : W32) : Status × State :=
  let d : Fin 16 := Fin.ofNat 16 (bits v 0 4)
  if s.pmu.pend then (.wrongState, s)
  else if bits v 4 2 = 3 then (.badField, s)
  else
    let s := { s with pmu := { s.pmu with
      req := v &&& 0x3F, ansDom := BitVec.ofNat 4 d.val, answer := 0, reason := 0, delayT := 0, delayN := 0 } }
    if bits v 4 2 = 0 then (.ok, s.wakeRequest d) else (.ok, { s with pmu := { s.pmu with pend := true } })

def execPmuReqGo (v : W32) (s : State) : Out := if s.alive then settled s (s.pmuGo (v ||| 0x100)).2 else .next s

/-- The longest delay named. -/
def longestDelay (rs : List PmuReply) : Nat :=
  (rs.map fun r => match r with
    | .delay n => n
    | _ => 0).foldl max 0

/-- The combined answer (R381, R382): the rules of Table POWER-1 and every block's reply. A fifth DELAY is a refusal. -/
def State.combine (s : State) (rs : List PmuReply) : State :=
  let d : Fin 16 := Fin.ofNat 16 (bits s.pmu.req 0 4)
  let off := bits s.pmu.req 4 2 == 2
  let said := rs.findSome? fun r => match r with
    | .refuse x => some x.toNat
    | _ => none
  match s.lowerRefusal d off, said with
  | some r, _ => s.answerRefuse r
  | none, some r => s.answerRefuse r
  | none, none =>
    let n := longestDelay rs
    if n = 0 then s.answerAccept d (if off then .off else .retention)
    else if s.pmu.delayN = 4 then s.answerRefuse 2
    else { s with pmu := { s.pmu with
      answer := 2
      delayT := BitVec.ofNat 5 n
      delayLeft := n
      delayN := s.pmu.delayN + 1
      delays := satInc s.pmu.delays } }

/-- The blocks answer a request (R381). -/
def execPmuAnswer (rs : List PmuReply) (s : State) : Out :=
  if s.alive ∧ s.pmu.pend ∧ s.pmu.answer ≠ 2 then settled s (s.combine rs) else .next s

/-- The tides of a DELAY are over and the blocks answer again (R382); while some are left nothing happens. -/
def execPmuDelayEnd (rs : List PmuReply) (s : State) : Out :=
  if s.alive ∧ s.pmu.pend ∧ s.pmu.answer = 2 ∧ s.pmu.delayLeft = 0 then settled s (s.combine rs) else .next s

/-! ### Changes at the boundary (R376, R385) -/

/-- What a domain loses when it goes off (Table POWER-1). -/
def State.loseDomain (s : State) (d : Fin 16) : State :=
  match d.val with
  | 6 => { s.saveBlocks with pool := [], scratch := [] }
  | 8 => { s with quy := { s.quy with ports := s.quy.ports.map fun p =>
      if p.state = .fenced then p else { p with state := .down } } }
  | 12 => { s with
      ftl := { s.ftl with mapHitMib := 0, missK := 0 }
      pmu := { s.pmu with pgood := s.pmu.pgood &&& 0x33, vdd2In := none } }
  | 15 => { s with mon := { s.mon with pos := 0, failNow := 0, skipNow := 0 } }
  | _ => s

/-- Boundaries from VDD1 to VDD2, 200 us later (R395). -/
def State.railGap (s : State) : Nat := (200000 + periodNs s.tim.period - 1) / periodNs s.tim.period

/-- A rail of the DRAM is up, if it has not failed. -/
def Pmu.railUp (p : Pmu) (k : Nat) : BitVec 6 := if bit p.railFailed k then p.pgood else setBit p.pgood k

/-- A wake of DRAMC from off begins with VDD1 (R395). -/
def State.startRails (s : State) (d : Fin 16) : State :=
  if d = 12 ∧ s.dom 12 = .off then { s with pmu := { s.pmu with pgood := s.pmu.railUp 2, vdd2In := some s.railGap } } else s

/-- VDD2 follows once its time has come. -/
def State.railTide (s : State) : State :=
  match s.pmu.vdd2In with
  | some 0 => s
  | some 1 => { s with pmu := { s.pmu with pgood := s.pmu.railUp 3, vdd2In := none } }
  | some (n + 2) => { s with pmu := { s.pmu with vdd2In := some (n + 1) } }
  | none => s

/-- One change takes effect. -/
def State.changeDom (s : State) (d : Fin 16) (x : Dom) : State :=
  match x with
  | .on =>
    if s.dom d = .failed then s
    else
      let s := (s.startRails d).setDom d .on
      { s with pmu := { s.pmu with waking := setBit s.pmu.waking d.val, lastTime := s.now } }
  | .off => (s.setDom d .off).loseDomain d
  | x => s.setDom d x

/-- Every change due takes effect. -/
def State.changeDoms (s : State) : State :=
  let cs := s.pmu.change
  cs.foldl (fun s c => s.changeDom c.1 c.2) { s with pmu := { s.pmu with change := [] } }

/-- A wake at once, at a reset exit or by the removal sequence (R386, R391). -/
def State.wakeAt (s : State) (p : Dom → Bool) : State :=
  { s with pmu := { s.pmu with
    pgood := if s.dom 12 = .off ∧ p .off then s.pmu.pgood ||| (0x0C &&& ~~~s.pmu.railFailed) else s.pmu.pgood
    vdd2In := none
    dom := s.pmu.dom.map fun x => if p x then .on else x
    change := []
    waking := 0
    lastTime := if s.pmu.dom.toList.any p then s.now else s.pmu.lastTime } }

/-- The domain's wake time has passed (R387). -/
def execDomainWakeDone (d : Fin 16) (s : State) : Out :=
  if bit s.pmu.waking d.val then
    let p := if d = 12 then { s.pmu with pgood := s.pmu.pgood ||| (0x0C &&& ~~~s.pmu.railFailed), vdd2In := none } else s.pmu
    settled s { s with pmu := { p with waking := clearBit p.waking d.val } }
  else .next s

/-- NCLK runs again: wake source 2 (R94). -/
def execNclkRestart (s : State) : Out := if s.alive then settled s (s.wakeBy 2 [7]) else .next s

/-! ### Failed wakes (R396, Table POWER-6) -/

/-- Domains that a rail feeds. -/
def railDomains (k : Nat) : List (Fin 16) := if k = 2 ∨ k = 3 then [12] else if k = 4 ∨ k = 5 then [13, 14] else []

/-- The domain is off after a failed wake. -/
def State.failDomain (s : State) (d : Fin 16) : State :=
  let s := s.setDom d .failed
  { s with pmu := { s.pmu with
    failed := setBit s.pmu.failed d.val
    waking := clearBit s.pmu.waking d.val
    change := s.pmu.change.filter fun c => c.1 != d } }

/-- The members that have joined and are not lost. -/
def State.presentMembers (s : State) : List (Fin 4) :=
  [1, 2, 3].filter fun p => bit s.quy.present p.val && !bit s.quy.lost p.val

/-- What the loss of a domain brings. -/
def State.domainLost (s : State) (d : Fin 16) : State :=
  let s := s.failDomain d
  match d.val with
  | 13 => { s with ftl := { s.ftl with chFence := s.ftl.chFence ||| 0x00FF } }.raise 0 .fence (.domain d)
  | 14 => { s with ftl := { s.ftl with chFence := s.ftl.chFence ||| 0xFF00 } }.raise 0 .fence (.domain d)
  | 12 | 15 => s.raise 0 .degrade
  | 3 => s.raise 0 .degrade (.core 1)
  | 4 => s.raise 0 .degrade (.core 2)
  | 5 => s.raise 0 .degrade (.core 3)
  | 8 => s.presentMembers.foldl (fun s p => s.loseMember p) (s.raise 0 .fence (.domain d))
  | 1 | 2 | 7 => (s.raise 0 .fence (.domain d)).haltEntry 0
  | _ => s.raise 0 .fence (.domain d)

/-- A rail fails for good. A core or I/O rail leaves the device in reset until power is cycled. -/
def State.railLost (s : State) (k : Fin 6) : State :=
  let s := { s with pmu := { s.pmu with
    railFailed := setBit s.pmu.railFailed k.val, pgood := clearBit s.pmu.pgood k.val } }
  if k.val ≤ 1 then { s with rst := { s.rst with power := .railFault, phase := .held } }
  else (railDomains k.val).foldl State.domainLost s

/-- Power-good is missing after 2 ms: the rail or switch is tried once more, then failed. -/
def execRailPgoodTimeout (u : PowerUnit) (s : State) : Out :=
  if s.rst.power ≠ .on then .next s
  else match u with
    | .rail k =>
      if bit s.pmu.railFailed k.val then .next s
      else if bit s.pmu.retried k.val then settled s (s.railLost k)
      else .next { s with pmu := { s.pmu with retried := setBit s.pmu.retried k.val, pgood := clearBit s.pmu.pgood k.val } }
    | .switch d =>
      if s.dom d = .failed then .next s
      else if bit s.pmu.switchRetried d.val then settled s (s.domainLost d)
      else .next { s with pmu := { s.pmu with switchRetried := setBit s.pmu.switchRetried d.val } }

/-! ### Clocks (R392, R397, R398) -/

/-- The crystal and the PLLs report ready: every clock goes to its PLL (R392). -/
def execPllReady (s : State) : Out :=
  if s.alive ∧ ¬s.pmu.rcOnly ∧ ¬s.pmu.pll then
    .next { s with pmu := { s.pmu with pll := true, xtal := true, locks := 0xF } }
  else .next s

/-- Every clock is on the RC oscillator for good: DEGRADE, and on a failed crystal time is free-running (R68). -/
def State.fallToRc (s : State) (xtal : Bool) (locks : BitVec 4) : State :=
  let s := { s with pmu := { s.pmu with pll := false, rcOnly := true, xtal := xtal, locks := locks } }
  let s := s.raise 0 .degrade
  if s.crystalLost then { s with tim := { s.tim with qualified := 0 } }.setQuality .freeRunning else s

/-- Neither was ready within 5 ms (R397); which of them failed is free. -/
def execPllReadyTimeout (s : State) : Out :=
  if s.alive ∧ ¬s.pmu.pll ∧ ¬s.pmu.rcOnly then
    let (n, s) := s.draw
    let xtal := Config.freeBool n
    settled s (s.fallToRc xtal (if xtal then (Config.freeWord n).setWidth 4 else 0))
  else .next s

/-- Lanes that fail their retrain are fenced, and lane mode is left (R106, R124). -/
def State.failLanes (s : State) (lanes : BitVec 6) : State :=
  let s := { s.leaveLane with lnk := { s.leaveLane.lnk with trainFail := true, usable := s.lnk.usable &&& ~~~lanes } }
  ((List.finRange 6).filter fun n => bit lanes n.val).foldl (fun s n => s.raise 29 .fence (.lane n)) s

/-- The monitor block finds a clock lost: every clock returns to the RC oscillator, and the lanes fail their retrain. -/
def execClockLost (c : Clock) (s : State) : Out :=
  if s.alive ∧ s.pmu.pll then
    let t := match c with
      | .crystal => s.fallToRc false 0
      | .pll k => s.fallToRc s.pmu.xtal (clearBit s.pmu.locks k.val)
    settled s (if t.lnk.mode = .lane ∨ t.lnk.mode = .doze then t.failLanes t.lnk.active else t)
  else .next s

/-! ### HREF (R74, R416) -/

/-- HREF is lost: F31 while lanes are in use. -/
def execHrefLost (s : State) : Out :=
  let t := { s with lnk := { s.lnk with hrefOk := false } }
  if s.alive ∧ s.lnk.hrefOk ∧ s.lnk.mode = .lane then settled s (t.raise 31 .degrade) else .next t

/-- HREF is present and stable. -/
def execHrefStable (s : State) : Out := .next { s with lnk := { s.lnk with hrefOk := true } }

end Sys2Proof.Machine
end

