-- ==== Sys2Proof/Machine/Media.lean ====
section
/-! DEFINITION. Die operations end (R21, R27, R313 to R323), media wears out (R322 to R326), and the events of the logbook
and the counters (R280, R291, R296, R308). -/

namespace Sys2Proof.Machine

/-! ### Worn media (R324, R325) -/

/-- The floor of 153.6 GB, in MiB (Table MEDIA-4). -/
def floorMib : Nat := 146484

/-- Unheld slots of a ring above its MINSEG, with 1 added so that 0 means below it. -/
def State.slack (s : State) (r : Nat) : Nat := s.unheld r + 1 - s.minSeg r

/-- Rings that can give a slot up, the one with the most unheld slots above its MINSEG first. -/
def State.donor (s : State) : Option Nat :=
  let rs := s.ringIds.filter fun r => 0 < s.freeSlots r || !(s.takable r).isEmpty
  let m := (rs.map s.slack).foldl max 0
  rs.find? fun r => s.slack r == m

/-- A ring loses a slot (R263): a free one, else the oldest live one, whose segment is dropped. A ring that falls below
its minimum raises F13; it goes on appending and reading. -/
def State.takeRingSlot (s : State) (r : Nat) : State :=
  let was := s.belowMin r
  let free := 0 < s.freeSlots r
  let s := if free then s else match s.takable r with
    | g :: _ =>
      let s := s.dropSeg r g
      let x := s.ring r
      (s.setRing r { x with wraps := satInc x.wraps }).raiseCut r
    | [] => s
  let x := s.ring r
  let s := s.setRing r { x with k := x.k - 1 }
  if s.belowMin r && !was then s.raise 13 .fence else s

/-- GENERAL and COMPAT regions turn read-only for media exhaustion, or no longer (Table MEDIA-5, R326). -/
def State.setMro (s : State) (on' : Bool) : State :=
  { s with rgn := s.rgn.map fun x =>
      if rtypeOf x.cfg.val = .general ∨ rtypeOf x.cfg.val = .compat then { x with mro := on' } else x }

/-- Loss beyond row 1 is taken from ring slots, then from the floor (Table MEDIA-4). -/
def State.absorbRest : Nat → State → State
  | 0, s => s
  | n + 1, s =>
    if s.ftl.lostMib ≤ opMib + 256 * s.ftl.slotsTaken then s
    else match s.donor with
      | some r => State.absorbRest n
          { (s.takeRingSlot r) with ftl := { (s.takeRingSlot r).ftl with slotsTaken := s.ftl.slotsTaken + 1 } }
      | none =>
        if s.ftl.exhausted then s
        else ({ s with ftl := { s.ftl with exhausted := true } }.setMro true).raise 9 .degrade

/-- Row 1 of Table MEDIA-4 is half spent. -/
def opHalf (lost : Nat) : Bool := opMib ≤ 2 * lost

/-- A block of 144 MiB is lost for which no spare remains (R324). -/
def State.loseBlock (s : State) : State :=
  let old := s.ftl.lostMib
  let s := { s with ftl := { s.ftl with lostMib := old + 144 } }
  let s := if opHalf (old + 144) && !opHalf old then s.raise 9 .degrade else s
  let s := s.absorbRest 2
  let edge := opMib + 256 * s.ftl.slotsTaken + floorMib
  if s.ftl.exhausted ∧ old ≤ edge ∧ edge < old + 144 then s.raise 9 .fence else s

/-- Capacity that stands free in place of the absorbed loss: unallocated capacity and unmapped units (R326, log 37). -/
def State.freedMib (s : State) : Nat :=
  let mapped := (((List.range 64).filter fun r => s.rtype r == .general || s.rtype r == .compat).map s.mappedIn).sum * 4096
  let size := (((List.range 64).filter fun r => s.rtype r == .general || s.rtype r == .compat).map fun r =>
    (s.region r).mib).sum
  s.rgnFree + (size - mapped / 1048576)

/-- The exhausted state clears once the absorbed loss fits within row 1 again (R326). -/
def State.clearExhausted (s : State) : State :=
  if s.ftl.exhausted ∧ s.ftl.lostMib ≤ opMib + s.freedMib then
    { s with ftl := { s.ftl with exhausted := false } }.setMro false
  else s

/-! ### Retirement (R322, R323) -/

/-- A block is retired on a die: F53 or F57, by the half that its channel is in (Table FLT-1). -/
def State.noteRetired (s : State) (d : Nat) : State := s.raise (if d % 16 < 8 then 53 else 57) .note

/-- The block of a die in a row that an operation works on: retired, it is replaced by a spare of the same die, the spares
being the die's last blocks (R302, log 149); with none left the row goes on a member short (R322). -/
def State.swapBlock (s : State) (d row left : Nat) : State :=
  let f := fun (r : Row) => if r.id = row then
    { r with blocks := r.blocks.filterMap fun b =>
        if b.1 = d then (if left = 0 then none else some (d, 910 - left)) else some b } else r
  match (s.ftl.rows.find? fun r => r.id == row).bind fun r => r.blocks.find? fun b => b.1 == d with
  | none => s
  | some b => { s with ftl := { s.ftl with rows := s.ftl.rows.map f, retiredBlks := s.ftl.retiredBlks ++ [b] } }

/-- A block of a die is retired (R322, R323); valid units still on it are relocated. `row` is the one that held it, if any. -/
def State.retireBlock (s : State) (d : Fin 128) (row : Option Nat) : State :=
  let n := s.ftl.spares[d]
  let old := (row.bind fun i => s.ftl.rows.find? fun r => r.id == i).bind fun r => r.blocks.find? fun b => b.1 == d.val
  let s := { s with ftl := { s.ftl with
    retiredCount := satInc s.ftl.retiredCount
    health := { s.ftl.health with retired := s.ftl.health.retired + 1 }
    spares := s.ftl.spares.set d.val (n - 1) d.isLt } }
  let s := match row with
    | some i => s.swapBlock d.val i n
    | none => s
  let s := s.noteRetired d.val
  let s := if n = 0 then s.loseBlock else s
  match old with
  | none => s
  | some b =>
    let on' := fun (c : Copy) => c.place.die == d.val && c.place.block == b.2
    s.refreshUnits ((s.store.filter fun p => (p.2.base.map on').getD false).map (·.1))

/-- A logbook or counter-journal block is retired and replaced from the pool; without a spare, one copy or mirror is lost
for good (R290, R296). -/
def State.retireLogBlock (s : State) (d : Nat) (mirror : Option Bool) : State :=
  let n := s.log.spare
  let s := { s with
    log := { s.log.withSpare (n - 1) with retired := satInc s.log.retired }
    ftl := { s.ftl with health := { s.ftl.health with retired := s.ftl.health.retired + 1 } } }
  let s := s.noteRetired d
  if n = 0 then
    let s := { s with log := { s.log with oneCopy := true } }
    match mirror with
    | some mb =>
      let s := { s with ctr := { s.ctr with
        liveA := s.ctr.liveA && mb
        liveB := s.ctr.liveB && !mb
        c := s.ctr.c.map fun (x : Counter) => if mb then { x with b := none } else { x with a := none } } }
      s.raise 9 .degrade
    | none => s
  else match mirror with
    | some mb => { s with ctr := { s.ctr with
        secondA := if mb then s.ctr.secondA else !s.ctr.secondA
        secondB := if mb then !s.ctr.secondB else s.ctr.secondB } }
    | none => s

/-- The pool that an operation's blocks come from: the logbook's, or a stripe set's. -/
def DieKind.logMirror : DieKind → Option (Option Bool)
  | .logCopy .. => some none
  | .ctrMirror _ _ mb _ _ => some (some mb)
  | _ => none

/-- The place that an operation programs on a die, as far as its units tell. -/
def State.placeOfOp (s : State) (k : DieKind) (d : Nat) : Option Place :=
  let places : List Place := match k with
    | .program c => c.units.flatMap fun u =>
        ((s.unitOf u).fresh.filter fun (v : Version) => v.stamp == c.stamp).filterMap Version.place
    | k => k.moves.map Move.place
  places.find? fun p => p.die == d

/-- A new place for a unit that was to be programmed on a die; where none is found it stays (R325). In a deferral it is a pSLC page
of the same stripe set (R405). -/
def State.rePlace (s : State) (pslc : Bool) (d k : Nat) (p : Place) : Place × State :=
  let code := s.codeOf (keyRegion k)
  if p.die ≠ d then (p, s)
  else if pslc && (s.setsFor .seedbed code 1 false).contains (d / 32) then
    match s.placesIn (d / 32) .seedbed .seedbed code 1 with
    | ([q], t) => (q, t)
    | _ => (p, s)
  else match s.givePlaces (if 64 ≤ keyRegion k then .map else p.loc.cls) p.loc code 1 false with
    | some ([q], t) => (q, t)
    | _ => (p, s)

/-- Moves whose pages on a die failed get other pages. -/
def State.reMove (s : State) (pslc : Bool) (d : Nat) (ms : List Move) : List Move × State :=
  ms.foldl (fun (acc : List Move × State) m =>
    let (p, s) := acc.2.rePlace pslc d m.unit m.place
    (acc.1 ++ [{ m with place := p }], s)) ([], s)

/-- A unit's version whose page on a die failed gets another page, from the write share where its data still waits. -/
def State.reVersion (s : State) (pslc : Bool) (d stamp k : Nat) : State :=
  match (s.unitOf k).fresh.find? fun v => v.stamp == stamp with
  | none => s
  | some v => match v.place with
    | none => s
    | some p =>
      let (q, t) := s.rePlace pslc d k p
      t.putUnit k { t.unitOf k with fresh := (t.unitOf k).fresh.map fun x =>
        if x.stamp = stamp then { x with place := some q } else x }

/-- What an operation programmed on a die is programmed again at a new location (R323). -/
def State.reProgram (s : State) (pslc : Bool) (d : Nat) : DieKind → DieKind × State
  | .program c => (.program c, c.units.foldl (State.reVersion · pslc d c.stamp) s)
  | .relocate m => (.relocate ((s.reMove pslc d [m]).1.headD m), (s.reMove pslc d [m]).2)
  | .transplant ms => (.transplant (s.reMove pslc d ms).1, (s.reMove pslc d ms).2)
  | .copyRow r ms => (.copyRow r (s.reMove pslc d ms).1, (s.reMove pslc d ms).2)
  | .weedCopy b region start done rows ms => (.weedCopy b region start done rows (s.reMove pslc d ms).1, (s.reMove pslc d ms).2)
  | k => (k, s)

/-- An operation begins again without a die. -/
def State.redo (s : State) (pslc : Bool) (d : Nat) (o : DieOp) : State :=
  let (k, s) := s.reProgram pslc d o.kind
  { s with dies := s.dies.map fun (x : DieOp) => if x.id = o.id then { x with kind := k, run := false, need := [] } else x }

/-- Whatever was to be programmed on a die that no longer answers is programmed elsewhere (R320, R405). -/
def State.avoidDie (s : State) (pslc : Bool) (d : Fin 128) : State :=
  (s.dies.filter fun o => (s.placeOfOp o.kind d.val).isSome).foldl (fun s o => s.redo pslc d.val o) s

/-- A page program fails (R323): its data is programmed again elsewhere. A block's first failure marks it suspect, a second one
retires it. Of the logbook's and the journals' blocks `second` says which it is. -/
def State.programFailed (s : State) (o : DieOp) (d : Fin 128) (second : Bool) : State :=
  let s := { s with ftl := { s.ftl with health := { s.ftl.health with programFail := s.ftl.health.programFail + 1 } } }
  let at' := s.placeOfOp o.kind d.val
  let s := s.redo false d.val o
  match at' with
  | some p =>
    let b := (p.die, p.block)
    if s.ftl.suspects.contains b then
      { s with ftl := { s.ftl with suspects := s.ftl.suspects.erase b } }.retireBlock d (some p.row)
    else { s with ftl := { s.ftl with suspects := s.ftl.suspects ++ [b] } }
  | none => if !second then s else match o.kind.logMirror with
    | some m => s.retireLogBlock d.val m
    | none => s.retireBlock d none

/-- A block fails its erase and is retired at once (R322). -/
def State.eraseFailed (s : State) (k : DieKind) (d : Fin 128) : State :=
  let row := match k with
    | .eraseRow r => some r
    | .weedErase _ _ _ _ rows => rows.find? fun r => s.ftl.rows.any fun x => x.id == r && x.blocks.any fun b => b.1 == d.val
    | _ => none
  { s with ftl := { s.ftl with health := { s.ftl.health with eraseFail := s.ftl.health.eraseFail + 1 } } }.retireBlock d row

/-- A copy of the logbook leaves the open blocks of a die. -/
def State.leaveLogDie (s : State) (copyB : Bool) (d : Nat) : State :=
  (List.finRange 8).foldl (fun (s : State) g =>
    let c := if copyB then s.log.copyB else s.log.copyA
    if c.opens[g].die ≠ d then s
    else match s.freshLogBlk c g s.log.spare s.log.lent with
      | none => s
      | some (c, spare, lent) =>
        let l := s.log.withSpare spare
        { s with log := if copyB then { l with copyB := c, lent := lent } else { l with copyA := c, lent := lent } }) s

/-- A dead die is fenced (R320); its spares are counted apart (Table MEDIA-6). The logbook goes on in new blocks, and a counter
journal on it counts as retired (R290, R296, log 153). -/
def State.dieDied (s : State) (d : Fin 128) : State :=
  if bit s.ftl.dieFence d.val then s
  else
    let s := s.raise (if d.val % 16 < 8 then 54 else 58) .fence (.die d)
    let s := (s.leaveLogDie false d.val).leaveLogDie true d.val
    let s := if s.ctr.liveA ∧ s.ctr.die false = d.val then s.retireLogBlock d.val (some false) else s
    if s.ctr.liveB ∧ s.ctr.die true = d.val then s.retireLogBlock d.val (some true) else s

/-! ### Reads of the firmware's own (R318, R319) -/

/-- The units that an operation moves. -/
def DieKind.units (k : DieKind) : List Nat := k.moves.map Move.unit

/-- The codewords that an operation of the firmware's own reads, in the order of its decode outcomes; none is one of the card's
own. -/
def State.readItems (s : State) : DieKind → List (Option Nat)
  | .patrol => s.patrolNext.map PatrolItem.unit
  | k => k.units.map some

/-- One unit's outcome: counted; patrol refreshes it (R319), a move is its refresh by itself; a unit that is lost as it is moved
stays lost. -/
def State.ownDecode (s : State) (patrol : Bool) (k : Nat) (d : Decode) : State :=
  match (s.unitOf k).base with
  | none => s
  | some c =>
    let d := s.decodedAs c.code d
    let s := (s.checkNames k c).countDecode c.code d
    if patrol then (if s.refreshes c.code d then s.refreshUnits (s.codewordUnits k c) else s)
    else if d = .lost then s.putUnit k { s.unitOf k with base := some { c with lost := true } }
    else if s.refreshes c.code d then
      { s with ftl := { s.ftl with health := { s.ftl.health with refreshed := s.ftl.health.refreshed + 1 } } }
    else s

/-- The outcome of a codeword of the card's own, which is in the strong code (Table CODE-2): no unit is lost with it. -/
def State.cardDecode (s : State) (d : Decode) : State := if d = .lost then s else s.countDecode .strong d

def State.ownDecodes (s : State) (kind : DieKind) (bs : List (Nat × Decode)) (miscor : Nat) : State :=
  let ks := s.readItems kind
  let s := { s with cod := { s.cod with miscor := satNat 16 (s.cod.miscor.toNat + miscor) } }
  let s := (List.range miscor).foldl (fun s _ => s.raise 41 .note) s
  bs.foldl (fun s p => match ks[p.1]? with
    | some (some k) => s.ownDecode (kind == .patrol) k p.2
    | some none => s.cardDecode p.2
    | none => s) s

/-! ### The end of an operation -/

/-- An operation of any kind succeeds. -/
def State.opOk (s : State) (k : DieKind) : State :=
  match k with
  | .patrol => { s with ftl := { s.ftl with patrolPos := min s.patrolItems.length (s.ftl.patrolPos + patrolSlice) } }
  | k => s.dieOk k

/-- The read of berth `b` ends: LOGREAD takes record outcomes, every other instruction block outcomes. -/
def State.berthRead (s : State) (b : BerthId) (bs : List (Nat × Decode)) (miscor : Nat) (fails : List LogFail) : State :=
  match (s.berth b).cur with
  | some c => if c.ins.op = 0x41 then s.logReadDone b fails else s.readDies b bs miscor
  | none => s

/-- A member's records are read for the master: their images, or those of failed ones (R287 to R289). -/
def State.logServed (s : State) (i : SubInstr) (fails : List LogFail) : State :=
  let d := s.deliveredAll fails (BitVec.ofNat 64 i.unit) (i.records.getD 0)
  let a : SubAnswer := {
    id := i.id, status := (if d.2.isSome then Status.mediaLost else Status.ok).code, writeThrough := false
    payload := d.1, first := d.2 }
  let s := s.logFaults fails
  { s with quy := { s.quy with answers := s.quy.answers ++ [a] } }.eraseArchived

/-- A member's unit is read for the master: its outcomes count as those of any read (R319, R338), and its data go out unless a
block was lost (R27). -/
def State.memberServed (s : State) (i : SubInstr) (bs : List (Nat × Decode)) (miscor : Nat) : State :=
  let r := i.region.val
  let start := i.unit * s.unitBlocks r
  let bs := bs.filter fun p => p.1 < s.unitBlocks r && s.blockOnDie r (start + p.1)
  let gone := bs.any fun p => p.2 == .lost
  let a : SubAnswer := {
    id := i.id, status := (if gone then Status.mediaLost else Status.ok).code, writeThrough := false
    payload := if gone then [] else s.unitData (subKey i), first := none }
  let s := s.decodeRead r start bs miscor
  { s with quy := { s.quy with answers := s.quy.answers ++ [a] } }

/-- Operations that program pages, and those that erase. -/
def DieKind.programs : DieKind → Bool
  | .program _ | .logCopy .. | .ctrMirror .. | .journal .. | .relocate _ | .transplant _ | .copyRow .. | .weedCopy .. => true
  | _ => false

/-- Operations that recovery takes up again: erases, and what a WEED has still to erase (Table MEDIA-3, R317). -/
def DieKind.stays : DieKind → Bool
  | .weedCopy .. => true
  | k => k.erases

/-- A die operation ends with a result. A result that the operation cannot have changes nothing. -/
def State.opDone (s : State) (o : DieOp) (r : DieResult) : State :=
  match r with
  | .programFail d second => if o.kind.programs then s.programFailed o d second else s
  | .dieDead d => (s.dieDied d).avoidDie false d
  | .eraseFail d => if o.kind.erases then ((s.dropDie o.id).eraseFailed o.kind d).opOk o.kind else s
  | .ok => match o.kind with
    | .read b => (s.dropDie o.id).berthRead b [] 0 []
    | .memberLog i => (s.dropDie o.id).logServed i []
    | .memberRead i => (s.dropDie o.id).memberServed i [] 0
    | k => (s.dropDie o.id).opOk k
  | .decoded bs miscor => match o.kind with
    | .read b => (s.dropDie o.id).berthRead b bs miscor []
    | .memberRead i => (s.dropDie o.id).memberServed i bs miscor
    | k => if k.erases then s else ((s.ownDecodes k bs miscor).dropDie o.id).opOk k
  | .logDecoded fails => match o.kind with
    | .read b => (s.dropDie o.id).berthRead b [] 0 fails
    | .memberLog i => (s.dropDie o.id).logServed i fails
    | _ => s

/-- A die operation ends (R21, R27, R307, R313, R320 to R323). -/
def execDieOperationDone (id : Nat) (r : DieResult) (s : State) : Out :=
  if s.rst.power = .on ∧ s.rst.phase ≠ .held then
    match s.dies.find? fun o => o.id == id with
    | some o => if o.run ∧ ¬o.suspended then settled s (s.opDone o r) else .next s
    | none => .next s
  else .next s

/-- A root is written after every 1024 journal entries (R308). -/
def execRootWrite (s : State) : Out :=
  if s.alive ∧ 1024 ≤ s.ftl.since then .next s.writeRoot else .next s

/-! ### Logbook and counters -/

/-- 4096 records past the last checkpoint: the master takes one (R280). -/
def execAutoCheckpoint (s : State) : Out :=
  if s.alive ∧ s.log.cpDue ∧ ¬s.log.fenced ∧ s.position = 0 ∧ ¬s.flt.halted then settled s (s.startCheckpoint none 0)
  else .next s

/-- A checkpoint finds the pool exhausted: it is not sealed but counted (Table LOG-5); its CHECKPT ends. -/
def State.dropCheckpoint (s : State) (c : CpSigning) : State :=
  let s := { s with log := { s.log with signing := s.log.signing.drop 1, unsealed := satInc s.log.unsealed } }
  let s := if c.cost = 0 then s else s.creditItem .sealed c.cost
  match c.owner with
  | some b => s.finishCur b .logbookFull 0 none none
  | none => s

/-- The signature is formed and the checkpoint record sealed (R280, R281). -/
def execCheckpointSigned (s : State) : Out :=
  match s.log.signing with
  | [] => .next s
  | c :: _ => if s.log.exhausted then settled s (s.dropCheckpoint c) else settled s s.signed

/-- A counter journal is full: the live state of every counter goes to the other block of the pair (R296). A broken mirror is
met first (R29). -/
def State.switchJournal (s : State) (mirrorB : Bool) : State :=
  let s := (List.finRange 32).foldl State.checkCounter s
  let copy := fun (x : Counter) => match x.value with
    | some v => if mirrorB then { x with b := some (Pair.mk' v) } else { x with a := some (Pair.mk' v) }
    | none => x
  { s with ctr := { s.ctr with
    c := s.ctr.c.map copy
    secondA := if mirrorB then s.ctr.secondA else !s.ctr.secondA
    secondB := if mirrorB then !s.ctr.secondB else s.ctr.secondB
    usedA := if mirrorB then s.ctr.usedA else 32
    usedB := if mirrorB then 32 else s.ctr.usedB } }

def execCounterJournalSwitch (mirrorB : Bool) (s : State) : Out :=
  let full := if mirrorB then s.ctr.liveB && 12288 ≤ s.ctr.usedB else s.ctr.liveA && 12288 ≤ s.ctr.usedA
  if s.alive ∧ full then settled s (s.switchJournal mirrorB) else .next s

/-- The archive point advances to `v`, and its record, if one is sealed, gives the ledger its item back (R291). -/
def State.advanceArch (s : State) (v : W64) (cost : Nat) : State :=
  let old := s.log.arch
  let s := { s with log := { s.log with arch := v, archWait := none } }
  let payload := leBytes 8 old.toNat ++ leBytes 8 v.toNat
  let s := if s.log.exhausted then
      let s := { s with log := { s.log with unsealed := satInc s.log.unsealed } }
      if cost = 0 then s else s.creditItem .sealed cost
    else s.sealRec { typ := 0x34, colour := 0, card := true, payload := payload, owner := none, cost := cost }
  s.eraseArchived

/-- An advance that waits for the ledger is made once it is covered or its wait ends (R291, R358, log 155). -/
def State.archDue (s : State) : State :=
  match s.log.archWait with
  | none => s
  | some (v, n) =>
    if s.hup.covers sealCost then (s.admitItem .sealed sealCost).advanceArch v sealCost
    else if n ≤ 1 then s.advanceArch v 0
    else { s with log := { s.log with archWait := some (v, n - 1) } }

/-- LOG_CMD.ARCHGO (R291): the value must be the THROUGH of a durable checkpoint above the archive point. The ledger admits
the advance as it does a record. -/
def State.archGo (s : State) : Status × State :=
  let v := s.log.archSetH ++ s.log.archSetL
  let durable := s.log.cps.any fun c => c.through == v && match s.log.find (s.ownSeq c.seq) with
    | some r => r.durable
    | none => true
  if !durable || v.toNat ≤ s.log.arch.toNat then (.badField, s)
  else
    match s.hup.answerItem sealCost with
    | .admitted => (.ok, (s.admitItem .sealed sealCost).advanceArch v sealCost)
    | .writeThrough => (.ok, s.advanceArch v 0)
    | .wait => (.ok, { s with log := { s.log with archWait := some (v, s.hup.waitTides) } })

def execLogArchgo (s : State) : Out := if s.alive then settled s s.archGo.2 else .next s

/-- A read of LOG_CERTDAT serves four bytes and steps the window (Table LOG-9). -/
def State.readCert (s : State) : State :=
  let w := bits s.log.certOff 2 8
  { s with log := { s.log with
    certDat := BitVec.ofNat 32 (ofLe (slice Config.certificate (4 * w) 4))
    certOff := BitVec.ofNat 32 ((w + 1) % 256 * 4) } }

def execLogCertdatRead (s : State) : Out := if s.alive then .next s.readCert else .next s

/-- A read of CTR_VALL latches the selected counter (R293); a fenced counter shows 0 with a complement of 0 (R299). -/
def State.latchCounter (s : State) : State :=
  let n : Fin 32 := Fin.ofNat 32 (bits s.ctr.sel 0 5)
  let s := s.checkCounter n
  match (s.counter n).value with
  | some v => { s with ctr := { s.ctr with snap := Pair.mk' v } }
  | none => { s with ctr := { s.ctr with snap := { val := 0, cpl := 0 } } }

def execCtrVallRead (s : State) : Out := if s.alive then settled s s.latchCounter else .next s

/-- A read of RING_TAILL latches the selected ring's tail and its complement (R270). -/
def State.latchTail (s : State) : State :=
  { s with rng := { s.rng with tailSnap := (s.ring (bits s.rng.sel 0 6)).tail } }

def execRingTaillRead (s : State) : Out := if s.alive then .next s.latchTail else .next s

end Sys2Proof.Machine
end

