-- ==== Sys2Proof/Machine/Memories.lean ====
section
/-! DEFINITION. Memory errors as they arise (R342 to R346), the flip-mask (R347, R348), and the clears of counters. -/

namespace Sys2Proof.Machine

/-- A read finds a correctable error (R342). -/
def execMemoryCorrected (m : Fin 10) (addr : W32) (recurs : Bool) (s : State) : Out :=
  if s.alive then settled s (s.memCe m addr recurs) else .next s

/-! ### Uncorrectable reads (Table MEM-2) -/

/-- A write in progress that has put data into a unit. -/
def State.writesUnit (s : State) (k : Nat) (c : Cur) : Bool :=
  (c.ins.op == 0x21 || c.ins.op == 0x22 || c.ins.op == 0x23) && keyRegion k == c.dest &&
    (List.range c.pos).any fun i => s.blockKey c.dest (c.destStart + i) == k

/-- A unit in the write share is lost: it will be programmed with LOST, and a write not yet completed on it ends. -/
def State.loseBuffered (s : State) (k : Nat) : State :=
  let u := s.unitOf k
  let s := s.putUnit k { u with fresh := u.fresh.map fun v => { v with lost := true } }
  allBerths.foldl (fun s b => match (s.berth b).cur with
    | some c => if s.writesUnit k c then s.writeFail b c .memUncorrectable else s
    | none => s) s

/-- Berths whose parcel data stand in the write share: data that wait, or a piece that is being gathered. -/
def State.gathering (s : State) : List Nat :=
  ((s.berths.toList.zip allBerths).filter fun p => !p.1.chunks.isEmpty || (match p.1.cur with
    | some c => c.phase == .data && !c.acc.isEmpty
    | none => false)).map fun p => p.2.val

/-- The instruction that a berth is being served ends, and the berth stops. -/
def State.servedLost (s : State) (b : BerthId) : State :=
  match (s.berth b).cur with
  | some _ => s.abortCur b .memUncorrectable
  | none => match s.nextInstr b with
    | some q => if (s.berth b).kind then s.finish b q .memUncorrectable else s
    | none => s

/-- The word in the write share held data of one unit, parcel data of one berth, or nothing in use; which is free. The unit is
programmed with LOST; the instruction that the parcel data belong to is the requester (Table MEM-2). -/
def State.shareWordLost (s : State) : State :=
  let (n, s) := s.draw
  let ks := s.bufferKeys
  let bs := s.gathering
  let i := Config.freeChoice n % (ks.length + bs.length + 1)
  match ks[i]?, bs[i - ks.length]? with
  | some k, _ => s.loseBuffered k
  | none, some b => s.servedLost (berthOf b)
  | none, none => s

/-- The berth that holds a pool unit or a scratch page. -/
def State.poolOwner (s : State) (u : Nat) : Option BerthId :=
  allBerths.find? fun b => (s.berth b).poolBase ≤ u && u < (s.berth b).poolBase + (s.berth b).poolUnits

def State.pageOwner (s : State) (p : Nat) : Option BerthId :=
  allBerths.find? fun b => (s.berth b).scrBase ≤ p && p < (s.berth b).scrBase + (s.berth b).scrPages

/-- The berths whose read data stand in the work share. -/
def State.staged (s : State) : List Nat :=
  ((s.berths.toList.zip allBerths).filter fun p => match p.1.cur with
    | some c => c.phase == .upPath || c.phase == .die || c.phase == .cascade
    | none => false).map fun p => p.2.val

/-- The consequence for the requester. A pool word is met by a fetch, a scratch word by a transfer; whose data a work
share word held is free. -/
def State.requesterLost (s : State) (m : Fin 10) (addr : W32) : State :=
  match m.val with
  | 0 =>
    if addr.toNat < writeShareWords then s.shareWordLost
    else
      let (n, s) := s.draw
      match s.staged[Config.freeChoice n % (s.staged.length + 1)]? with
      | some b => s.servedLost (berthOf b)
      | none => s
  | 1 => match s.poolOwner (addr.toNat / 64) with
    | some b => s.servedLost b
    | none => s
  | 2 => match s.pageOwner (addr.toNat / 512) with
    | some b => if (s.berth b).cur.isSome then s.servedLost b else s
    | none => s
  | _ => s

/-- A read finds an uncorrectable error (R343, R344, R346). -/
def execMemoryUncorrectable (m : Fin 10) (addr : W32) (s : State) : Out :=
  if s.alive then settled s ((s.memUe m addr).requesterLost m addr) else .next s

/-! ### The flip-mask where the card itself is the requester (R347, log 159) -/

/-- Memories whose words only the card's own blocks write: the buffer's work share, control-core SRAM, DRAM. -/
def cardMems : List (Fin 10) := [0, 3, 4, 5, 6, 9]

/-- The word of an armed flip-mask is written. -/
def State.flipHits (s : State) (m : Fin 10) : State :=
  let x := s.memOf m
  s.memWrote m (8 * x.flipAddr.toNat + bits x.flipMask 13 3)

/-- An injured word is read by its requester, with the consequences of Tables MEM-1 and MEM-2. -/
def State.flipMet (s : State) (m : Fin 10) (f : Flipped) : State :=
  let (bad, s) := s.memRead m f.addr.toNat 1
  if bad then s.requesterLost m f.addr else s

/-- In the tide that ends, such a word may have been written or read; which is free. -/
def State.flipDue (s : State) : State :=
  cardMems.foldl (fun s m =>
    let x := s.memOf m
    if x.flipArmed then
      let (n, s) := s.draw
      if Config.freeBool n then s.flipHits m else s
    else match x.flipped with
      | [] => s
      | f :: _ =>
        let (n, s) := s.draw
        if Config.freeBool n then s.flipMet m f else s) s

/-- The scrub of the map cache is over: each page whose CRC failed is dropped and counted (R345). -/
def execDramScrub (badPages : List Nat) (s : State) : Out :=
  if s.alive ∧ s.dom 12 = .on ∧ ¬s.dramLost then
    let n := badPages.length
    let t := { s with mem := { s.mem with crcFail := satNat 16 (s.mem.crcFail.toNat + n) } }
    settled s ((List.range n).foldl (fun s _ => s.raise 49 .degrade) t)
  else .next s

/-! ### The flip-mask -/

/-- The memory in MEM_SEL; a reserved number selects none. -/
def State.memSel (s : State) : Option (Fin 10) :=
  let n := bits s.mem.sel 0 4
  if h : n < 10 then some ⟨n, h⟩ else none

/-- MEM_FLIPCTL.ARM (R347, R348). -/
def State.armFlip (s : State) : Status × State :=
  match s.memSel with
  | none => (.ok, s)
  | some m =>
    let x := s.memOf m
    let check := bits x.flipMask 8 5 % (if m.val = 9 then 16 else 32)
    if bits x.flipMask 0 8 = 0 ∧ check = 0 then (.badField, s)
    else if m.val = 7 ∨ m.val = 8 ∨ (m.val = 0 ∧ x.flipAddr.toNat < writeShareWords) then (.badField, s)
    else (.ok, s.setMem m { x with flipArmed := true })

def execMemFlipctlArm (s : State) : Out := if s.alive then .next s.armFlip.2 else .next s

/-! ### Clears -/

/-- COD_PEAK.CLR. -/
def State.clearPeak (s : State) : State := { s with cod := { s.cod with peakBits := 0, peakCode := 0 } }

def execCodPeakClr (s : State) : Out := if s.alive then .next s.clearPeak else .next s

/-- LNK_CLR.COUNT (Table LANE-8). -/
def State.clearLink (s : State) : State :=
  { s with
    nar := { s.nar with tokCrc := 0, oversize := 0, timeout := 0 }
    lnk := { s.lnk with hcrc := 0, pcrc := 0, format := 0, oversize := 0, retrainCount := 0, seqGap := 0, noCredit := 0,
                        dozeDecline := 0 } }

def execLnkClr (s : State) : Out := if s.alive then .next s.clearLink else .next s

end Sys2Proof.Machine
end

