-- ==== Sys2Proof/Machine/HoldUp.lean ====
section
/-! DEFINITION. Hold-up energy, the removal sequence and the release sequence (R350 to R374). -/

namespace Sys2Proof.Machine

/-! ### The capacitance test (R351 to R353) -/

/-- The debit of a test in 0.25 mJ: 0.1 A x V x 10 ms. -/
def capCost (mv : Nat) : Nat :=
  let e := 4 * mv
  if e % 1000 = 0 then e / 1000 else if Config.roundUpEnergy e then e / 1000 + 1 else e / 1000

/-- A test can begin: bank, VIN and debit allow it, and none runs. -/
def State.capReady (s : State) : Bool :=
  s.alive && s.hup.capTest.isNone && s.hup.ledger != .bench && 6000 ≤ s.hup.vinMv.toNat &&
    s.hup.d + capCost s.hup.bankMv.toNat ≤ s.hup.usable

/-- A test is asked for: it begins, or waits for the next tide. -/
def State.askCapTest (s : State) : State :=
  if s.capReady then
    let n := capCost s.hup.bankMv.toNat
    { s.debitBy n with hup := { (s.debitBy n).hup with
      capTest := some n, capReq := false, charging := false, capFrom := s.tim.counter } }
  else if s.hup.ledger = .bench then s
  else { s with hup := { s.hup with capReq := true } }

/-- The schedule starts a test 60 min after the last one began; before that nothing happens (R351). -/
def execCapTestStart (s : State) : Out :=
  if s.alive ∧ s.hup.capFrom.toNat + 3600000000000 ≤ s.tim.counter.toNat then settled s s.askCapTest else .next s

/-- HUP_CAPTEST.GO: a test at the next tide. -/
def State.capGo (s : State) : State := { s with hup := { s.hup with capReq := true } }

def execHupCaptestGo (s : State) : Out := if s.alive then .next s.capGo else .next s

/-- C in uF of a drop in mV: 0.1 A x 10 ms / dV; the part below 1 uF rounds freely (log 12). -/
def capOf (mv : Nat) : Nat :=
  if 1000000 % mv = 0 then 1000000 / mv
  else if Config.roundUpCap mv then 1000000 / mv + 1 else 1000000 / mv

/-- A good test: C is the measured one, and the health report commits it. -/
def State.capGood (s : State) (mv : Nat) : State :=
  let s := s.elapse
  let c := capOf mv
  let h := s.ftl.health
  { s with
    hup := { s.hup with capUf := satNat 16 c, capGood := true, capAt := some s.now, capLast := 1, capFails := 0 }
    ftl := { s.ftl with health := { h with
      capLast := BitVec.ofNat 32 c
      capLow := if h.capLow = 0 ∨ c < h.capLow.toNat then BitVec.ofNat 32 c else h.capLow } } }

/-- A bad test: tried again at the next tide, and after two in a row C is 0 and F60 is raised (R352). -/
def State.capBad (s : State) : State :=
  let n := s.hup.capFails + 1
  let s := { s with hup := { s.hup with capFails := n } }
  if n < 2 then { s with hup := { s.hup with capLast := 2, capReq := true } }
  else { s with hup := { s.hup with capLast := 3, capUf := 0, capGood := false } }.raise 60 .degrade

/-- The test ends: its debit is credited, the charger resumes. -/
def execCapTestEnd (mv : Nat) (s : State) : Out :=
  match s.hup.capTest with
  | none => .next s
  | some n =>
    if s.alive then
      let t := s.creditBy n
      let t := { t with hup := { t.hup with capTest := none, charging := true } }
      settled s ((if 50 ≤ mv ∧ mv ≤ 5000 then t.capGood mv else t.capBad).ledgerUpdate)
    else .next s

/-- A read of HUP_EU latches its snapshot (R374). -/
def State.latchEu (s : State) : State := { s with hup := { s.hup with snapEu := s.hup.eu, snapDebit := s.hup.debit } }

def execHupEuRead (s : State) : Out := if s.alive then settled s s.checkLedger.latchEu else .next s

/-! ### Intake stops (step 1 of Table HUP-3, R405) -/

/-- Rows whose copy was dropped are no longer being moved out of. -/
def State.stillRows (s : State) : State :=
  { s with ftl := { s.ftl with rows := s.ftl.rows.map fun (r : Row) => { r with moving := false } } }

/-- Own work that no promise rests on is dropped; erases stay, to be redone (R314, Table MEDIA-3). -/
def DieKind.dropped : DieKind → Bool
  | .read _ | .relocate _ | .transplant _ | .copyRow .. | .patrol | .memberLog _ | .memberRead _ => true
  | _ => false

/-- The map units of a member's part: 4096 bytes each. -/
def partUnits (i : SubInstr) : List (Nat × List Byte) :=
  (List.range ((i.payload.length + 4095) / 4096)).map fun j =>
    (unitKey i.region.val (i.unit + j), (slice i.payload (4096 * j) 4096) ++ zeros (4096 * (j + 1) - i.payload.length))

/-- A provisional part of a split piece is present exactly if the master recorded the piece whole, which the member cannot
know: it is free (R453). -/
def State.settlePart (s : State) (i : SubInstr) : State :=
  let (n, s) := s.draw
  let ks := (partUnits i).map (·.1)
  -- The part's versions carry the number of its sub-instruction's admission.
  let stamp := (ks.flatMap fun k => (s.unitOf k).fresh.map Version.stamp).foldl max 0
  if Config.freeBool n then
    s.addDie (.program { units := ks, stamp := stamp, moves := [], after := [], owner := none, cost := dataCost i.payload.length,
                         kib := kibOf i.payload.length, blocks := 0, commit := false })
  else ks.foldl (State.dropVersion · stamp) s

/-- Intake is over: what is not admitted is gone, a piece in its data phase is absent and its wrap undone, write-through
changes that are not durable vanish (Table HUP-5, R364, Table RING-4), and nobody is answered any more. -/
def State.stopIntake (s : State) : State :=
  let cut := allBerths.filterMap fun b => (s.berth b).cur.bind fun c =>
    if c.ins.op = 0x31 then some (b, c.ins.tag, c.region, c.start) else none
  let s := { s with
    ftl := { s.ftl with weedsCut := s.ftl.weedsCut ++ cut }
    hup := { s.hup with queue := [], capTest := none, capReq := false, charging := false }
    berths := s.berths.map fun (x : Berth) => { x with cur := none, why := .none, chunks := [] }
    grd := { s.grd with gate := none }
    scr := Scr.init
    quy := { s.quy with out := [] } }
  let s := (s.disownBy fun _ => true).withdraw Change.thru
  let s := s.ringIds.foldl State.unwrap s
  let s := (s.quy.held.filter fun h => !h.waiting).foldl (fun s h => s.settlePart h.sub) s
  let s := { s with quy := { s.quy with held := [] } }
  { s with dies := s.dies.filter fun o => !o.kind.dropped }.stillRows

/-- Completions that the host has not been told of, over all berths (R165). -/
def State.unreported (s : State) : W32 :=
  BitVec.ofNat 32 ((s.berths.toList.map fun x => (x.cseq - x.rseq).toNat).sum)

/-- The status blocks are committed (R164), and with them the count of R165 and LOG_STAT.UNSEALED (R414). -/
def State.commitBlocks (s : State) : State :=
  { s.saveBlocks with bth := { s.bth with unrep := s.unreported }, log := { s.log with unsealedKept := s.log.unsealed } }

/-- Admitted checkpoints whose signature is being formed are signed and sealed; what the ledger never covered is dropped
(R297, Table HUP-5). -/
def State.signPromised (s : State) : State :=
  s.log.signing.foldl (fun s c =>
    if c.cost ≠ 0 ∧ ¬s.log.exhausted then s.signed
    else { s with log := { s.log with signing := s.log.signing.drop 1 } }) s

/-- Every promise is kept: programs, records, counter steps, the journal (steps 2 and 3). -/
def State.keepPromises (s : State) : State :=
  let s := s.signPromised
  s.finishPromised s.promisedFuel

/-! ### An unclean end (R297, R405, Tables HUP-5, RING-4, LOG-6, MEDIA-3) -/

/-- Ring items land in every case (Table RING-4): append units in the buffer, HOLD, RELEASE, HARVEST. -/
def Change.ringItem (s : State) (c : Change) : Bool :=
  c.after.any (fun a => match a with
    | .hold _ | .release _ | .harvest .. => true
    | _ => false) ||
  c.units.any fun k => s.rtype (keyRegion k) == .ring

/-- Two changes bear on one another: units they share, or a GUARD or an APPLY each (log 41). -/
def Change.meets (c d : Change) : Bool :=
  c.units.any d.units.contains ||
  (c.after.any (fun a => match a with
    | .restore _ => true
    | _ => false) &&
   d.after.any fun a => match a with
    | .restore _ => true
    | _ => false)

/-- Which of the open changes land, in order: ring items always, the firmware's own moves never, every other one freely;
changes that bear on others share one outcome. -/
def State.landing (s : State) (cs : List Change) (n : Nat) : List Bool :=
  cs.zipIdx.map fun p =>
    let c := p.1
    if !c.units.isEmpty || c.commit then
      c.ringItem s ||
        Config.freeBool (if (cs.zipIdx.any fun q => q.2 != p.2 && q.1.meets c) then n else n + 1 + p.2)
    else c.after.any (fun a => match a with
      | .eraseKeys | .blocks _ => true
      | _ => false) && Config.freeBool (n + 1 + p.2)

/-- The counts and histories of the tides after the last root are lost or not, freely (R328, log 68); how often power ended
is not among them. -/
def State.loseHistories (s : State) : State :=
  let (n, s) := s.draw
  let h := s.ftl.health
  let back := { s.ftl.healthKept with clean := h.clean, unclean := h.unclean }
  { s with ftl := { s.ftl with health := bif Config.freeBool n then h else back } }

/-- Status blocks are reloaded as last committed (R164), or, where what they held may be kept, each freely as one or the other. -/
def State.reloadBlocks (s : State) (mayKeep : Bool) : State :=
  let n := s.freeCtr
  { s with
    freeCtr := if mayKeep then n + 512 else n
    berths := Vector.ofFn fun b => bif mayKeep && Config.freeBool (n + b.val) then s.berths[b] else s.berths[b].reload }

/-- Power ends before every promise is kept. Each change lands or vanishes whole; each program of a record or a counter
mirror that was under way is done or not, freely; recovery finds what is left (State.recoverLog). Status blocks stand as they were
last committed, or, with `mayKeep`, freely as they stood (log 115). -/
def State.cutShort (s : State) (mayKeep : Bool) : State :=
  let cs := s.openChanges fun _ => true
  let n := s.freeCtr
  let s := { s with freeCtr := s.freeCtr + 1 + cs.length }
  let land := (cs.zip (s.landing cs n)).filterMap fun p => if p.2 then some p.1 else none
  let gone := (cs.zip (s.landing cs n)).filterMap fun p => if p.2 then none else some p.1
  let ops := s.dies
  let s := { s with
    dies := s.dies.filter fun o => o.kind.stays
    ftl := { s.ftl with changes := [] } }
  let s := gone.reverse.foldl State.undoChange s
  let s := land.foldl State.commitChange s
  let m := s.freeCtr
  let s := { s with freeCtr := s.freeCtr + ops.length }
  let s := ops.zipIdx.foldl (fun s p => match p.1.kind with
    | .logCopy q cb => if Config.freeBool (m + p.2) then s.logCopyDone q cb else s
    | .ctrMirror i v mb _ _ => if Config.freeBool (m + p.2) then s.mirrorDone i v mb else s
    | _ => s) s
  let s := s.loseHistories.reloadBlocks mayKeep
  -- Records sealed by what landed are cut off with the rest.
  { s with
    dies := s.dies.filter fun o => o.kind.stays
    ftl := { s.ftl with changes := [] }
    log := { s.log with signing := [] }
    bth := { s.bth with unrep := s.unreported } }

/-! ### Removal (R362 to R368) -/

/-- What step 1 notes of the removal. How long steps 1 to 4 take is free, at most the 20 ms of Table HUP-3 (log 14). -/
def State.noteRemoval (s : State) (src : Nat) (clean : Bool) : State :=
  let (n, s) := s.draw
  { s with
    hup := { s.hup with
      rmvSrc := BitVec.ofNat 2 src
      rmvClean := clean
      rmvMs := BitVec.ofNat 8 (Config.freeChoice n % 21)
      rmvEu := satNat 16 (s.hup.usable / 4) }
    rst := { s.rst with uncleanLast := !clean }
    ftl := { s.ftl with health := { s.ftl.health with
      clean := s.ftl.health.clean + clean.toNat
      unclean := s.ftl.health.unclean + (!clean).toNat } } }

/-- Payload of the removal record (Table LOG-4). -/
def removalPayload (src eu kib : Nat) : List Byte :=
  leBytes 1 src ++ zeros 3 ++ leBytes 4 eu ++ leBytes 4 kib

/-- Power has been cycled: HALT and factory test mode end (R404, R428). -/
def State.powerCycled (s : State) : State := { s with flt := { s.flt with halted := false, factory := false } }

/-- Power is gone. -/
def State.powerOff (s : State) : State :=
  { s.powerCycled with rst := { s.rst with power := .off, phase := .held, asserted := 0, widest := .total } }

/-- Steps 5 and 6: the rails go off. With VIN back, the PMU holds them off and a Total reset follows (R365). -/
def State.railsOff (s : State) (vinBack : Bool) : State :=
  let s := { s with
    pmu := { s.pmu with pgood := 0, pll := false }
    lnk := { s.lnk with wakeLow := false, sent := [] }
    hup := { s.hup with onBank := false, release := .none, removing := false } }
  if vinBack then
    { s.powerCycled with rst := { s.rst with
      phase := .held, widest := .total, asserted := 0x1000, cause := 0x1000, strapFaults := 0, trimTries := 0, trimRec := 0 } }
  else s.powerOff

/-- Whether the removal is clean (R365): promises are covered by what the bank yields, nothing recovers, no bench, no HALT. -/
def State.removalClean (s : State) (yieldMj4 : Nat) : Bool :=
  s.rst.phase != .held && s.rst.level == .ready && !s.flt.halted && s.hup.ledger != .bench && s.hup.d ≤ yieldMj4

/-- Steps 2 to 6: what was promised is finished, the journal, a root and the status blocks are committed, the record is
sealed, the rails go off. What the bank cannot finish is cut short (R365). -/
def State.finishRemoval (s : State) : State :=
  let s := if s.hup.rmvClean then
      let s := s.keepPromises.commitBlocks.writeRoot
      (s.sealCard 0x12 (removalPayload s.hup.rmvSrc.toNat s.hup.rmvMj s.hup.rmvKib)).keepPromises
    else s.cutShort (s.hup.ledger != .bench)
  s.railsOff s.hup.rmvBack

/-- The domains in retention. -/
def State.retained (s : State) : List (Fin 16) := (List.finRange 16).filter fun d => s.dom d == .retention

/-- Step 1 of the removal sequence (Table HUP-3): intake stops, the rails run on the bank, erases are suspended, SB0 is low
with cause 2. The steps after it end at the next boundary (log 14); a part held in reset has only its rails to turn off. -/
def State.remove (s : State) (src yieldMj4 : Nat) (vinBack : Bool) : State :=
  let kib := s.hup.kib
  let mj := s.hup.usable / 4
  let halted := s.flt.halted
  let s := s.noteRemoval src (s.removalClean yieldMj4)
  let s := ((s.refuseReq 7).wakeBy 4 s.retained).wakeAt fun x => x == .retention
  let s := { s with quy := { s.quy with removalSent := s.quy.removalSent || s.quy.map.val != 0 } }
  let s := if halted then s else s.stopIntake
  let s := { s with
    hup := { s.hup with removing := true, rmvKib := kib, rmvMj := mj, rmvBack := vinBack, onBank := true }
    lnk := { s.lnk with wakeLow := false }
    dies := s.dies.map fun (o : DieOp) => { o with suspended := o.suspended || o.kind.erases } }
  if s.rst.phase = .held then s.finishRemoval else s

/-- A start event (R362): without power nothing runs, and during the sequence a second one changes nothing; in a reset that
only a power cycle ends, power goes off. -/
def State.removalEvent (s : State) (src yieldMj4 : Nat) (vinBack : Bool) : State :=
  match s.rst.power with
  | .on => if s.hup.removing then s else s.remove src yieldMj4 vinBack
  | .off => s
  | _ => if vinBack then s else s.powerOff

/-- DET# low on two AON clocks in a row. -/
def execDetFall (yieldMj4 : Nat) (vinBack : Bool) (s : State) : Out := .next (s.removalEvent 1 yieldMj4 vinBack)

/-- VIN below 6.0 V for 20 us. -/
def execVinCollapse (yieldMj4 : Nat) (vinBack : Bool) (s : State) : Out := .next (s.removalEvent 2 yieldMj4 vinBack)

/-- The 10 ms of R365 are over: the last source is released, and the exit of the Total reset follows. -/
def execPmuRestartTimeout (s : State) : Out :=
  .next { s with rst := { s.rst with asserted := clearBit s.rst.asserted 12 } }

/-! ### The release sequence (R369, R370, Table HUP-7) -/

/-- A press that counts, unless one of the cases of R369 holds (log 14 for a press during a removal). -/
def State.pressCounts (s : State) (ms : Nat) : Bool :=
  s.alive && s.position == 0 && 50 ≤ ms && !(bits s.grd.lock.val 0 2 == 1 && 8000 ≤ ms) &&
    bits s.grd.lock.val 0 2 != 2 && !s.flt.halted && s.hup.release == .none

/-- A press that ends: wake source 3, and step 1, or, during a stop-change-restart, later (R467). -/
def State.press (s : State) : State :=
  let s := s.wakeBy 3 [6, 7]
  if s.scr.active || s.scr.draining then { s with hup := { s.hup with pressLatched := true } } else s.startRelease

/-- BTN# was low for `ms` milliseconds and rises. -/
def execBtnPress (ms : Nat) (s : State) : Out := if s.pressCounts ms then settled s s.press else .next s

/-- Every signature that is being formed is formed, and its checkpoint sealed. -/
def State.signAll (s : State) : State := s.log.signing.foldl (fun s _ => s.signed) s

/-- The checkpoint of a release starts, or is counted where the pool is exhausted. -/
def State.lastCheckpoint (s : State) : State :=
  if s.log.fenced then s
  else if s.log.exhausted then { s with log := { s.log with unsealed := satInc s.log.unsealed } }
  else s.signAll.startCheckpoint none 0

/-- Instructions of berths 8-511 that are not at a boundary complete with ABORTED. -/
def State.abortHigh (s : State) : State :=
  allBerths.foldl (fun s b => if 8 ≤ b.val then s.abortCur b .aborted else s) s

/-- Step 3 of Table HUP-7 and the start of step 4: the record is sealed, berths 8-511 and the firmware's media work are quiesced.
`how`: 0 the host has finished, 1 two seconds have passed. -/
def State.releaseCard (s : State) (how : Nat) : State :=
  let s := s.ownRecord 0x11 (leBytes 1 how ++ zeros 3)
  let s := { s with dies := s.dies.filter fun o => match o.kind with
    | .transplant _ | .copyRow .. | .patrol => false
    | _ => true }.stillRows
  { s with hup := { s.hup with release := .closing, relLeft := 64 } }.holdBerths

/-- The end of step 4: instructions that are not at a boundary end, and step 5 begins with the checkpoint. -/
def State.releaseStill (s : State) : State :=
  let s := s.keepPromises.abortHigh
  { s with hup := { s.hup with relLeft := 0 } }.holdBerths.keepPromises.lastCheckpoint

/-- The rest of step 5, once the members have had their tide to answer (R282): the signature, the journal, a root and the status
blocks are committed, and the card is safe. -/
def State.releaseEnd (s : State) : State :=
  let s := s.signAll.keepPromises.writeRoot.commitBlocks
  { s with hup := { s.hup with release := .safe } }.command .releaseCommit

/-- Step 4 ends at the first boundary at which berths 8-511 are at rest, after 64 tides at the latest (Table HUP-7); step 5 ends at
the next one. -/
def State.releaseDue (s : State) : State :=
  if s.hup.release ≠ .closing ∨ s.flt.halted then s
  else if s.hup.relLeft = 0 then s.releaseEnd
  else if s.hup.relLeft = 1 ∨ (allBerths.all fun b => b.val < 8 || (s.berth b).cur.isNone) then s.releaseStill
  else { s with hup := { s.hup with relLeft := s.hup.relLeft - 1 } }

/-- HUP_REL.DONE: ignored unless PENDING. -/
def State.relDone (s : State) : State := if s.hup.release = .pending then s.releaseCard 0 else s

def execHupRelDone (s : State) : Out := if s.alive then settled s s.relDone else .next s

/-- Two seconds after step 1 the host has not finished. -/
def execReleaseTimeout (s : State) : Out :=
  if s.alive ∧ s.hup.release = .pending then settled s (s.releaseCard 1) else .next s

/-! ### The lamp (Table HUP-8) -/

/-- Any source of FENCE class or above is uncleared. -/
def State.fenceShown (s : State) : Bool := s.flt.src.toList.any fun x => x.sticky && 2 ≤ x.cls.code

/-- The row now shown. -/
def State.lampCode (s : State) : Nat :=
  let stuck := s.rst.power == .strapFault || s.rst.power == .trimFault
  if stuck || s.flt.halted || s.fenceShown then 1
  else if bits s.grd.lock.val 0 2 = 2 then 2
  else if s.hup.removing || s.hup.release == .closing then 3
  else if s.highest = some .degrade then 4
  else if s.hup.release = .safe then 5
  else 6

/-- The lamp's colours, each on its own ball: LMPG green, LMPA amber, LMPD red (R371). -/
inductive Lamp where
  | green
  | amber
  | red
  deriving DecidableEq, Repr

/-- Lit for the first half of each period. -/
def firstHalf (periodMs ms : Nat) : Bool := decide (ms % periodMs < periodMs / 2)

/-- A row of Table HUP-8 at a moment of its blinking: whether a colour is lit `ms` after the row first showed. Slow is 1 Hz, fast is
4 Hz, alternation 2 Hz with one colour per half period (R371). Which half comes first is a choice (log 165). -/
def lampLit (row : Nat) (c : Lamp) (ms : Nat) : Bool :=
  match row with
  | 1 => c == .red
  | 2 => (c == .red && firstHalf 500 ms) || (c == .green && !firstHalf 500 ms)
  | 3 => c == .amber && firstHalf 250 ms
  | 4 => c == .amber
  | 5 => c == .green
  | _ => c == .green && firstHalf 1000 ms

/-- What the lamp balls drive: nothing without power, nor on a member, whose balls stay undriven (Table CASC-1). -/
def State.lampOut (s : State) (c : Lamp) (ms : Nat) : Bool :=
  s.rst.power != .off && s.position == 0 && lampLit s.lampCode c ms

/-! ### The alert line -/

/-- Any sticky of this controller is set, masked or not (R423). -/
def State.anySticky (s : State) : Bool := s.flt.src.toList.any fun x => x.sticky

/-- The interrupt line of a block to the control cores: a sticky of it is set whose FLT_MASKb bit is not (R424). -/
def State.blockIrq (s : State) (b : Fin 16) : Bool :=
  (List.range 4).any fun j => s.flt.src[Fin.ofNat 64 (4 * b.val + j)].sticky && !bit s.flt.mask[b] j

/-- ALERT# is low (R423). The master drives it for every controller of the cartridge, the members that it knows by their reports
among them; a member's ball stays undriven (Table CASC-1), and the ball works once the straps are read (R482). -/
def State.alertLow (s : State) : Bool :=
  s.rst.power == .on && s.rst.phase != .held && s.position == 0 &&
    (s.anySticky || (s.presentMembers.filterMap fun p => s.quy.reports[p]).any fun r => r.stickies != 0)

end Sys2Proof.Machine
end

