-- ==== Sys2Proof/Machine/ResetOps.lean ====
section
/-! DEFINITION. What each reach clears (R403, Table RST-2), and recovery at a start (R243, R297, R309, R317, R438). -/

namespace Sys2Proof.Machine

/-! ### Warm reach -/

/-- A berth after a reset: a best-effort stream berth, its status block kept as it stood (R143, R164, log 143). -/
def Berth.cleared (x : Berth) : Berth :=
  { Berth.init with
    kept := some (x.kept.getD x.block)
    saved := x.saved
    cseq := x.cseq, rseq := x.rseq, lastStatus := x.lastStatus, lastOpcode := x.lastOpcode, lastTag := x.lastTag,
    lastDone := x.lastDone, lastFirst := x.lastFirst, lastQfree := x.lastQfree, badTag := x.badTag, badStat := x.badStat }

/-- Berths, pool and scratch after a reset or a block reset of BERTH (R143). -/
def State.clearBerths (s : State) : State :=
  { s with
    berths := s.berths.map Berth.cleared
    pool := []
    scratch := []
    scrTags := Vector.replicate 64 0 }

/-- Time after a reset: the counter, its quality, the alarm, the RWS fields and what counts since the last cold reset stay;
the period is 125 us (R35, R56, Table TIDE-9). DESIGN CHOICE (log 132): a pending step, the qualification, the markers
still open and the frequency and rate corrections are lost. -/
def Tim.warm (t : Tim) : Tim :=
  { Tim.init with
    counter := t.counter
    next := BitVec.ofNat 64 (ceilMul (t.counter.toNat + 1) 125000)
    quality := t.quality, usedOffset := t.usedOffset, usedAt := t.usedAt
    servo := t.servo, stepThr := t.stepThr, syncAge := t.syncAge, holdMax := t.holdMax
    servoNow := t.servo, stepThrNow := t.stepThr, syncAgeNow := t.syncAge, holdMaxNow := t.holdMax
    alml := t.alml, almh := t.almh, alarm := t.alarm, armed := t.armed
    mkAcc := t.mkAcc, steps := t.steps }

/-- The link after a reset: narrow mode without agreed parameters; the usable mask, coefficients, RWS fields and counters
stay (R103, R139). -/
def Link.warm (l : Link) : Link :=
  { Link.init with
    usable := l.usable, dn1 := l.dn1, dn2 := l.dn2, dn3 := l.dn3, up1 := l.up1, up2 := l.up2, up3 := l.up3
    hcrc := l.hcrc, pcrc := l.pcrc, format := l.format, oversize := l.oversize, retrainCount := l.retrainCount
    seqGap := l.seqGap, noCredit := l.noCredit, dozeAllow := l.dozeAllow, dozeDecline := l.dozeDecline
    wakeEn := l.wakeEn, hrefOk := l.hrefOk, replayCount := l.replayCount }

/-- Hold-up after a reset: figures start again; what was measured, stored or RWS stays. -/
def Hup.warm (h : Hup) : Hup :=
  { Hup.init with
    ledger := if h.ledger = .bench then .bench else .waiting
    charging := h.ledger != .bench
    firstTest := h.firstTest, capGood := h.capGood, capUf := h.capUf, capAt := h.capAt, capFrom := h.capFrom
    capLast := h.capLast, capFails := h.capFails
    cfg := h.cfg, chg := h.chg, chgNow := h.chg, waits := h.waits, wt := h.wt
    rmvSrc := h.rmvSrc, rmvClean := h.rmvClean, rmvMs := h.rmvMs, rmvEu := h.rmvEu }

/-- Domains are on but for failed ones; every clock is on the RC oscillator until a PLL reports ready (R391, R392). -/
def Pmu.warm (p : Pmu) : Pmu :=
  { Pmu.init with
    dom := p.dom.map fun d => if d = .failed then .failed else .on
    auto := p.auto, failed := p.failed, railFailed := p.railFailed, rcOnly := p.rcOnly
    pgood := if p.dom[12] = .failed then p.pgood else p.pgood ||| (0x0C &&& ~~~p.railFailed)
    xtal := p.xtal && p.rcOnly, locks := if p.rcOnly then p.locks else 0 }

/-- A protected memory after a reset: counts are clear and the flip-mask disarmed; remap entries stay (R344, R348). Only
the safety pair, the retained SRAM and DRAM keep their content. -/
def Mem.warm (i : Nat) (m : Mem) : Mem :=
  { Mem.init with remap := m.remap, withdrawn := m.withdrawn, flipped := if 8 ≤ i then m.flipped else [] }

/-- What every reset clears (Table RST-2, column Warm). DESIGN CHOICE (log 135): the last token is forgotten, so that a RESET
token sent again after a lost response resets again (R77). -/
def State.clearWarm (s : State) : State :=
  let s := s.clearBerths
  { s with
    tim := s.tim.warm
    nar := { Narrow.init with tokCrc := s.nar.tokCrc, oversize := s.nar.oversize, timeout := s.nar.timeout }
    lnk := s.lnk.warm
    bth := { BthRegs.init with unrep := s.bth.unrep, evMask := s.bth.evMask, evBerth := s.bth.evBerth, stamp := s.bth.stamp }
    grd := { s.grd with
      gate := none, timeouts := 0, deny := 0, hmacFail := 0, tagFlt := 0, erasePct := 0, eraseResumed := false, eraseDone := 0 }
    rings := s.rings.map fun (x : Ring) => { x with taken := [], pinWait := 0 }
    holds := s.holds.map fun (h : Hold) => { h with leaving := false }
    rng := { RingRegs.init with
      tpace := s.rng.tpace, tpaceNow := s.rng.tpace, gsbSize := s.rng.gsbSize, xplant := s.rng.xplant,
      stamp := s.rng.stamp }
    log := { s.log with sel := 0, archSetL := 0, archSetH := 0, certOff := 0, certDat := 0, signing := [], archWait := none
                        rateFrom := s.log.next }
    ctr := { s.ctr with sel := 0, snap := Pair.mk' 0 }
    ftl := { s.ftl with
      sel := 0, mapHitMib := 0, missK := 0
      pruneNow := s.ftl.prune, patrolNow := s.ftl.patrol, refreshNow := s.ftl.refresh }
    dies := (s.dies.filter fun (o : DieOp) => o.kind.stays).map fun (o : DieOp) =>
      { o with run := false, suspended := false, need := [] }
    cod := { Cod.init with enc := s.cod.enc, hard := s.cod.hard, soft := s.cod.soft, bch := s.cod.bch, xor := s.cod.xor }
    mems := Vector.ofFn fun i => Mem.warm i.val s.mems[i]
    mem := { MemRegs.init with scrub := s.mem.scrub, width := s.mem.width, dramFenced := s.mem.dramFenced }
    hup := s.hup.warm
    pmu := s.pmu.warm
    flt := { s.flt with funit := 0, sel := 0 }
    mon := { Mon.init with
      stctl := s.mon.stctl, tempA := s.mon.tempA, tempB := s.mon.tempB, throttle := s.mon.throttle, shut := s.mon.shut,
      disagree := s.mon.disagree, adcFailed := s.mon.adcFailed }
    ucs := { s.ucs with perr := 0, restarts := 0 }
    quy := { s.quy with
      out := [], held := [], answers := [], orders := [], removalSent := false, warmSent := false, holding := false
      frame := none, missed := 0, offNs := 0, errs := 0, lostSubs := 0, quiet := Vector.replicate 4 0 }
    scr := .init
    sched := .init
    tap := .bypass }.stillRows

/-! ### Cold reach -/

/-- The lock state at a start of cold reach or wider (R239). -/
def Guard.startLock (g : Guard) : BitVec 2 :=
  if bits g.lock.val 0 2 = 2 then 2 else if g.password.isSome then 1 else 0

/-- What a cold reset clears besides (Table RST-2, column Cold; R420, R421). -/
def State.clearCold (s : State) : State :=
  let s := s.clearWarm
  { s with
    tim := { s.tim with servo := 0xC863, stepThr := 1000, syncAge := 2000, holdMax := 3600,
                        servoNow := 0xC863, stepThrNow := 1000, syncAgeNow := 2000, holdMaxNow := 3600
                        mkAcc := 0, steps := 0 }
    nar := .init
    lnk := { Link.init with hrefOk := s.lnk.hrefOk }
    bth := { BthRegs.init with unrep := s.bth.unrep, stamp := s.bth.stamp }
    grd := { s.grd with lock := Pair.mk' s.grd.startLock }
    rng := { RingRegs.init with stamp := s.rng.stamp }
    ftl := { s.ftl with
      prune := 0x0418, pruneNow := 0x0418, patrol := 72, patrolNow := 72, refresh := 60, refreshNow := 60, perTide := 0
      patrolPos := 0, patrolStart := s.tim.counter }
    mems := Vector.ofFn fun i => { Mem.init with flipped := if i.val = 7 ∨ i.val = 8 then s.mems[i].flipped else [] }
    mem := .init
    hup := { Hup.init with
      ledger := s.hup.ledger, charging := s.hup.charging, capUf := s.startCap
      rmvSrc := s.hup.rmvSrc, rmvClean := s.hup.rmvClean, rmvMs := s.hup.rmvMs, rmvEu := s.hup.rmvEu }
    pmu := { Pmu.init with pgood := s.pmu.pgood, railFailed := s.pmu.railFailed }
    flt := { Flt.init with halted := s.flt.halted, factory := s.flt.factory, haltSeq := s.flt.haltSeq,
                           reported := if s.flt.halted then some .halt else none }
    mon := .init
    ucs := { s.ucs with patchRam := [], matches_ := Vector.replicate 16 none }
    quy := { Quy.init with map := s.quy.map } }

/-! ### Total reach -/

/-- What a Total reset clears besides: AON (Table RST-2, R56, R206, R414). -/
def State.clearTotal (s : State) : State :=
  let s := s.clearCold
  { s with
    tim := .init
    grd := { s.grd with tries := 0 }
    log := { s.log with unsealed := s.log.unsealedKept }
    ftl := { s.ftl with patrolStart := 0 }
    mems := s.mems.map fun m => { m with flipped := [] }
    pmu := .init
    rst := { s.rst with
      last := 0, count := 0, strapFaults := 0, strapChanged := false, strapOld := none, trimTries := 0, trimRec := 0
      deferUs := 0, deferFenced := 0, blkDom := 0, blkResult := 0, bkSel := 0, bk := Vector.replicate 8 (Pair.mk' 0)
      bkValid := 0, bkl := 0, bkh := 0, bkcl := 0xFFFFFFFF, bkch := 0xFFFFFFFF, bkSnap := Pair.mk' 0 } }

/-- Registers of the RST_ block that a cold or a warm reset clears. -/
def Rst.cleared (r : Rst) : Rst :=
  { r with blkDom := 0, blkResult := 0, bkSel := 0, bkl := 0, bkh := 0, bkcl := 0xFFFFFFFF, bkch := 0xFFFFFFFF,
           bkSnap := Pair.mk' 0 }

def State.clearFor (s : State) (r : Reach) : State :=
  match r with
  | .total => s.clearTotal
  | .cold => { s.clearCold with rst := s.clearCold.rst.cleared }
  | _ => { s.clearWarm with rst := s.clearWarm.rst.cleared }

/-! ### Recovery -/

/-- Records that recovery keeps: up to the first that is in neither copy (Table LOG-6). -/
def Logbook.sound (l : Logbook) : List LogRec := l.recs.takeWhile fun r => r.durA || r.durB

/-- The logbook recovers: one-copy records are copied, what follows a missing one is discarded. The number discarded, and
whether any was copied. -/
def State.recoverLog (s : State) : Nat × Bool × State :=
  let keep := s.log.sound
  let copied := keep.any fun r => !r.durable
  let next := match keep.getLast? with
    | some r => BitVec.ofNat 64 (r.seq.toNat % 2 ^ 62 + 1)
    | none => s.log.next
  let cps := s.log.cps.filter fun c => c.seq.toNat < next.toNat
  (s.log.recs.length - keep.length, copied, { s with log := { s.log with
    recs := keep.map fun r => { r with durA := true, durB := true, owner := none, cost := 0 }
    next := next
    cps := cps
    signing := []
    lastCp := match cps.getLast? with
      | some c => c.seq
      | none => if s.log.lastCp.toNat < next.toNat then s.log.lastCp else 0 } })

/-- Mirrors both valid but unequal: the larger value is written to the other (Table LOG-6). -/
def Counter.unequal (x : Counter) : Bool :=
  match x.a, x.b with
  | some v, some w => v.ok && w.ok && v.val != w.val
  | _, _ => false

/-- The counters recover; the number of mirrors rewritten. -/
def State.recoverCounters (s : State) : Nat × State :=
  let n := (s.ctr.c.toList.filter Counter.unequal).length
  let fix := fun (x : Counter) => if x.unequal then
      let v := Pair.mk' (x.value.getD 0)
      { x with a := some v, b := some v }
    else x
  let s := { s with ctr := { s.ctr with c := s.ctr.c.map fix, recov := satNat 16 (s.ctr.recov.toNat + n) } }
  (n, (List.finRange 32).foldl (fun s i => s.checkCounter i) s)

/-- Every pair of an entry holds. -/
def JEntry.sound (e : JEntry) : Bool := e.seq.ok && e.items.all fun i => i.name.ok && i.value.ok

/-- The entries that a replay from a root does not reach: the first that fails its complement, and those after it (R309, Table
ARCH-4). -/
def Ftl.unreplayed (f : Ftl) (r : Root) : List JEntry :=
  (f.journal.filter fun e => r.seq.val.toNat < e.seq.val.toNat).dropWhile JEntry.sound

/-- What an item would have updated reads as its prior contents. -/
def State.undoItem (s : State) (i : JItem) : State :=
  if i.kind = .unit then
    let k := i.name.val.toNat
    let u := s.unitOf k
    (s.addStale k true u.base).putUnit k { u with base := i.was }
  else s

/-- The journal is replayed from a root: units whose entries it does not reach stand as they were before. -/
def State.replay (s : State) (r : Root) : State :=
  match s.ftl.unreplayed r with
  | [] => s
  | es =>
    let s := (es.flatMap JEntry.items).reverse.foldl State.undoItem s
    { s with ftl := { s.ftl with journal := s.ftl.journal.take (s.ftl.journal.length - es.length) } }.raise 8 .degrade

/-- The map's roots are read and the journal replayed (R28, R309): a broken pair raises F08; with both roots broken, the
regions are fenced. Programmed units that the map does not name are orphans (log 152). -/
def State.recoverMap (s : State) : State :=
  let newer := if s.ftl.rootSlot then s.ftl.root1 else s.ftl.root0
  let s := match s.ftl.root with
    | some r => s.replay r
    | none => s
  let orphans := (s.ftl.stale.filter fun c => c.orphan).length
  let s := { s with ftl := { s.ftl with
    orphansK := satNat 16 (orphans / 1000), stale := s.ftl.stale.map fun (c : Stale) => { c with orphan := false } } }
  let s := if newer.seq.ok then s
    else if s.ftl.root.isSome then s.raise 8 .degrade
    else
      let s := { s with rgn := Vector.ofFn fun i =>
        if i.val = 0 ∨ rtypeOf s.rgn[i].cfg.val = RType.undefined then s.rgn[i] else { s.rgn[i] with fenced := true } }
      s.raise 8 .fence
  -- Every erase recorded as pending is redone, and a new root written.
  let rows := s.dies.filterMap fun o => match o.kind with
    | .eraseRow r => some r
    | _ => none
  let s := { s with dies := s.dies.filter fun o => match o.kind with
    | .eraseRow _ => false
    | _ => true }
  (rows.foldl State.freeRow s).writeRoot

/-- The region table and the ring tails are read (R28). -/
def State.recoverRegions (s : State) : State := (List.range 64).foldl State.checkEntry s

/-- A WEED whose unmap is durable completes its moves and erases before its region is next read (R317). -/
def State.recoverWeeds (s : State) : State :=
  let ws := s.dies.filterMap fun o => match o.kind with
    | .weedErase _ r st d rows | .weedCopy _ r st d rows _ => some (r, st, d, rows)
    | _ => none
  let s := { s with dies := s.dies.filter fun o => match o.kind with
    | .weedErase .. | .weedCopy .. => false
    | _ => true }
  let s := ws.foldl (fun s w =>
    let (ms, s) := s.planMoves (w.2.2.2.flatMap s.rowKeys) false
    (ms.foldl State.commitMove s).weedDone none w.1 w.2.1 w.2.2.1 w.2.2.2) s
  { s with ftl := { s.ftl with weedsCut := [] } }

/-- A forced erase resumes (R243): step 3 again unless it is durable; steps 4 and 5 follow. -/
def State.resumeErase (s : State) : State :=
  if bits s.grd.lock.val 0 2 = 2 then
    let s := { s with grd := { s.grd with eraseResumed := true } }.orderErase (berthOf s.grd.eraseBerth.toNat)
    if s.grd.eraseKeysDone then s
    else
      let s := s.eraseKeys
      { s with ftl := { s.ftl with changes := s.ftl.changes ++
        [{ units := [], stamp := 0, moves := [], after := [.eraseKeys], owner := none, cost := 0, kib := 0, blocks := 0
           commit := false }] } }
  else s

/-- The stored blob is checked again and applied (R438). -/
def State.startPatch (s : State) : State :=
  match s.ucs.stored with
  | none => { s with ucs := { s.ucs with patchState := 0 } }
  | some blob =>
    if patchOk blob then
      let ms := Config.patchMatches blob
      { s with ucs := { s.ucs with
        patchRam := ((Config.patchWords blob).take 256).map MicroWord.of
        matches_ := Vector.ofFn fun i => ms[i.val]?
        patchState := 1
        patchId := Config.patchIdentity blob } }
    else { s with ucs := { s.ucs with patchRam := [], matches_ := Vector.replicate 16 none, patchState := 2 } }

/-- Stored status blocks whose CRC-16 fails at the reload raise F17; this model's storage never fails it (log 42). -/
def insertionPayload (cause : BitVec 13) (unclean : Bool) (unrep : W32) (ms : W16) : List Byte :=
  leBytes 4 cause.toNat ++ [2, BitVec.ofNat 8 unclean.toNat, 0, 0] ++ leBytes 4 unrep.toNat ++ leBytes 4 ms.toNat

/-- A start of cold reach or wider reaches ready (R309, R372, R409, Tables LOG-4 and LOG-6). -/
def State.recover (s : State) (ms : W16) : State :=
  let (lost, copied, s) := s.recoverLog
  let s := if copied then s.raise 5 .note else s
  let (fixed, s) := s.recoverCounters
  let s := if fixed = 0 then s else s.raise 5 .note
  let s := s.recoverMap.recoverRegions
  let s := { s with ftl := { s.ftl with recovMs := ms } }
  let s := s.recoverWeeds.resumeErase.startPatch
  let s : State := if s.rst.due == (2 : BitVec 2) && s.rst.uncleanLast then
    s.sealCard 0x13 (leBytes 4 lost ++ leBytes 4 fixed) else s
  s.sealCard 0x10 (insertionPayload s.rst.cause s.rst.uncleanLast s.bth.unrep ms)

end Sys2Proof.Machine
end

