-- ==== Sys2Proof/Machine/Reset.lean ====
section
/-! DEFINITION. Reset sources, deferral, exits, block reset and backup registers (R400 to R415). -/

namespace Sys2Proof.Machine

/-! ### Sources (Table RST-1) -/

/-- The reach of each source bit. -/
def sourceReach (bit : Nat) : Reach :=
  if bit ≤ 1 ∨ bit = 12 then .total else if bit ≤ 6 then .cold else if bit = 11 then .block else .warm

/-- Sources that last until something releases them; the others end by themselves before the exit. -/
def lasting : BitVec 13 := 0x108D

/-- RST_CAUSE takes a source; a Total reset leaves only its own bits (R406). -/
def Rst.takeCause (r : Rst) (i : Nat) : Rst :=
  { r with
    cause := if sourceReach i = .total ∧ r.widest ≠ .total then setBit 0 i else setBit r.cause i
    asserted := if bit lasting i then setBit r.asserted i else r.asserted
    widest := r.widest.max (sourceReach i)
    mrstOut := r.mrstOut && (sourceReach i).code < 2 }

/-- The last record of insertion or removal says that the card was inserted and has not been removed (Table LOG-4). -/
def State.inserted (s : State) : Bool :=
  match s.log.recs.reverse.find? fun r => r.typ == 0x10 || r.typ == 0x12 with
  | some r => r.typ == 0x10
  | none => false

/-- A Total source settles what was admitted as after an unclean removal (R405); it never waits. In bench mode no status block is
under way but in a deferral (log 115). -/
def State.totalNow (s : State) : State :=
  let s := { s with hup := { s.hup with rmvClean := s.hup.rmvClean && !s.hup.removing, removing := false } }
  let t := { s with rst := { s.rst with
    uncleanLast := s.rst.uncleanLast || s.rst.phase != .held || s.inserted, phase := .held
    strapFaults := 0, trimTries := 0, trimRec := 0 } }
  let kept := s.hup.ledger != .bench || s.rst.phase == .deferring
  if s.rst.phase = .held then t
  else if s.flt.halted then t.cutShort kept
  else t.stopIntake.cutShort kept

/-- The deferral begins (R405): intake stops, erases are suspended. -/
def State.defer (s : State) : State :=
  let s := s.stopIntake
  { s with
    dies := s.dies.map fun (o : DieOp) => { o with suspended := o.kind.erases }
    lnk := { s.lnk with wakeLow := false, sent := [] }
    rst := { s.rst with phase := .deferring }
    quy := { s.quy with warmSent := s.quy.warmSent || (s.rst.widest == .warm && s.quy.map.val != 0) } }

/-- A source is seen (R400, R406, R407). The removal sequence holds every one but a failing supply back, and what follows it
is R365's (Table HUP-6). -/
def State.source (s : State) (i : Nat) : State :=
  if s.rst.power ≠ .on ∨ (s.hup.removing ∧ 1 < i) then s
  else
    let running := s.rst.phase = .running
    let s := { s with rst := { s.rst with widest := if running then .block else s.rst.widest } }
    let s := { s with rst := s.rst.takeCause i }
    if sourceReach i = .total then s.totalNow else if running then s.defer else s

/-- VAON below its good level: power is gone (R400, R489). -/
def execVaonFail (s : State) : Out :=
  if s.rst.power = .on then .next (s.source 0).powerOff
  else if s.rst.power = .off then .next s else .next s.powerOff

/-- The core or I/O rail below 90 % for 5 us. -/
def execBrownOut (s : State) : Out := .next (s.source 1)

/-- HRST# is wired to the master only (Table CASC-1). -/
def State.hrstWired (s : State) : Bool := s.position == 0

/-- HRST# falls (R401). -/
def execHrstFall (s : State) : Out :=
  if s.rst.hrst = .high then .next { s with rst := { s.rst with hrst := .short, hrst7 := bit s.rst.cause 7 } } else .next s

/-- Low for 2 us: a warm source. -/
def execHrstWarmSource (s : State) : Out :=
  if s.rst.hrst = .short then
    let s := { s with rst := { s.rst with hrst := .warm } }
    .next (if s.hrstWired then s.source 7 else s)
  else .next s

/-- Still low 1 ms after its fall: a cold source, and bit 2 replaces bit 7. -/
def execHrstColdSource (s : State) : Out :=
  if s.rst.hrst = .warm then
    let s := { s with rst := { s.rst with hrst := .cold } }
    if s.hrstWired ∧ s.rst.power = .on then
      let s := s.source 2
      .next { s with rst := { s.rst with
        asserted := clearBit s.rst.asserted 7
        cause := if s.rst.hrst7 then s.rst.cause else clearBit s.rst.cause 7 } }
    else .next s
  else .next s

/-- HRST# rises. -/
def execHrstRelease (s : State) : Out :=
  .next { s with rst := { s.rst with hrst := .high, asserted := clearBit (clearBit s.rst.asserted 2) 7 } }

/-- MRST# falls on a member. -/
def execMrstFall (s : State) : Out :=
  if s.position = 0 then .next s
  else .next ({ s with rst := { s.rst with mrstLow := true } }.source 3)

/-- MRST# rises: a member's cores may start (R445). -/
def execMrstRise (s : State) : Out :=
  .next { s with rst := { s.rst with mrstLow := false, asserted := clearBit s.rst.asserted 3 } }

/-- The AON watchdog expires. -/
def execAonWatchdog (s : State) : Out := .next (s.source 4)

/-- The core watchdog expires. -/
def execCoreWatchdog (s : State) : Out := .next (s.source 9)

/-- The firmware asks for a warm reset. -/
def execFirmwareResetRequest (s : State) : Out := .next (s.source 10)

/-- The RC oscillator fails: the AON watchdog, counting crystal cycles, reaches a cold reset; without a crystal no clock
remains until the next power cycle (R398). -/
def execRcOscFail (crystalToo : Bool) (s : State) : Out :=
  if crystalToo then
    if s.rst.power = .off then .next s
    else .next { s with rst := { s.rst with power := .noClock, phase := .held } }
  else .next (s.source 4)

/-! ### Deferral (R405) -/

/-- Everything admitted is durable and the status blocks are committed: the reset proceeds. -/
def execResetDeferralEnd (us : W16) (s : State) : Out :=
  if s.rst.power = .on ∧ s.rst.phase = .deferring then
    let s := if s.flt.halted then s else s.keepPromises
    let s := s.commitBlocks
    .next { s with rst := { s.rst with phase := .held, deferUs := satNat 16 (min us.toNat 8000) } }
  else .next s

/-- Dies busy at 6 ms are fenced; the pages of pieces on them are programmed again in pSLC on other dies of their set. -/
def execDeferralFenceTimeout (ds : List (Fin 128)) (s : State) : Out :=
  if s.rst.power = .on ∧ s.rst.phase = .deferring then
    let s := ds.foldl (fun s d => (s.dieDied d).avoidDie true d) s
    .next { s with rst := { s.rst with deferFenced := satNat 8 (min 255 ds.length) } }
  else .next s

/-! ### Strap and trims (R410 to R412) -/

/-- The bands of Table RST-5 in ohms, codes 1 to 14. -/
def strapBands : List (Nat × Nat) :=
  [(2024, 2376), (3036, 3564), (4324, 5076), (6256, 7344), (9200, 10800), (13800, 16200), (20240, 23760),
   (30360, 35640), (43240, 50760), (62560, 73440), (92000, 108000), (138000, 162000), (202400, 237600),
   (303600, 356400)]

/-- The code of a reading; none between bands. -/
def strapCodeOf : Option Nat → Option (BitVec 4)
  | none => some 15
  | some r =>
    if r < 500 then some 0
    else if 1000000 < r then some 15
    else (strapBands.findIdx? fun b => b.1 ≤ r && r ≤ b.2).map fun i => BitVec.ofNat 4 (i + 1)

/-- A strap fault: a cold retry, and after three in a row the device stays in reset until power is cycled, NAND VCCQ off. -/
def State.strapFault (s : State) : State :=
  let n := s.rst.strapFaults.toNat + 1
  let s := { s with rst := { s.rst with strapFaults := BitVec.ofNat 2 (min 3 n) } }
  if 3 ≤ n then { s with
    rst := { s.rst with power := .strapFault, phase := .held }, pmu := { s.pmu with pgood := clearBit s.pmu.pgood 4 } }
  else s.source 5

/-- A failed trim load: a cold retry, and after three the trim-failure safe state. -/
def State.trimFault (s : State) (rec' : Byte) : State :=
  let n := s.rst.trimTries.toNat + 1
  let s := { s with rst := { s.rst with trimTries := BitVec.ofNat 2 (min 3 n), trimRec := rec', trimLoaded := false } }
  if 3 ≤ n then { s with rst := { s.rst with power := .trimFault, phase := .held }, pmu := { s.pmu with pgood := 0 } }
  else s.source 6

/-! ### Exits (R406, R408, R409) -/

/-- A thermal shutdown holds the flash off: NAND VCC, NAND VCCQ, DRAM VDD2 and DRAM VDD1 are turned off, and the map cache goes
with the DRAM (R421). -/
def State.shutFlash (s : State) : State :=
  { s with
    mon := { s.mon with shut := true }
    pmu := { s.pmu with pgood := s.pmu.pgood &&& 0x03, vdd2In := none }
    ftl := { s.ftl with mapHitMib := 0, missK := 0 } }.raise 61 .fence

/-- The domains are on but for failed ones (R391), and the reset is over. -/
def State.startCores (s : State) (last : Nat) : State :=
  let total := last = 0
  { s with
    tim := { s.tim with next := BitVec.ofNat 64 (ceilMul (s.tim.counter.toNat + 1) 125000) }
    pmu := { s.pmu with dom := s.pmu.dom.map fun d => if d = .failed then .failed else .on }
    rst := { s.rst with
      phase := .running
      widest := .block
      last := BitVec.ofNat 2 last
      count := if total then 0 else satInc s.rst.count } }

/-- Ports that train at a start: the master's to the positions of its map, a member's QA (R443, R445). -/
def trainedPorts (map : BitVec 4) (position : Nat) : Vector Port 3 :=
  Vector.ofFn fun p =>
    let on' := if position = 0 then bit map (p.val + 1) else p.val == 0
    { Port.init with state := if on' then .training else .down }

/-- What the exit of cold reach or wider does once strap and trims are read. -/
def State.coldStart (s : State) (x : ExitReading) (code : BitVec 4) (total : Bool) : State :=
  let changed := match s.rst.strapOld with
    | some c => c != code
    | none => false
  let bench := bit code 3
  let s := { s with
    rst := { s.rst with
      strapFaults := 0, strapCode := code, strapChanged := s.rst.strapChanged || changed, strapOld := some code
      trimLoaded := true, tmode := x.tmode, mrstOut := bits code 0 2 == 0
      level := if (total || s.rst.due == 2) && s.rst.uncleanLast then .recovering else .assembling
      due := if total || s.rst.due == 2 then 2 else 1 }
    lnk := { s.lnk with usable := x.lanesOk }
    pmu := { s.pmu with pgood := 0x3F &&& ~~~s.pmu.railFailed }
    hup := { s.hup with ledger := if bench then .bench else .waiting, charging := !bench }
    quy := { s.quy with ports := trainedPorts s.quy.map.val (bits code 0 2) } }
  if x.tmode then { s with rst := { s.rst with power := .boardTest, phase := .held } }
  else
    let s := s.startCores (if total then 0 else 1)
    let s := if changed then s.raise 1 .note else s
    if x.hot then s.shutFlash else s

/-- The exit of cold reach or wider: strap, trims, cores (R408 to R412). The counts of failed readings outlast a retry,
inside a Total reset too (log 43). -/
def State.coldExit (s : State) (x : ExitReading) (total : Bool) : State :=
  let r := s.rst
  let s := s.clearFor (if total then .total else .cold)
  let s := { s with rst := { s.rst with
    strapFaults := r.strapFaults, trimTries := r.trimTries, trimRec := r.trimRec, strapRaw := x.strapRaw
    cause := if total then r.cause &&& 0x1003 else r.cause } }
  match strapCodeOf x.strapOhms with
  | none => s.strapFault
  | some code => match x.trimFail with
    | some n => s.trimFault n
    | none => s.coldStart x code total

/-- The exit of a warm reset (R409). A recovery that it interrupted restarts (Table RST-3). -/
def State.warmExit (s : State) : State :=
  let s := (s.clearFor .warm).startCores 2
  { s with rst := { s.rst with level := if s.rst.due == 2 && s.rst.uncleanLast then .recovering else .assembling } }

/-- The exit sequence of the widest reach (R406). -/
def State.exit (s : State) (x : ExitReading) : State :=
  match s.rst.widest with
  | .total => s.coldExit x true
  | .cold => s.coldExit x false
  | _ => s.warmExit

/-- The last source is released and the exit sequence runs. -/
def execResetExit (x : ExitReading) (s : State) : Out :=
  if s.rst.power = .on ∧ s.rst.phase = .held ∧ s.rst.asserted = 0 then .next (s.exit x) else .next s

/-- VIN reaches 8 V: the power-on sequence (R408). HRST#, and on a member MRST#, may still hold it in reset. -/
def execVinRise (x : ExitReading) (s : State) : Out :=
  if s.rst.power ≠ .off then .next s
  else
    let s := { s with
      hup := { s.hup with vinMv := 8000 }
      rst := { s.rst with
        power := .on, phase := .held, widest := .total, cause := 1, trimTries := 0, strapFaults := 0, trimRec := 0
        asserted := (if s.rst.hrst = .high then 0 else 4) ||| (if s.rst.mrstLow then 8 else 0) } }
    .next (if s.rst.asserted = 0 then s.exit x else s)

/-- Recovery ends: ready level 2, SB0 rises (R372, R409), the map cache is resumed (R391). A warm exit recovers nothing but what was
interrupted. The orphans are the ones that the map leaves, not a number from outside (log 152). -/
def execRecoveryComplete (ms _orphansK : W16) (s : State) : Out :=
  if s.alive ∧ s.rst.level ≠ .ready ∧ ¬s.flt.halted then
    let t := if s.rst.due = 0 then s.resumeErase.startPatch else s.recover ms
    settled s { t with
      rst := { t.rst with level := .ready, due := 0 }
      pmu := { t.pmu with waking := clearBit t.pmu.waking 12 } }
  else .next s

/-! ### Block reset (R413) -/

/-- The domain is idle: nothing in flight there, nothing admitted that is not durable. -/
def State.domIdle (s : State) (d : Nat) : Bool :=
  s.hup.d ≤ floorCost && s.dies.all (fun o => !o.kind.promised) &&
  match d with
  | 6 => s.berths.toList.all fun x => x.state != .ready && x.state != .running && x.state != .waiting
  | 7 => s.lnk.replayBuf.isEmpty && s.lnk.mode != .training
  | 8 => s.quy.out.isEmpty
  | 9 => !s.shareHolds && !s.stagingHolds
  | 10 => !s.codecBusy
  | 11 => !s.sealBusy
  | 12 => s.dies.all fun o => match o.kind with
    | .read _ | .memberRead _ => false
    | _ => true
  | 13 | 14 => !s.groupBusy d
  | 15 => s.hup.capTest.isNone
  | _ => true

/-- What the block reset of a domain clears. -/
def State.blockLoses (s : State) (d : Fin 16) : State :=
  match d.val with
  | 6 => s.clearBerths
  -- The proposal stands: LANES brings the link up again (R413).
  | 7 => if s.lnk.mode = .lane ∨ s.lnk.mode = .doze then
      { s.leaveLane with lnk := { s.leaveLane.lnk with accepted := true } }
    else s
  | _ => s.loseDomain d

/-- RST_BLK written with GO: refused when the domain is not idle, else pending until the domain is on again. -/
def State.blkGo (s : State) (v : W32) : Status × State :=
  let d : Fin 16 := Fin.ofNat 16 (bits v 0 4)
  if d.val < 2 then (.badField, s)
  else if s.rst.blkResult = 3 then (.wrongState, s)
  else
    let s := { s with rst := { s.rst with blkDom := BitVec.ofNat 4 d.val } }
    if s.dom d = .failed ∨ !s.domIdle d.val then (.ok, { s with rst := { s.rst with blkResult := 2 } })
    else
      let s := ((s.blockLoses d).setDom d (if neverLower d.val true then .retention else .off)).startRails d
      (.ok, { s with
        pmu := { s.pmu with waking := setBit s.pmu.waking d.val }
        rst := { s.rst with blkResult := 3, cause := setBit s.rst.cause 11 } })

def execRstBlkGo (v : W32) (s : State) : Out := if s.alive then settled s (s.blkGo (v ||| 0x100)).2 else .next s

/-- At the boundary after its wake time the domain is on again, and the block reset is done. -/
def State.endBlk (s : State) : State :=
  let d : Fin 16 := Fin.ofNat 16 s.rst.blkDom.toNat
  if s.rst.blkResult = 3 ∧ ¬bit s.pmu.waking d.val then
    { s.setDom d .on with rst := { s.rst with blkResult := 1, last := 3, count := satInc s.rst.count } }
  else s

/-! ### Backup registers (R414, R415) -/

def State.bkIndex (s : State) : Fin 8 := Fin.ofNat 8 s.rst.bkSel.toNat

/-- RST_BKCMD.WRITE: the four halves are committed as one pair (R15). BK0-BK3 belong to the firmware. -/
def State.bkWrite (s : State) : Status × State :=
  let i := s.bkIndex
  let p : Pair 64 := { val := s.rst.bkh ++ s.rst.bkl, cpl := s.rst.bkch ++ s.rst.bkcl }
  if i.val < 4 then (.ok, s)
  else if !p.ok then (.badField, s.raise 1 .degrade)
  else (.ok, { s with rst := { s.rst with bk := s.rst.bk.set i.val p i.isLt, bkValid := setBit s.rst.bkValid i.val } })

def execRstBkcmdWrite (s : State) : Out := if s.alive then settled s s.bkWrite.2 else .next s

/-- A read of RST_BKL latches the selected register; a broken pair counts as unset and raises F01 (R28). -/
def State.bkLatch (s : State) : State :=
  let i := s.bkIndex
  let p := s.rst.bk[i]
  if p.ok then { s with rst := { s.rst with bkSnap := p } }
  else
    let s := s.raise 1 .degrade
    { s with rst := { s.rst with
      bkSnap := Pair.mk' 0, bk := s.rst.bk.set i.val (Pair.mk' 0) i.isLt, bkValid := clearBit s.rst.bkValid i.val } }

def execRstBklRead (s : State) : Out := if s.alive then settled s s.bkLatch else .next s

end Sys2Proof.Machine
end

