-- ==== Sys2Proof/Machine/Faults.lean ====
section
/-! DEFINITION. Faults as commands: acknowledgement, force bits, factory mode, self-test, thermal events and parity errors
(R421 to R438). -/

namespace Sys2Proof.Machine

/-! ### Conditions (FLT_STATb, R425; log 44) -/

/-- The class of a condition that is present now, for the sources that stand for a lasting condition. -/
def State.condition (s : State) (i : Nat) : Option Cls :=
  let when' := fun (c : Bool) (k : Cls) => if c then some k else none
  match i with
  | 6 => when' (s.log.full || s.log.exhausted) .fence
  | 9 => when' s.ftl.exhausted .degrade
  | 13 => when' (s.ringIds.any s.belowMin) .fence
  | 31 => when' (s.lnk.mode == LinkMode.lane && !s.lnk.hrefOk) .degrade
  | 60 => when' (s.hup.overdrawn || 2 ≤ s.hup.capFails) .degrade
  | 61 => if s.mon.shut then some .fence else when' (s.mon.throttle || s.mon.disagree) .degrade
  | _ => none

/-- One source is acknowledged (R425). -/
def State.ackSource (s : State) (i : Fin 64) : State :=
  let x := s.flt.src[i]
  if x.sticky ∧ x.cls = .halt then s
  else
    let s := s.setSource i { x with sticky := false, cls := .note, count := 0 }
    match s.condition i.val with
    | some k => s.raise i k
    | none => s.reportClass i.val

/-- The sources of a block whose bits are written. -/
def blockSources (b : Fin 16) (v : BitVec 4) : List (Fin 64) :=
  (((List.range 4).filter fun j => bit v j).map fun j => Fin.ofNat 64 (4 * b.val + j)).filter fun i => !reservedSource i

/-- FLT_ACKb. -/
def State.ack (s : State) (b : Fin 16) (v : BitVec 4) : State := (blockSources b v).foldl State.ackSource s

def execFltAck (b : Fin 16) (v : BitVec 4) (s : State) : Out := if s.alive then settled s (s.ack b v) else .next s

/-! ### Force bits (R426, R427) -/

/-- The unit that a forced event names: none where the source names no unit, `none` where UNIT names none of its kind. -/
def forceUnit (i u : Nat) : Option FUnit :=
  let chan := fun (lo : Nat) => if lo ≤ u ∧ u < lo + 8 then some (FUnit.channel (Fin.ofNat 16 u)) else none
  let die := fun (lo : Nat) => if u < 128 ∧ lo ≤ u % 16 ∧ u % 16 < lo + 8 then some (FUnit.die (Fin.ofNat 128 u)) else none
  match i with
  | 11 => if u = 0 then some (.core 0) else none
  | 15 => if u = 1 then some (.core 1) else none
  | 19 => if u = 2 then some (.core 2) else none
  | 23 => if u = 3 then some (.core 3) else none
  | 20 => if 1 ≤ u ∧ u ≤ 3 then some (.member (Fin.ofNat 4 u)) else none
  | 29 => if u < 6 then some (.lane (Fin.ofNat 6 u)) else none
  | 32 | 33 => if u < 3 then some (.port (Fin.ofNat 3 u)) else none
  | 40 => if u < 29 then some (.codec (Fin.ofNat 29 u)) else none
  | 52 | 53 | 55 => chan 0
  | 56 | 57 | 59 => chan 8
  | 54 => die 0
  | 58 => die 8
  | _ => some .none

/-- Controllers in the cartridge. -/
def State.controllers (s : State) : Nat := 1 + popcount (s.quy.map.val >>> 1)

/-- The force bits do nothing (R427). -/
def State.forceInert (s : State) : Bool := 3 ≤ s.controllers && !s.flt.factory

/-- A quay port is fenced: the member behind it is lost (R443, R456). -/
def State.losePort (s : State) (p : Fin 3) (forced : Bool) : State :=
  let s := s.raise 32 .fence (.port p) forced
  if bit s.quy.map.val (p.val + 1) then s.loseMember (Fin.ofNat 4 (p.val + 1)) forced else s

/-- One source is forced at its base class; the loss of a member or of its port is handled as any such loss. -/
def State.forceSource (s : State) (i : Fin 64) (u : FUnit) : State :=
  match u with
  | .member p => s.loseMember p true
  | .port p => if i.val = 32 then s.losePort p true else s.raise i (baseClass i) u true
  | u => s.raise i (baseClass i) u true

/-- FLT_FORCEb. -/
def State.force (s : State) (b : Fin 16) (v : BitVec 4) : Status × State :=
  let is := blockSources b v
  let u := s.flt.funit.toNat
  if s.forceInert then (.wrongState, s)
  else if is.any fun i => (forceUnit i.val u).isNone then (.badField, s)
  else (.ok, is.foldl (fun s i => s.forceSource i ((forceUnit i.val u).getD .none)) s)

def execFltForce (b : Fin 16) (v : BitVec 4) (s : State) : Out := if s.alive then settled s (s.force b v).2 else .next s

/-! ### Factory mode (R428) -/

/-- The mode takes effect; a master has its members seal the record too. -/
def State.toFactory (s : State) : State :=
  { s.command .factoryEntry with flt := { s.flt with factory := true } }

/-- A challenge over the TAP answered under the vendor key: the record is sealed, then the mode takes effect. -/
def execFactoryModeEntry (s : State) : Out :=
  if s.alive then
    settled s (s.sealCard 0x51 []).toFactory
  else if s.rst.power = .boardTest then .next s.toFactory
  else .next s

/-! ### Self-test (R429 to R431, Table FLT-3) -/

/-- Slices of each row. -/
def sliceCounts : List Nat := [6, 3, 16, 4, 6, 1, 1, 1, 16]

/-- Row, from 0, and item of a slice. -/
def sliceAt : Nat → List Nat → Nat × Nat
  | p, [] => (0, p)
  | p, n :: r => if p < n then (0, p) else ((sliceAt (p - n) r).1 + 1, (sliceAt (p - n) r).2)

/-- The domain that a slice needs. -/
def sliceDom (row item : Nat) : Fin 16 :=
  match row with
  | 0 => 7
  | 1 => 8
  | 2 | 8 => if item < 8 then 13 else 14
  | 3 | 4 | 5 => 15
  | 7 => 12
  | _ => 0

/-- An oscillator has failed (R431): the crystal as in R397, or another; which is free. -/
def State.oscFailed (s : State) : State :=
  let (n, s) := s.draw
  if Config.freeBool n ∧ ¬s.pmu.rcOnly then
    let t := s.fallToRc false 0
    if t.lnk.mode = .lane ∨ t.lnk.mode = .doze then t.failLanes t.lnk.active else t
  else s.raise 0 .degrade

/-- An ADC is withdrawn; with ADC 0 and ADC 1 both failed E_u is 0 (R430). -/
def State.adcFailed (s : State) (n : Nat) : State :=
  let s := { s with mon := { s.mon with adcFailed := setBit s.mon.adcFailed n } }.raise 62 .degrade
  if bit s.mon.adcFailed 0 ∧ bit s.mon.adcFailed 1 then
    { s with hup := { s.hup with eu := Pair.mk' 0 } }.ledgerUpdate
  else s

/-- What a failed slice raises. -/
def State.sliceFailed (s : State) (row item : Nat) : State :=
  match row with
  | 0 => s.raise 29 .fence (.lane (Fin.ofNat 6 item))
  | 1 => s.losePort (Fin.ofNat 3 item) false
  | 2 | 8 => s.raise (if item < 8 then 55 else 59) .fence (.channel (Fin.ofNat 16 item))
  | 3 => s.adcFailed item
  | 4 => s.raise 63 .degrade
  | 5 => { s with mon := { s.mon with disagree := true } }.raise 61 .degrade
  | 6 => s.oscFailed
  | _ => s.raise 51 .degrade

/-- A slice is skipped: its domain is not on (R391), its unit is fenced, its lane in doze, its quay port not up or not in the map
(Table COMB-3). -/
def State.sliceSkips (s : State) (row item : Nat) : Bool :=
  s.dom (sliceDom row item) != .on || (match row with
  | 0 => s.unitFenced (.lane (Fin.ofNat 6 item)) || s.lnk.mode == .doze
  | 1 => s.quy.ports[Fin.ofNat 3 item].state != .up || (s.position == 0 && !bit s.quy.map.val (item + 1))
  | 2 | 8 => s.unitFenced (.channel (Fin.ofNat 16 item))
  | 7 => s.dramLost
  | _ => false)

/-- A slice's result is shown, and a failure raised. -/
def State.sliceResult (s : State) (row item : Nat) (r : SliceResult) : State :=
  let skip := s.sliceSkips row item
  let fail := !skip && r == .fail
  let code := if skip then 2 else if fail then 1 else 0
  let s := { s with mon := { s.mon with
    test := BitVec.ofNat 4 (row + 1)
    item := BitVec.ofNat 4 item
    result := BitVec.ofNat 2 code
    failNow := if fail then setBit s.mon.failNow row else s.mon.failNow
    skipNow := if skip then setBit s.mon.skipNow row else s.mon.skipNow } }
  if fail then s.sliceFailed row item else s

/-- The next position; a cycle's rows are shown once it is complete. -/
def Mon.advance (m : Mon) : Mon :=
  if m.pos = 53 then
    { m with pos := 0, cycles := satInc m.cycles, fail := m.failNow, skip := m.skipNow, failNow := 0, skipNow := 0 }
  else { m with pos := m.pos + 1 }

/-- A loop-back slice on a lane in use takes every lane of its direction and ends with a realign (R125): on the up lanes the
parcels that were crossing are lost, so that their replay does not count; on the down lanes bytes are lost until the host's
realign comes. -/
def State.loopBack (s : State) (lane : Nat) : State :=
  if s.lnk.mode = .lane ∧ bit s.lnk.active lane then
    if bit s.lnk.down lane then { s with lnk := { s.lnk with rxMode := .untilRealign } }
    else { s with lnk := { s.lnk with sliceLost := !s.lnk.replayBuf.isEmpty, sent := s.lnk.sent ++ [.realign] } }
  else s

/-- The next slice of the cycle, booked at rung 5. -/
def State.runSlice (s : State) (row item : Nat) (r : SliceResult) : State :=
  let s := { s with sched := s.sched.bookSlice (s.sliceRes row item) }
  (if row = 0 then s.loopBack item else s).sliceResult row item r

/-- MON_STCTL.GAP as it acts, in ns (Table FLT-6). -/
def sliceGapNs (v : W32) : Nat := 1000000000 * clampNat 1 11 (bits v 8 4)

/-- The gap since the slice before has passed (R429). -/
def State.sliceDue (s : State) : Bool := match s.mon.sliceAt with
  | some t => t.toNat + sliceGapNs s.mon.stctl ≤ s.tim.counter.toNat
  | none => true

/-- The next slice of the cycle (R429), once the gap has passed, unless halted (Table COMB-3): one that is skipped is not booked, and
one that finds the share of the tide full waits. -/
def execSelftestSlice (r : SliceResult) (s : State) : Out :=
  let p := sliceAt s.mon.pos sliceCounts
  if s.alive ∧ ¬s.flt.halted ∧ bit s.mon.stctl 0 ∧ s.dom 15 = .on ∧ s.sliceDue then
    let started := { s with mon := { s.mon with sliceAt := some s.tim.counter } }
    if s.sliceSkips p.1 p.2 then
      let t := started.sliceResult p.1 p.2 r
      settled s { t with mon := t.mon.advance }
    else if s.sliceFits (s.sliceRes p.1 p.2) then
      let t := started.runSlice p.1 p.2 r
      settled s { t with mon := t.mon.advance }
    else .next s
  else .next s

/-! ### Thermal events (R421) -/

/-- Readings of the two sensors, in 0.1 °C. Sensors that agree again within 5 °C end that condition (R421). -/
def State.noteTemp (s : State) (a b : W16) : State :=
  let hi := if a.toInt < b.toInt then b else a
  let lo := if a.toInt < b.toInt then a else b
  let h := s.ftl.health
  { s with
    mon := { s.mon with tempA := a, tempB := b, disagree := s.mon.disagree && 50 < hi.toInt - lo.toInt }
    ftl := { s.ftl with health := { h with
      tempHigh := some (match h.tempHigh with
        | some x => if x.toInt < hi.toInt then hi else x
        | none => hi)
      tempLow := some (match h.tempLow with
        | some x => if lo.toInt < x.toInt then lo else x
        | none => lo) } } }

/-- 115 °C on either sensor. -/
def execThermalThrottle (a b : W16) (s : State) : Out :=
  if s.alive then
    let s' := s.noteTemp a b
    settled s ({ s' with mon := { s'.mon with throttle := true } }.raise 61 .degrade)
  else .next s

/-- One second below 110 °C. -/
def execThrottleEnd (s : State) : Out := .next { s with mon := { s.mon with throttle := false } }

/-- 130 °C: instructions of berths 8-511 end as in step 4 of Table HUP-7, what was admitted is committed as in step 5, and
the flash goes off. -/
def execThermalShutdown (a b : W16) (s : State) : Out :=
  if s.alive ∧ ¬s.mon.shut then
    let t := (s.noteTemp a b).keepPromises.abortHigh
    let t := t.keepPromises.writeRoot.commitBlocks
    settled s t.shutFlash
  else .next s

/-- The sensors differ by more than 5 °C. -/
def execSensorDisagree (a b : W16) (s : State) : Out :=
  if s.alive then
    let s' := s.noteTemp a b
    settled s ({ s' with mon := { s'.mon with disagree := true } }.raise 61 .degrade)
  else .next s

/-! ### Parity errors (R435) -/

/-- The berths one of which the engine was running: those that drain a gate or a quiesce, and those whose turn it is. -/
def State.runnable (s : State) : List BerthId :=
  ((s.berths.toList.zip allBerths).filter fun p => p.1.state == .running || p.1.state == .ready).map (·.2)

/-- The instruction that was running completes with MACHINE_CHECK and its berth stops. -/
def State.machineCheck (s : State) (b : BerthId) : State :=
  match (s.berth b).cur with
  | some c => (s.withdrawCur b c).finish b c.ins .machineCheck c.done none none
  | none => match s.nextInstr b with
    | some q => s.finish b q .machineCheck
    | none => s

/-- The restart of the engine is booked at rung 1: 50 us of the tide. -/
def Sched.bookRestart (x : Sched) : Sched :=
  { x with
    booked := x.booked ++ [{ rung := 1, work := .safety, takes := [(.engine, 50000)] }]
    spare := x.spare - 50000 }

/-- A berth-engine word fails its parity: F24, and the engine restarts. Which berth was running, if any, is free. -/
def execEngineParityError (s : State) : Out :=
  if s.alive then
    let (n, t) := s.draw
    let bs := t.runnable
    let t := { t with
      ucs := { t.ucs with perr := satInc t.ucs.perr, restarts := satInc t.ucs.restarts }
      sched := t.sched.bookRestart }
    let t := match bs[Config.freeChoice n % (bs.length + 1)]? with
      | some b => t.machineCheck b
      | none => t
    settled s (t.raise 24 .fence)
  else .next s

/-- A sequencer word fails its parity: its channel is fenced. -/
def execSequencerParityError (c : Fin 16) (s : State) : Out :=
  if s.alive then
    let t := { s with ucs := { s.ucs with seqPerr := setBit s.ucs.seqPerr c.val } }
    settled s (t.raise (if c.val < 8 then 52 else 56) .fence (.channel c))
  else .next s

end Sys2Proof.Machine
end

