-- ==== Sys2Proof/Machine/Cascade.lean ====
section
/-! DEFINITION. The cascade over the quay link (R440 to R459): parts of instructions, tides, ports, start-up, losses, and
cartridge-wide orders. -/

namespace Sys2Proof.Machine

def State.isMember (s : State) : Bool := s.position != 0

/-! ### A member's part of an instruction (R450, R452, R453) -/

/-- The member answers its master. -/
def State.answerSub (s : State) (id : Nat) (st : Status) (thru : Bool) (d : List Byte) (first : Option Nat := none) :
    State :=
  let a : SubAnswer := { id := id, status := st.code, writeThrough := thru, payload := d, first := first }
  { s with quy := { s.quy with answers := s.quy.answers ++ [a] } }

/-- A part is in the member's buffer: its pages are programmed and its map change committed, or, of a split piece, kept
provisionally (R453). -/
def State.landPart (s : State) (i : SubInstr) (thru : Bool) : State :=
  let us := partUnits i
  let r := i.region.val
  let (n, s) := s.nextStamp
  let l := s.target r us.length
  let (ps, s) := (s.givePlaces l.cls l (s.codeOf r) us.length false).getD ([], s)
  let s := us.zipIdx.foldl (fun (t : State) u => t.newVersion u.1.1
    { stamp := n, cover := wholeUnit, data := some u.1.2, place := ps[u.2]?, seq := s.ftl.jSeq, thru := thru, lost := false,
      tag := BitVec.ofNat 4 (s.region r).colour }) s
  let ch : Change := {
    units := us.map (·.1)
    stamp := n
    moves := []
    after := if thru then [.answer i.id] else []
    owner := none
    cost := if thru then 0 else dataCost i.payload.length
    kib := if thru then 0 else kibOf i.payload.length
    blocks := 0
    commit := false }
  let s := if thru then s else s.answerSub i.id .ok false []
  if i.split ∧ ¬thru then { s with quy := { s.quy with held := s.quy.held ++ [{ sub := i, waiting := false, tidesLeft := 0 }] } }
  else s.addDie (.program ch)

/-- A part that writes comes before the member's own ledger (R452). -/
def State.admitPart (s : State) (i : SubInstr) : State :=
  let n := dataCost i.payload.length
  match s.hup.answerItem n with
  | .admitted => (s.admitItem (.data (kibOf i.payload.length)) n).landPart i false
  | .writeThrough => s.landPart i true
  | .wait => { s with quy := { s.quy with held := s.quy.held ++ [{ sub := i, waiting := true, tidesLeft := s.hup.waitTides }] } }

/-- A part that reads a unit: from the die where its data stand in flash, else its newest data at once (R26, R450); a unit that is
lost is counted and answers MEDIA_LOST (R343). -/
def State.readPart (s : State) (i : SubInstr) : State :=
  if (s.unitOf (subKey i)).lost then (s.countDecode .strong .lost).answerSub i.id .mediaLost false []
  else if (s.copyOf (subKey i)).isSome then s.addDie (.memberRead i)
  else s.answerSub i.id .ok false (s.unitData (subKey i))

/-- A LOGREAD of this member's logbook: RANGE outside what it keeps, else its records are read (R285, R286). -/
def State.askLog (s : State) (i : SubInstr) (n : Nat) : State :=
  if i.unit < (s.ownSeq s.log.old).toNat ∨ (s.ownSeq s.log.next).toNat < i.unit + n then s.answerSub i.id .range false []
  else s.addDie (.memberLog i)

/-- A frame or a strobe has come from a position (R456, R458). -/
def State.heard (s : State) (p : Fin 4) : State :=
  { s with quy := { s.quy with quiet := s.quy.quiet.set p.val 0 p.isLt } }

/-- QUY_SILENT.TIDES as it acts (Table CASC-8). -/
def silentTides (v : W32) : Nat := clampNat 4 64 (bits v 0 7)

/-- Nothing has come from a position for QUY_SILENT.TIDES tides. -/
def State.silentFor (s : State) (p : Fin 4) : Bool := silentTides s.quy.silent ≤ s.quy.quiet[p]

/-- A member receives a sub-instruction. -/
def execQuaySubInstruction (i : SubInstr) (s : State) : Out :=
  if s.alive ∧ s.isMember ∧ ¬s.quy.holding then
    let s := s.heard 0
    settled s (if s.flt.halted then s.answerSub i.id .halted false []
      else match i.records with
        | some n => s.askLog i n
        | none => if i.write then s.admitPart i else s.readPart i)
  else .next s

/-! ### The master's side -/

/-- The status that a code stands for, among those a member answers. -/
def answerStatus (c : Byte) : Status :=
  if c = Status.ok.code then .ok
  else if c = Status.mediaLost.code then .mediaLost
  else if c = Status.memUncorrectable.code then .memUncorrectable
  else .fenced

/-- A part has been answered: the instruction goes on with it. A member that ended step 4 of a forced erase is noted
(GRD_ERASE.DONE). -/
def State.subDone (s : State) (o : SubOut) (a : SubAnswer) : State :=
  let st : Status := answerStatus a.status
  if bits s.grd.lock.val 0 2 = 2 ∧ s.erasePart o then
    { s with grd := { s.grd with
      eraseDone := if st = Status.ok then setBit s.grd.eraseDone o.position.val else s.grd.eraseDone } }.eraseEnd
  else match (s.berth o.berth).cur with
  | none => s
  | some c => match c.ins.op.toNat with
    | 0x20 | 0x24 => s.readAnswered o.berth o.position.val (if st = .ok then a.payload else [])
    | 0x23 =>
      if c.phase = .cascade ∧ c.acc.isEmpty then s.readAnswered o.berth o.position.val (if st = .ok then a.payload else [])
      else if st = .ok then s.pieceAnswered o.berth a.writeThrough
      else (s.withdrawCur o.berth c).finish o.berth c.ins st c.done none none
    | 0x21 | 0x22 =>
      if st = .ok then s.pieceAnswered o.berth a.writeThrough
      else (s.withdrawCur o.berth c).finish o.berth c.ins st c.done none none
    | 0x41 => s.logAnswered o.berth a
    | 0x65 => s.healthAnswered o.berth o.position.val a.payload
    | _ => s.itemDurable o.berth

/-- A part of an instruction is answered. A member that answers that it is halted is lost (R456), and its parts with it. -/
def State.partAnswered (s : State) (o : SubOut) (a : SubAnswer) : State :=
  let s := s.heard o.position
  if a.status = Status.halted.code then s.loseMember o.position
  else { s with quy := { s.quy with out := s.quy.out.filter fun x => x.id != a.id } }.subDone o a

/-- A member's THROUGH, HEAD and SPAN have come (R282). -/
def State.headsAnswered (s : State) (a : SubAnswer) : State :=
  let s := s.elapse
  { s with log := { s.log with signing := takeHeads s.now a.payload s.log.signing } }

/-- The master receives a member's answer: to a part of an instruction by its number, or to a fetch for a checkpoint, which has the
number 0. -/
def execQuaySubAnswer (a : SubAnswer) (s : State) : Out :=
  if s.alive ∧ ¬s.isMember then match s.quy.out.find? fun o => o.id == a.id with
    | some o => settled s (s.partAnswered o a)
    | none => settled s (if a.id = 0 then s.headsAnswered a else s)
  else .next s

/-! ### Tides and time (R448, R449) -/

/-- A member's stamps carry the master's quality. -/
def Tim.adopt (t : Tim) (q : W16) : Tim :=
  match bits q 14 2 with
  | 0 => { t with quality := .synced, usedOffset := 16 * bits q 0 14 }
  | 1 => { t with quality := .holdover, usedAt := t.counter - BitVec.ofNat 64 (bits q 0 14 * 1000000000) }
  | _ => { t with quality := .freeRunning }

/-- The time frame of a boundary. -/
def execQuayTimeFrame (time : W64) (period : BitVec 2) (quality : W16) (s : State) : Out :=
  if s.alive ∧ s.isMember then
    let s := s.heard 0
    .next { s with
      tim := { s.tim.adopt quality with newPeriod := if period = s.tim.period then none else some period }
      quy := { s.quy with frame := some (time, period, quality) } }
  else .next s

/-- A member's limit in R65 (R448), in ns. -/
def memberLimit : Nat := 50

/-- A member steers by an offset as R65 does by a marker, with the limit of R448 and without its step (log 166). Its quality is the
master's, so a count of 4 makes it synced no sooner; after four outliers it is free-running until the next time frame. -/
def Tim.steer (t : Tim) (offset : Int) : Tim :=
  let t := { t with offset := offset }
  if t.quality = .synced ∧ 16 * memberLimit < offset.natAbs then
    if t.outliers = 3 then { t with outliers := 0, qualified := 0, quality := .freeRunning }
    else { t with outliers := t.outliers + 1 }
  else
    let freq := t.freq + offset * 2 ^ (25 - bits t.servoNow 4 4)
    { t with
      outliers := 0
      freq := freq
      rate := t.slewed (freq + offset * 2 ^ (25 - bits t.servoNow 0 4))
      qualified := if offset.natAbs ≤ memberLimit then t.qualified + 1 else 0 }

/-- An edge of the strobe: its offset less QUY_ALIGN.DELAY; more than 1 us raises F34 and steps at the next boundary. -/
def State.edge (s : State) (offsetNs : Int) : State :=
  let o := offsetNs - Config.quayDelay.toNat
  let s := { s with quy := { s.quy with offNs := BitVec.ofInt 16 o, missed := 0, strobe := true } }
  if 1000 < o.natAbs then
    { s with tim := { s.tim with step := some o }, quy := { s.quy with errs := satInc s.quy.errs } }.raise 34 .degrade
  else { s with tim := s.tim.steer o }

def execTideioEdge (offsetNs : Int) (s : State) : Out :=
  if s.alive ∧ s.isMember then settled s ((s.heard 0).edge offsetNs) else .next s

/-- Four edges in a row are missing; before that nothing happens. -/
def execTideStrobeLost (s : State) : Out :=
  if s.alive ∧ s.isMember ∧ s.quy.strobe ∧ 4 ≤ s.quy.missed then
    let t : State := { s with
      quy := { s.quy with strobe := false }
      tim := if s.tim.quality = .synced then { s.tim with quality := .holdover, usedAt := s.tim.counter } else s.tim }
    settled s (t.raise 21 .degrade)
  else .next s

/-! ### Removal, reset, orders (R459, Table CASC-6) -/

/-- The removal frame: the member's own removal sequence. Which of DET# and VIN it came from is free. -/
def execQuayRemovalFrame (yieldMj4 : Nat) (vinBack : Bool) (s : State) : Out :=
  if s.isMember then
    let (n, s) := s.draw
    .next (s.removalEvent (if Config.freeBool n then 1 else 2) yieldMj4 vinBack)
  else .next s

/-- The master's order for a warm reset, taken as the firmware's request (log 46). -/
def execQuayWarmResetFrame (s : State) : Out := if s.isMember then .next (s.source 10) else .next s

/-- Everything admitted becomes durable, as in the deferral of R405, and the member holds (R458). -/
def State.holdMember (s : State) : State :=
  let s := s.stopIntake.keepPromises.commitBlocks
  { s with quy := { s.quy with holding := true } }

/-- Nothing has come from the master for QUY_SILENT.TIDES; before that nothing happens. -/
def execMasterSilent (s : State) : Out :=
  if s.alive ∧ s.isMember ∧ ¬s.quy.holding ∧ s.silentFor 0 then .next (if s.flt.halted then s else s.holdMember) else .next s

/-- Step 3 of a forced erase on a member: the keys go; step 4 runs until FERASE_ERASE_DONE (R241). -/
def State.eraseMember (s : State) : State :=
  let s := s.eraseKeys
  { s with
    grd := { s.grd with erasePct := 0, eraseResumed := false, eraseKeysDone := true }
    quy := { s.quy with held := [] } }

/-- The member's THROUGH, HEAD and SPAN for the master's checkpoint, SPAN from its last answered entry on (R282). -/
def State.answerHeads (s : State) : State :=
  let hi := s.log.next - 1
  let d := leBytes 8 (s.ownSeq hi).toNat ++ digestBytes s.log.prevHash ++
    s.log.span (s.ownSeq s.log.cpFrom) (s.ownSeq hi)
  let s := { s with log := { s.log with cps := s.log.cps ++ [({ seq := 0, through := hi } : CpRef)] } }
  s.answerSub 0 .ok false d

/-- A cartridge-wide order. -/
def State.order (s : State) : CartridgeEvent → State
  | .checkpointFetch => s.answerHeads
  | .forcedErase => s.eraseMember
  | .releaseCommit => s.keepPromises.writeRoot.commitBlocks
  | .masterHalt => s.holdMember
  | .factoryEntry => s.ownRecord 0x51 []
  | .quayWake ds => s.wakeBy 6 (8 :: (List.finRange 16).filter fun d => bit ds d.val)

def execQuayCartridgeEventFrame (e : CartridgeEvent) (s : State) : Out :=
  if s.alive ∧ s.isMember ∧ ¬s.flt.halted then settled s ((s.heard 0).order e) else .next s

/-! ### Ports (R442, R443) -/

/-- A port that this controller runs: the master those of its map, a member QA. -/
def State.runsPort (s : State) (p : Fin 3) : Bool := if s.isMember then p.val == 0 else bit s.quy.map.val (p.val + 1)

def State.setPort (s : State) (p : Fin 3) (x : Port) : State :=
  { s with quy := { s.quy with ports := s.quy.ports.set p.val x p.isLt } }

/-- A port fenced on a member loses nothing here: it is silent to its master. -/
def State.fencePort (s : State) (p : Fin 3) : State :=
  if s.isMember then s.raise 32 .fence (.port p) else s.losePort p false

/-- Training of a port ends. -/
def execQuayPortTrainingEnd (p : Fin 3) (up : Bool) (s : State) : Out :=
  let x := s.quy.ports[p]
  if s.alive ∧ s.runsPort p ∧ x.state = .training then
    if up then .next (s.setPort p { x with state := .up, slow := s.slowClock, headReplays := 0 })
    else settled s (s.fencePort p)
  else .next s

/-- Instants of the last second. -/
def recentOf (now : W64) (l : List W64) : List W64 := l.filter fun t => now.toNat < t.toNat + 1000000000

/-- A frame is not acknowledged: replayed, and after four replays the port retrains (F33); the third retrain within a
second fences it (R443). -/
def State.portReplay (s : State) (p : Fin 3) : State :=
  let x := s.quy.ports[p]
  if x.headReplays < 4 then s.setPort p { x with headReplays := x.headReplays + 1, replays := satInc x.replays }
  else
    let s := s.elapse
    let ts := recentOf s.now x.retrainAt ++ [s.now]
    let s := s.setPort p { x with state := .training, headReplays := 0, retrains := satInc x.retrains, retrainAt := ts }
    let s := s.raise 33 .note
    if 3 ≤ ts.length then s.fencePort p else s

def execQuayReplayTimeout (p : Fin 3) (s : State) : Out :=
  if s.alive ∧ s.runsPort p ∧ s.quy.ports[p].state = .up then settled s (s.portReplay p) else .next s

/-! ### Start-up (R445 to R447) -/

/-- A fence at start-up: counted in QUY_START.LATE, with a fault-class record of its own where the class did not change. -/
def State.lateMember (s : State) (p : Fin 4) : State :=
  let n := s.log.next
  let s := { s with quy := { s.quy with late := setBit s.quy.late p.val } }.loseMember p
  if s.log.next = n then s.sealCard 0x40 (leBytes 1 (clsByte s.highest) ++ leBytes 1 (clsByte s.highest) ++ [20, 0]) else s

/-- A member reports its manifest. One whose role or position does not match its port has the port fenced; one that
halts, or whose bank strap differs, is fenced. -/
def State.report (s : State) (p : Fin 3) (r : MemberReport) : State :=
  let pos : Fin 4 := Fin.ofNat 4 (p.val + 1)
  if r.strapMaster ∨ r.position ≠ pos then (s.losePort p false).lateMember pos
  else if r.readyLevel = 3 ∨ r.bankAbsent ≠ bit s.rst.strapCode 3 then s.lateMember pos
  else { s with quy := { s.quy with
    present := setBit s.quy.present pos.val, reports := s.quy.reports.set pos.val (some r) pos.isLt } }

def execMemberManifestReport (p : Fin 3) (r : MemberReport) (s : State) : Out :=
  if s.alive ∧ ¬s.isMember ∧ bit s.quy.map.val (p.val + 1) ∧ ¬bit s.quy.lost (p.val + 1) then
    settled s ((s.heard (Fin.ofNat 4 (p.val + 1))).report p r)
  else .next s

/-- The positions of the map that a condition names, each fenced as late. -/
def State.lateAll (s : State) (c : Fin 4 → Bool) : State :=
  ([1, 2, 3].filter fun (p : Fin 4) => bit s.quy.map.val p.val && !bit s.quy.lost p.val && c p).foldl State.lateMember s

/-- 100 ms after MRST# rose. -/
def execMemberJoinTimeout (s : State) : Out :=
  if s.alive ∧ ¬s.isMember then settled s (s.lateAll fun p => !bit s.quy.present p.val) else .next s

/-- 600 ms, or 4.9 s after an unclean removal. -/
def execMemberReadyTimeout (s : State) : Out :=
  if s.alive ∧ ¬s.isMember then
    settled s (s.lateAll fun p => bit s.quy.present p.val && (match s.quy.reports[p] with
      | some r => r.readyLevel.toNat < 2
      | none => true))
  else .next s

/-- No frame or strobe echo from a member for QUY_SILENT.TIDES (R456); before that nothing happens. -/
def execMemberSilent (p : Fin 4) (s : State) : Out :=
  if s.alive ∧ ¬s.isMember ∧ bit s.quy.present p.val ∧ ¬bit s.quy.lost p.val ∧ s.silentFor p then settled s (s.loseMember p)
  else .next s

end Sys2Proof.Machine
end

