-- ==== Sys2Proof/Machine/Control.lean ====
section
/-! DEFINITION. The control family (R183 to R187, Table TZ-6). -/

namespace Sys2Proof.Machine

/-- A control transfer: in a stream berth NOT_IN_STREAM (R144), outside the allocation BAD_TARGET (R145). `res` is what
V[DST] takes when the transfer completes with OK. -/
def State.jumpTo (s : State) (b : BerthId) (q : QInstr) (pc : Nat) (res : Option W64 := none) : State :=
  if (s.berth b).poolWords ≤ pc then s.finish b q .badTarget else s.finishAt b q .ok 0 none res pc

/-- A resident berth's control transfer, its fields checked. -/
def State.transfer (s : State) (b : BerthId) (q : QInstr) (fs : List (Nat × Nat)) (body : State → State) : State :=
  s.checked b q (q.only fs) fun s => if (s.berth b).kind then body s else s.finish b q .notInStream

/-- The word after the instruction. -/
def State.nextPc (s : State) (b : BerthId) : Nat := (s.berth b).pc.toNat + 1

/-- NOP. -/
def execNop (b : BerthId) (s : State) : Out :=
  runTurn b 0x00 s fun q s => s.checked b q (q.only []) fun s => s.finish b q .ok

/-- HALT: completes, then stops the berth (R151). -/
def execHalt (b : BerthId) (s : State) : Out :=
  runTurn b 0x01 s fun q s => s.checked b q (q.only []) fun s => s.finish b q .ok

/-- JUMP: PC = target. -/
def execJump (b : BerthId) (s : State) : Out :=
  runTurn b 0x02 s fun q s => s.transfer b q [(0, 16)] fun s => s.jumpTo b q (q.imm 0 16)

/-- BRANCH: PC = target when LASTSTAT and STAT agree under MASK (R184). -/
def execBranch (b : BerthId) (s : State) : Out :=
  runTurn b 0x03 s fun q s => s.transfer b q [(0, 32)] fun s =>
    let m : Byte := BitVec.ofNat 8 (q.imm 24 8)
    if (s.berth b).lastStat.code &&& m = BitVec.ofNat 8 (q.imm 16 8) &&& m then s.jumpTo b q (q.imm 0 16)
    else s.finish b q .ok

/-- CALL: pushes PC + 1, then PC = target; four entries on the stack give STACK_FAULT (R145). -/
def execCall (b : BerthId) (s : State) : Out :=
  runTurn b 0x04 s fun q s => s.transfer b q [(0, 16)] fun s =>
    if 4 ≤ (s.berth b).stack.length then s.finish b q .stackFault
    else if (s.berth b).poolWords ≤ q.imm 0 16 then s.finish b q .badTarget
    else
      let ret := BitVec.ofNat 16 (s.nextPc b)
      (s.modBerth b fun x => { x with stack := ret :: x.stack }).jumpTo b q (q.imm 0 16)

/-- RETURN: PC = popped entry. -/
def execRet (b : BerthId) (s : State) : Out :=
  runTurn b 0x05 s fun q s => s.transfer b q [] fun s =>
    match (s.berth b).stack with
    | [] => s.finish b q .stackFault
    | p :: r => (s.modBerth b fun x => { x with stack := r }).jumpTo b q p.toNat

/-- LOOP: counts V[DST] down and transfers while it is not 0; Z from V[DST] (R184). -/
def execLoop (b : BerthId) (s : State) : Out :=
  runTurn b 0x06 s fun q s => s.transfer b q [fDst, (0, 16)] fun s =>
    let v := (s.berth b).reg q.dst
    if v = 0 then (s.modBerth b fun x => { x with z := true }).finish b q .ok
    else if v = 1 then (s.modBerth b fun x => { x with z := true }).finish b q .ok 0 none (some 0)
    else if (s.berth b).poolWords ≤ q.imm 0 16 then s.finish b q .badTarget
    else (s.modBerth b fun x => { x with z := false }).jumpTo b q (q.imm 0 16) (some (v - 1))

/-- WAITT: waits for the IMM-th boundary, or for the first boundary at or past V[SRCA] (R184). -/
def execWaitt (b : BerthId) (s : State) : Out :=
  runTurn b 0x07 s fun q s => s.checked b q (q.only [fSrcA, (40, 1), (0, 32)]) fun s =>
    if q.modeBit 0 then s.waitFor b .waitt { Cur.init q .waitt with target := ((s.berth b).reg q.srcA).toNat }
    else if q.imm 0 32 = 0 then s.finish b q .ok
    else s.waitFor b .waitt { Cur.init q .waitt with target := q.imm 0 32 }

/-- The named boundary has been reached (R59): WAITT completes. TIDE_BOUNDARY marks the instruction. -/
def execWaittWake (b : BerthId) (s : State) : Out :=
  match (s.berth b).cur with
  | some c => if (s.berth b).state = .waiting ∧ c.phase = .waitt ∧ c.admitted then answer (s.finish b c.ins .ok) else .next s
  | none => .next s

/-- WAITE (R185): CLR clears the named bits first; a pending bit is taken at once, else the berth waits. -/
def execWaite (b : BerthId) (s : State) : Out :=
  runTurn b 0x08 s fun q s =>
    s.checked b q (q.only [fDst, (40, 1), (0, 40)] && !(q.imm 0 16 == 0 && q.imm 16 24 == 0)) fun s =>
      let m : BitVec 16 := q.word.setWidth 16
      let s := if q.modeBit 0 then s.modBerth b fun x => { x with pend := x.pend &&& ~~~m } else s
      match lowestBit ((s.berth b).pend &&& m) with
      | some i => s.takeEvent b q i
      | none => s.waitFor b .waite { Cur.init q .waite with target := q.imm 16 24 }

/-- The timeout of WAITE has passed with no bit pending: 0 and Z = 1 (R185). -/
def execWaiteTimeout (b : BerthId) (s : State) : Out :=
  match (s.berth b).cur with
  | some c =>
    if (s.berth b).state = .waiting ∧ c.phase = .waite ∧ c.admitted then
      answer ((s.modBerth b fun x => { x with z := true }).finish b c.ins .ok 0 none (some 0))
    else .next s
  | none => .next s

/-- SIGNAL: raises the SIGNAL event (R186). -/
def execSignal (b : BerthId) (s : State) : Out :=
  runTurn b 0x09 s fun q s => s.checked b q (q.only [fSrcA, (40, 1), (0, 32)]) fun s =>
    let arg : W32 := if q.modeBit 0 then q.word.setWidth 32 else ((s.berth b).reg q.srcA).setWidth 32
    (s.raiseEvent 1 arg (some b)).finish b q .ok

/-- Whether a berth waits on ORDER. -/
def Berth.onOrder (x : Berth) : Bool := x.state == .waiting && x.why == .order

/-- ORDER (R187). A count already reached completes first (log 23). -/
def execOrder (b : BerthId) (s : State) : Out :=
  runTurn b 0x0A s fun q s => s.checked b q (q.only [fSrcA, (0, 9)]) fun s =>
    let t := berthOf (q.imm 0 9)
    let c := ((s.berth b).reg q.srcA).toNat % 2 ^ 32
    if t = b ∨ orderReached s t c then s.finish b q .ok
    else if orderBroken (s.berth t) ∨ (s.berth t).onOrder then s.finish b q .wrongState
    else s.waitFor b .order { Cur.init q .order with target := c }

end Sys2Proof.Machine
end

