-- ==== Sys2Proof/Machine/DataInstr.lean ====
section
/-! DEFINITION. The data and region families (R190 to R201), one meaning per instruction. -/

namespace Sys2Proof.Machine

/-- READ (R190 to R192). -/
def execRead (b : BerthId) (s : State) : Out := turn b 0x20 s fun q s => s.readBody b q

/-- WRITE (R190, R191). -/
def execWrite (b : BerthId) (s : State) : Out := turn b 0x21 s fun q s => s.writeBody b q

/-- APPEND (R193). -/
def execAppend (b : BerthId) (s : State) : Out := turn b 0x22 s fun q s => s.writeBody b q

/-- COPY (R194). -/
def execCopy (b : BerthId) (s : State) : Out := turn b 0x23 s fun q s => s.copyBody b q

/-- VERIFY (R195). -/
def execVerify (b : BerthId) (s : State) : Out := turn b 0x24 s fun q s => s.readBody b q

/-- TRIM (R197). -/
def execTrim (b : BerthId) (s : State) : Out := turn b 0x30 s fun q s => s.trimBody b q

/-- WEED (R197, R316). -/
def execWeed (b : BerthId) (s : State) : Out := turn b 0x31 s fun q s => s.trimBody b q

/-- HOLD (R198, R199, R253 to R255). -/
def execHold (b : BerthId) (s : State) : Out := turn b 0x32 s fun q s => s.holdBody b q

/-- RELEASE (R200, R256). -/
def execRelease (b : BerthId) (s : State) : Out := turn b 0x33 s fun q s => s.releaseBody b q

/-- HARVEST (R200, R257). -/
def execHarvest (b : BerthId) (s : State) : Out := turn b 0x34 s fun q s => s.harvestBody b q

/-- RINGPOS (R201). -/
def execRingpos (b : BerthId) (s : State) : Out := turn b 0x35 s fun q s => s.ringposBody b q

end Sys2Proof.Machine
end

