-- ==== Sys2Proof/Machine/Registers.lean ====
section
/-! DEFINITION. Control space (R14 to R16, R70, R84, R139, R168, R189, R211, R244, R270, R299, R329, R349, R374, R399,
R415, R439, R460, R498): what every register reads, and what a write to it does. -/

namespace Sys2Proof.Machine

/-! ### Positions (R498) -/

/-- What a selected cascade position is: this controller, a member that has joined and is not lost, or neither. -/
inductive Site where
  | own | member | absent
  deriving DecidableEq, Repr

def State.place (s : State) (p : Nat) : Site :=
  if p = s.position then .own
  else if s.presentMembers.any fun m => m.val == p then .member
  else .absent

/-- The position that the fields of a register report, with the mask of those fields; none for a register that reports
no selected position. -/
def State.reports (s : State) (a : Nat) : Option (Nat × W32) :=
  let ring := bits s.rng.sel 16 2
  let log := bits s.log.sel 0 2
  let ftl := bits s.ftl.sel 0 2
  let cod := bits s.cod.sel 0 2
  let flt := bits s.flt.sel 0 2
  if a = 0x1904 then some (ring, 4)
  else if a = 0x192C then some (ring, 0xFF01FF)
  else if a = 0x1A04 then some (ring, 0xFF03FF)
  else if a = 0x1A08 then some (ring, 0xFFFF)
  else if a = 0x1A10 then some (ring, 0xFFFFFFFF)
  else if a = 0x1C04 then some (log, 0xFFFF000F)
  else if 0x1C08 ≤ a ∧ a ≤ 0x1C14 then some (log, 0xFFFFFFFF)
  else if a = 0x1C34 then some (log, 0xFFFFFF)
  else if 0x2404 ≤ a ∧ a ≤ 0x2458 then some (ftl, match a with
    | 0x2404 => 0xFFF7 | 0x2408 => 0xFFFF | 0x2410 => 0x3FF00FF | 0x2418 => 0x7F | 0x2420 => 0xFFFF07FF
    | 0x2434 | 0x2450 => 0xFFFF | 0x2438 | 0x243C => 0 | _ => 0xFFFFFFFF)
  else if 0x2804 ≤ a ∧ a ≤ 0x281C then some (cod, match a with
    | 0x2804 => 0x1FFFFFFF | 0x2818 => 0xFFFF | 0x281C => 0x3FFFF | _ => 0xFFFFFFFF)
  else if 0x3000 ≤ a ∧ a < 0x3200 then some (flt, match a % 0x20 with
    | 0 | 4 | 0xC => 0xF | 8 | 0x10 => 0 | 0x14 | 0x18 => 0xFF | _ => 0xFFFFFFFF)
  else if 0x3204 ≤ a ∧ a ≤ 0x3218 then some (flt, match a with
    | 0x3204 => 0xFFFFFF07 | 0x3208 => 0x1F3F | 0x3214 => 3 | 0x3218 => 0xFF | _ => 0xFFFFFFFF)
  else none

/-! ### Figures -/

/-- A ratio in units of 1 / `scale`; a fraction rounds freely (log 47), and no capacity at all reads full. -/
def ratio (scale n d max : Nat) : Nat :=
  if n = 0 then 0
  else if d = 0 then max
  else
    let q := n * scale / d
    min max (if n * scale % d ≠ 0 ∧ Config.roundUpPct (n * scale) d then q + 1 else q)

/-- F (R265) of this controller in bytes: its user capacity less mapped GENERAL and COMPAT data, less the ring slots. -/
def State.freeBytes (s : State) : Nat :=
  let user := 15360000000000 - (s.ftl.lostMib - opMib) * 2 ^ 20
  let n := s.positions.length
  let mapped := ((List.range 64).map fun r =>
    if s.rtype r = .general ∨ s.rtype r = .compat then 4096 * s.mappedIn r else 0).sum
  let slots := ((s.ringIds.filter s.ringHere).map fun r =>
    (s.ring r).k * 262144 * (if bit (s.region r).cfg.val 16 then (1024 + n - 1) / n else 1024)).sum
  user - (mapped + slots)

/-- User capacity of this controller in bytes. -/
def State.userBytes (s : State) : Nat := 15360000000000 - (s.ftl.lostMib - opMib) * 2 ^ 20

/-- The low half of a 64-bit value, and the high half. -/
def lo32 (v : W64) : W32 := v.setWidth 32
def hi32 (v : W64) : W32 := v.extractLsb' 32 32

/-- A signed value of 32 bits that saturates. -/
def satInt (v : Int) : W32 := BitVec.ofInt 32 (max (-2147483648) (min 2147483647 v))

/-- TIM_FREQ.CORR: units of 2^-10 ppm; a finer correction rounds freely (log 13). -/
def corrOf (freq : Int) : W32 := if freq % 32768 = 0 then satInt (freq / 32768) else Config.roundFreq freq

/-- Records sealed in the last second (LOG_RATE). -/
def State.sealRate (s : State) : W16 :=
  let now := s.tim.counter.toNat
  satNat 16 (s.log.recs.filter fun r =>
    (s.ownSeq s.log.rateFrom).toNat ≤ r.seq.toNat && r.time.toNat ≤ now && now ≤ r.time.toNat + 1000000000).length

/-- The largest run of free pool units. -/
def State.freeRun (s : State) : Nat :=
  ((List.range 1024).foldl (fun p u =>
    let run := if s.unitFree u then p.1 + 1 else 0
    (run, max p.2 run)) (0, 0)).2

/-- Reserved loads in % (TIM_GRLOAD, QUY_LOAD). -/
def State.dieLoad (s : State) : Nat :=
  let rs := s.resvs
  (s.positions.flatMap fun p => (List.range 8).map fun g =>
    ratio 100 (s.dieCharge rs p) (12 * 8 * 196608000 * (if p = s.position then s.groupDies g
      else if bit s.quy.lost p then 0 else 16)) 255).foldl max 0

def State.linkLoad (s : State) (up : Bool) : Nat :=
  let p := s.lnk.agreed.val
  ratio 100 (rateSum s.resvs up * (paramPay p + 20) * 130 * 8) (s.laneCount p up * s.laneMbps p * 128 * paramPay p) 255

def State.quayLoad (s : State) (p : Nat) : Nat :=
  max (ratio 100 (s.portLoad s.resvs p false).1 (s.portLoad s.resvs p false).2 255)
    (ratio 100 (s.portLoad s.resvs p true).1 (s.portLoad s.resvs p true).2 255)

/-! ### Reads, block by block -/

/-- TIM_ (Table TIDE-9); `p` is the snapshot of the reader (R57, R189). -/
def State.timReg (s : State) (p : Snapshot) (a : Nat) : W32 :=
  let t := s.tim
  match a with
  | 0x2000 => t.period.setWidth 32
  | 0x2004 => t.tideCount
  | 0x2008 => lo32 p.ns.val
  | 0x200C => hi32 p.ns.val
  | 0x2010 => lo32 p.ns.cpl
  | 0x2014 => hi32 p.ns.cpl
  | 0x2018 => p.qual.setWidth 32
  | 0x201C => t.htl
  | 0x2020 => t.hth
  | 0x2024 => t.htSeq.setWidth 32
  | 0x2028 => t.servo
  | 0x202C => t.stepThr
  | 0x2030 => t.syncAge
  | 0x2034 => t.holdMax
  | 0x2038 => satInt t.offset
  | 0x203C => corrOf t.freq
  | 0x2040 => t.mkAcc
  | 0x2044 => t.mkLate ++ t.mkOutlier
  | 0x2048 => t.steps.setWidth 32
  | 0x204C => Config.rxlatNarrow ++ Config.rxlatLane
  | 0x2050 => t.alml
  | 0x2054 => t.almh
  | 0x2058 => word [(t.armed.toNat, 1), (t.fired.toNat, 2)]
  | 0x2060 => word [(s.dieLoad, 0), (s.linkLoad false, 8), (s.linkLoad true, 16)]
  | 0x2064 => word [(s.pruneRes.toNat, 0), (t.bgUse.toNat, 8)]
  | 0x2068 => t.overMax ++ t.overCount
  | _ => 0

/-- LNK_ (Table LANE-8). -/
def State.lnkReg (s : State) (a : Nat) : W32 :=
  let l := s.lnk
  let link : Nat := match l.mode with
    | .narrow => 0 | .training => 1 | .lane => 2 | LinkMode.doze => 3
  match a with
  | 0x0C00 => word [(link, 0), (l.trainFail.toNat, 2), (l.active.toNat, 8), (l.down.toNat, 16)]
  | 0x0C04 => l.agreed.val.setWidth 32
  | 0x0C08 => l.agreed.cpl.setWidth 32
  | 0x0C0C => l.usable.setWidth 32
  | 0x0C10 => word [(l.dn1.toNat, 0), (l.dn2.toNat, 8), (l.dn3.toNat, 16)]
  | 0x0C14 => word [(l.up1.toNat, 0), (l.up2.toNat, 8), (l.up3.toNat, 16)]
  | 0x0C18 => word [(l.txNext.toNat, 0), (l.txAcked.toNat, 16)]
  | 0x0C1C => l.rxLast.setWidth 32
  | 0x0C20 => word [(min 255 l.creditDown, 0), (min 255 l.creditUp, 8), (l.depth.toNat, 16)]
  | 0x0C24 => word [(l.replayUs.toNat, 0), (l.replayCount.toNat, 16)]
  | 0x0C28 => word [(s.nar.tokCrc.toNat, 0), (s.nar.oversize.toNat, 8), (s.nar.timeout.toNat, 16)]
  | 0x0C2C => word [(l.hcrc.toNat, 0), (l.pcrc.toNat, 8), (l.format.toNat, 16), (l.oversize.toNat, 24)]
  | 0x0C30 => word [(l.retrainCount.toNat, 0), (l.seqGap.toNat, 8), (l.noCredit.toNat, 16)]
  | 0x0C34 => word [((l.mode == LinkMode.doze).toNat, 0), (l.dozeAllow.toNat, 1), (l.dozeDecline.toNat, 8)]
  | 0x0C38 => word [(l.wakeEn.toNat, 0), (l.wakeLow.toNat, 1), (l.hrefOk.toNat, 2)]
  | _ => 0

/-- BTH_ (Table BERTH-11); "selected" registers show the berth in BTH_SEL. -/
def State.bthReg (s : State) (a : Nat) : W32 :=
  let x := s.berth s.selected
  let flags := x.z.toNat + 2 * x.n.toNat + 4 * x.c.toNat + 8 * x.e.toNat
  let held := x.poolUnits != 0
  match a with
  | 0x1000 => s.bth.sel
  | 0x1004 => word [(x.kind.toNat, 0), (x.stopErr.toNat, 1), (x.rcomp.toNat, 2), (x.scolour.toNat, 4)]
  | 0x1008 => word [(x.state.code, 0), (if x.state = .waiting then x.why.code else 0, 4), (x.pc.toNat, 8), (flags, 24)]
  | 0x100C => word [(x.win.op.toNat, 1)]
  | 0x1010 => x.win.cmdSt.code.setWidth 32
  | 0x1014 => word [(x.poolBase, 0), (if held then x.poolUnits else x.win.units, 16)]
  | 0x1018 => word [(x.scrBase, 0), (if held then x.scrPages else x.win.pages, 16)]
  | 0x101C => x.win.resv
  | 0x1020 => x.win.resvRl
  | 0x1024 => x.win.resvRh
  | 0x1028 => word [(s.bth.resvSt.code.toNat, 0), (s.resvs.length, 8)]
  | 0x102C => word [(((List.range 1024).filter s.unitFree).length, 0), (s.freeRun, 16)]
  | 0x1030 => s.unreported
  | 0x1038 => s.bth.discard
  | 0x103C => s.bth.evMask
  | 0x1040 => s.bth.evBerth
  | 0x1044 => x.win.vsel.setWidth 32
  | 0x1048 => lo32 (x.reg x.win.vsel.toNat)
  | 0x104C => hi32 (x.reg x.win.vsel.toNat)
  | _ => 0

/-- A mask of regions that satisfy a predicate, from a first one on. -/
def regionMask (lo : Nat) (f : Nat → Bool) : W32 := BitVec.ofNat 32 (flagBits 32 fun i => f (lo + i))

/-- RGN_ and GRD_ (Table REGION-9). -/
def State.rgnReg (s : State) (a : Nat) : W32 :=
  let g := s.grd
  let x := s.berth s.selected
  if 0x1400 ≤ a ∧ a < 0x1600 then
    let r := s.region ((a - 0x1400) / 8)
    if a % 8 = 0 then r.cfg.val else r.siz.val
  else match a with
  | 0x1600 => regionMask 0 s.regionFenced
  | 0x1604 => regionMask 32 s.regionFenced
  | 0x1608 => regionMask 0 fun r => (s.region r).mro
  | 0x160C => regionMask 32 fun r => (s.region r).mro
  | 0x1610 => BitVec.ofNat 32 s.rgnFree
  | 0x1700 => word [(g.lock.val.toNat, 0), (s.entryBlocked.toNat, 4), (g.password.isSome.toNat, 5), (min 5 g.tries, 8)]
  | 0x1704 => word [(x.session.set.toNat, 0), (x.session.chal.isSome.toNat, 16)]
  | 0x1708 => word [(g.gate.isSome.toNat, 0),
      (match g.gate with
        | some t => ((List.range 64).find? fun i => bit t.regions i).getD 0
        | none => 0, 8),
      (g.timeouts.toNat, 16)]
  | 0x170C => g.deny
  | 0x1710 => g.hmacFail.setWidth 32
  | 0x1714 => word [(flagBits 8 fun c => c != 0 && (g.colourPw.toList.getD c none).isSome, 0), (Config.colourKeyMask.toNat, 8)]
  | 0x1718 => g.pwSel.setWidth 32
  | 0x172C => word [(g.erasePct.toNat, 0), (g.eraseResumed.toNat, 8), (g.eraseDone.toNat, 12)]
  | 0x1730 => g.tagFlt.setWidth 32
  | _ => 0

/-- RING_ (Table RING-9). -/
def State.ringReg (s : State) (a : Nat) : W32 :=
  let r := bits s.rng.sel 0 6
  let x := s.ring r
  let pos (v : Nat) (hi : Bool) : W32 := if hi then BitVec.ofNat 32 (v >>> 32) else BitVec.ofNat 32 v
  let h := s.holds.find? fun x => x.id == bits s.rng.hsel 0 8
  let ofHold (f : Hold → W32) : W32 := match h with
    | some h => f h
    | none => 0
  if 0x1804 ≤ a ∧ a < 0x1900 then (s.region ((a - 0x1800) / 4)).ringCfg.val
  else match a with
  | 0x1900 => s.rng.sel
  | 0x1904 => if s.rtype r ≠ .ring then 0 else
      word [((s.belowMin r).toNat, 0), ((s.appendsShut r || s.regionFenced r).toNat, 1), ((!s.shareRoom r).toNat, 2),
        ((s.holdsOn r).length, 8), (min 65535 (x.segs.filter fun g => s.pinnedSeg r g).length, 16)]
  | 0x1908 => BitVec.ofNat 32 x.k
  | 0x190C => BitVec.ofNat 32 (s.heldCount r)
  | 0x1910 => BitVec.ofNat 32 (s.freeSlots r)
  | 0x1914 => s.rng.tailSnap.val.setWidth 32
  | 0x1918 => (s.rng.tailSnap.val >>> 32).setWidth 32
  | 0x191C => s.rng.tailSnap.cpl.setWidth 32
  | 0x1920 => (s.rng.tailSnap.cpl >>> 32).setWidth 32
  | 0x1924 => pos (s.oldestLive r) false
  | 0x1928 => pos (s.oldestLive r) true
  | 0x192C => if s.rtype r ≠ .ring then 0 else
      word [(s.sbShare r / 2 ^ 30, 0), (ratio 100 (s.fillOf r) (s.sbShare r) 255, 16)]
  | 0x1930 => x.wraps
  | 0x1934 => x.pinWait.setWidth 32
  | 0x1980 => s.rng.hsel
  | 0x1984 => ofHold fun h => word [(1, 0), (h.colour.isSome.toNat, 1), ((h.colour.getD 0).toNat, 4), (h.region, 8)]
  | 0x1988 => ofHold fun h => pos h.first false
  | 0x198C => ofHold fun h => pos h.first true
  | 0x1990 => ofHold fun h => BitVec.ofNat 32 h.segs.length
  | 0x1994 => ofHold fun h => lo32 h.time
  | 0x1998 => ofHold fun h => hi32 h.time
  | 0x1A00 => BitVec.ofNat 32 s.holds.length
  | 0x1A04 => word [(s.rng.gsbSize / 2 ^ 30, 0), (ratio 100 s.gsbFill s.rng.gsbSize 255, 16)]
  | 0x1A08 => BitVec.ofNat 32 (ratio 10000 s.freeBytes s.userBytes 65535)
  | 0x1A0C => s.rng.tpace
  | 0x1A10 => satNat 32 (s.rng.xplant / 2 ^ 30)
  | _ => 0

/-- LOG_ and CTR_ (Table LOG-9). -/
def State.logReg (s : State) (a : Nat) : W32 :=
  let l := s.log
  if 0x1E00 ≤ a ∧ a < 0x1E80 then (s.counter (Fin.ofNat 32 ((a - 0x1E00) / 4))).cfg.val
  else match a with
  | 0x1C00 => l.sel
  | 0x1C04 => word [((l.full || l.exhausted).toNat, 0), (l.exhausted.toNat, 1), (l.fenced.toNat, 2), (l.oneCopy.toNat, 3),
      (l.unsealed.toNat, 16)]
  | 0x1C08 => lo32 (s.ownSeq l.next)
  | 0x1C0C => hi32 (s.ownSeq l.next)
  | 0x1C10 => lo32 (s.ownSeq l.old)
  | 0x1C14 => hi32 (s.ownSeq l.old)
  | 0x1C18 => lo32 l.arch
  | 0x1C1C => hi32 l.arch
  | 0x1C20 => l.archSetL
  | 0x1C24 => l.archSetH
  | 0x1C2C => lo32 l.lastCp
  | 0x1C30 => hi32 l.lastCp
  | 0x1C34 => word [(min 255 l.spare, 0), (l.retired.toNat, 8), (min 255 l.lent, 16)]
  | 0x1C38 => l.wearMax ++ l.wearMean
  | 0x1C3C => s.sealRate.setWidth 32
  | 0x1C40 => BitVec.ofNat 32 (min 1024 Config.certificate.length)
  | 0x1C44 => l.certOff
  | 0x1C48 => l.certDat
  | 0x1E80 => s.ctr.sel
  | 0x1E84 => lo32 s.ctr.snap.val
  | 0x1E88 => hi32 s.ctr.snap.val
  | 0x1E8C => lo32 s.ctr.snap.cpl
  | 0x1E90 => hi32 s.ctr.snap.cpl
  | 0x1E94 => s.ctr.fence
  | 0x1E98 => BitVec.ofNat 32 (flagBits 32 fun i => (s.counter (Fin.ofNat 32 i)).value == some (BitVec.allOnes 64))
  | 0x1E9C => s.ctr.recov.setWidth 32
  | _ => 0

/-- FTL_ (Table MEDIA-8). -/
def State.ftlReg (s : State) (a : Nat) : W32 :=
  let f := s.ftl
  let root := (if f.rootSlot then f.root1 else f.root0).seq.val
  let spare (lo : Nat) : W32 := word [(min 65535 (s.setSpares lo), 0), (min 65535 (s.setSpares (lo + 1)), 16)]
  match a with
  | 0x2400 => f.sel
  | 0x2404 => word [(s.pruneRes.toNat, 0), (f.exhausted.toNat, 1), ((opHalf f.lostMib).toNat, 2),
      (flagBits 4 (s.setBelow (pruneLow f.pruneNow)), 4), (flagBits 4 (s.setBelow (pruneCrit f.pruneNow)), 8),
      (flagBits 4 fun i => !s.setOpens i, 12)]
  | 0x2408 => f.prune
  | 0x240C => word ((List.range 4).map fun i => (min 255 (f.freeRows.toList.getD i 0), 8 * i))
  | 0x2410 => f.patrol ||| word [(ratio 1000 f.patrolPos s.patrolItems.length 1000, 16)]
  | 0x2414 => f.passes
  | 0x2418 => f.refresh
  | 0x241C => f.missK ++ f.mapHitMib
  | 0x2420 => word [(min 1024 f.since, 0), (f.perTide.toNat, 16)]
  | 0x2424 => lo32 root
  | 0x2428 => hi32 root
  | 0x242C => spare 0
  | 0x2430 => spare 2
  | 0x2434 => f.retiredCount.setWidth 32
  | 0x2440 => ((f.dieFence ||| s.flt.fences.forcedDies).setWidth 32)
  | 0x2444 => ((f.dieFence ||| s.flt.fences.forcedDies).extractLsb' 32 32)
  | 0x2448 => ((f.dieFence ||| s.flt.fences.forcedDies).extractLsb' 64 32)
  | 0x244C => ((f.dieFence ||| s.flt.fences.forcedDies).extractLsb' 96 32)
  | 0x2450 => (f.chFence ||| s.flt.fences.forcedChannels).setWidth 32
  | 0x2454 => f.orphansK ++ f.recovMs
  | 0x2458 => word [(min 255 f.weeds, 0), (min 16777215 f.weedRows, 8)]
  | _ => 0

/-- COD_ and MEM_ (Table MEM-4). -/
def State.codReg (s : State) (a : Nat) : W32 :=
  let c := s.cod
  let m := s.memSel.map s.memOf
  let ofMem (f : Mem → W32) : W32 := match m with
    | some x => f x
    | none => 0
  match a with
  | 0x2800 => c.sel
  | 0x2804 => (c.fenceWord ||| s.flt.fences.forcedCodec).setWidth 32
  | 0x2808 => c.hardCount
  | 0x280C => c.softCount
  | 0x2810 => c.rebuild
  | 0x2814 => c.lost
  | 0x2818 => c.miscor.setWidth 32
  | 0x281C => word [(c.peakBits.toNat, 0), (c.peakCode.toNat, 16)]
  | 0x2A00 => s.mem.sel
  | 0x2A04 => ofMem (·.ce)
  | 0x2A08 => ofMem (·.ue)
  | 0x2A0C => ofMem (·.lastCe)
  | 0x2A10 => ofMem (·.lastUe)
  | 0x2A14 => ofMem fun x => word [(min 16 x.remap.length, 0), ((16 ≤ x.remap.length : Bool).toNat, 5),
      (min 255 x.withdrawn.length, 8)]
  | 0x2A18 => s.mem.rmSel
  | 0x2A1C => ofMem fun x => x.remap.getD (bits s.mem.rmSel 0 4) 0xFFFFFFFF
  | 0x2A20 => ofMem (·.flipAddr)
  | 0x2A24 => ofMem (·.flipMask)
  | 0x2A28 => ofMem fun x => word [(x.flipArmed.toNat, 1), (x.flipHit.toNat, 2)]
  | 0x2A2C => s.mem.crcFail ++ s.mem.scrub.setWidth 16
  | 0x2A30 => word [(s.mem.width.toNat, 0), (s.mem.dramFenced.toNat, 4)]
  | _ => 0

/-- HUP_ (Table HUP-10). REMOVING is set while a removal sequence runs (log 14). -/
def State.hupReg (s : State) (a : Nat) : W32 :=
  let h := s.hup
  let waiting := h.queue.length + (s.quy.held.filter fun p => p.waiting).length
  match a with
  | 0x2C00 => word [(h.ledger.code, 0), (h.overdrawn.toNat, 2), (h.charging.toNat, 3), (h.onBank.toNat, 4), (h.removing.toNat, 5),
      (min 255 waiting, 8)]
  | 0x2C04 => h.vinMv ++ h.bankMv
  | 0x2C08 => (match h.capAt with
      | some t => satNat 16 ((s.tim.counter.toNat - t.toNat) / 60000000000)
      | none => 0) ++ h.capUf
  | 0x2C0C => h.snapEu.val.setWidth 32
  | 0x2C10 => h.snapEu.cpl.setWidth 32
  | 0x2C14 => h.snapDebit.val.setWidth 32
  | 0x2C18 => h.snapDebit.cpl.setWidth 32
  | 0x2C1C => word [(min 65535 h.kib, 0), (min 255 h.seals, 16), (min 255 h.commits, 24)]
  | 0x2C20 => h.cfg
  | 0x2C24 => h.chg
  | 0x2C28 => word [(h.capLast.toNat, 1)]
  | 0x2C2C => h.wt ++ h.waits
  | 0x2C30 => word [((h.release == .pending).toNat, 1), ((h.release == .safe).toNat, 2)]
  | 0x2C34 => BitVec.ofNat 32 s.lampCode
  | 0x2C38 => word [(h.rmvSrc.toNat, 0), (h.rmvClean.toNat, 2), (h.rmvMs.toNat, 8), (h.rmvEu.toNat, 16)]
  | _ => 0

def Dom.code : Dom → Nat
  | .on => 0 | .retention => 1 | .off => 2 | .failed => 3

/-- PMU_ (Table POWER-8). -/
def State.pmuReg (s : State) (a : Nat) : W32 :=
  let p := s.pmu
  match a with
  | 0x0800 => word ((List.range 16).map fun i => ((s.dom (Fin.ofNat 16 i)).code, 2 * i))
  | 0x0804 => p.req
  | 0x0808 => word [(p.answer.toNat, 0), (p.ansDom.toNat, 4), (p.reason.toNat, 8), (p.delayT.toNat, 12), (p.delayN.toNat, 17),
      (p.pend.toNat, 20)]
  | 0x080C => p.auto
  | 0x0810 => p.failed.setWidth 32
  | 0x0814 => p.wakeSrc.setWidth 32
  | 0x0818 => word [(p.lastSrc.toNat, 0), (p.lastDoms.toNat, 16)]
  | 0x081C => lo32 p.lastTime
  | 0x0820 => hi32 p.lastTime
  | 0x0824 => word [(p.pgood.toNat, 0), (p.retried.toNat, 8), (p.railFailed.toNat, 16), ((bit s.rst.strapCode 2).toNat, 24)]
  | 0x0828 => word [(p.pll.toNat, 0), (p.xtal.toNat, 1), (p.locks.toNat, 2), (p.rcOnly.toNat, 6)]
  | 0x082C => p.refusals ++ p.delays
  | _ => 0

/-- RST_ (Table RST-7). -/
def State.rstReg (s : State) (a : Nat) : W32 :=
  let r := s.rst
  match a with
  | 0x0400 => r.cause.setWidth 32
  | 0x0404 => word [(r.last.toNat, 0), (r.count.toNat, 16)]
  | 0x0408 => word [(r.strapCode.toNat, 0), (r.strapRaw.toNat, 4), (r.strapFaults.toNat, 16), (r.strapChanged.toNat, 18)]
  | 0x040C => word [(r.trimTries.toNat, 0), (r.trimRec.toNat, 8), (r.trimLoaded.toNat, 16)]
  | 0x0410 => word [(r.deferUs.toNat, 0), (r.deferFenced.toNat, 16)]
  | 0x0414 => r.blkDom.setWidth 32
  | 0x0418 => r.blkResult.setWidth 32
  | 0x041C => r.bkSel.setWidth 32
  | 0x0420 => lo32 r.bkSnap.val
  | 0x0424 => hi32 r.bkSnap.val
  | 0x0428 => lo32 r.bkSnap.cpl
  | 0x042C => hi32 r.bkSnap.cpl
  | 0x0434 => r.bkValid.setWidth 32
  | _ => 0

/-- FLT_ (Table FLT-6). -/
def State.fltReg (s : State) (a : Nat) : W32 :=
  let f := s.flt
  if 0x3000 ≤ a ∧ a < 0x3200 then
    let b := (a - 0x3000) / 0x20
    let src (j : Nat) : Source := f.src[Fin.ofNat 64 (4 * b + j)]
    let each (n : Nat) (g : Nat → Nat) : W32 := word ((List.range 4).map fun j => (g j, n * j))
    match a % 0x20 with
    | 0 => each 1 fun j => (s.condition (4 * b + j)).isSome.toNat
    | 4 => each 1 fun j => (src j).sticky.toNat
    | 0xC => (f.mask[Fin.ofNat 16 b]).setWidth 32
    | 0x14 => each 2 fun j => (src j).cls.code
    | 0x18 => each 2 fun j => (src j).ceil.toNat
    | 0x1C => each 8 fun j => (src j).count.toNat
    | _ => 0
  else match a with
  | 0x3200 => f.sel
  | 0x3204 =>
    let active := s.highest
    word [(match active with
        | some c => c.code
        | none => 0, 0), (active.isSome.toNat, 2),
      (min 255 (f.src.toList.filter fun x => x.sticky).length, 8),
      (flagBits 16 fun b => (List.range 4).any fun j => (f.src.toList.getD (4 * b + j) f.src[0]).sticky, 16)]
  | 0x3208 => word [(f.lastSrc.toNat, 0), (f.lastCls.code, 8), (f.lastEsc.toNat, 10), (f.lastMerged.toNat, 11),
      (f.lastForced.toNat, 12)]
  | 0x320C => lo32 f.lastTime
  | 0x3210 => hi32 f.lastTime
  | 0x3214 => word [(f.factory.toNat, 0), (s.forceInert.toNat, 1)]
  | 0x3218 => f.funit.setWidth 32
  | _ => 0

/-- MON_ and UCS_ (Table FLT-6). -/
def State.monReg (s : State) (a : Nat) : W32 :=
  let m := s.mon
  let u := s.ucs
  match a with
  | 0x3400 => m.stctl
  | 0x3404 => word [(m.pos, 0), (m.cycles.toNat, 16)]
  | 0x3408 => word [(m.test.toNat, 0), (m.item.toNat, 8), (m.result.toNat, 12)]
  | 0x340C => m.fail.setWidth 32
  | 0x3410 => m.skip.setWidth 32
  | 0x3414 => m.tempB ++ m.tempA
  | 0x3418 => word [(m.throttle.toNat, 0), (m.shut.toNat, 1), (m.disagree.toNat, 2)]
  | 0x341C => word [((~~~m.adcFailed).toNat, 0), (m.adcFailed.toNat, 4)]
  | 0x3C00 => Config.romSeq ++ Config.romEngine
  | 0x3C04 => word [(u.patchState.toNat, 0), (min 256 u.patchRam.length, 8)]
  | 0x3C08 => u.patchId
  | 0x3C0C => BitVec.ofNat 32 (flagBits 16 fun i => (u.matches_.toList.getD i none).isSome)
  | 0x3C10 => word [(u.perr.toNat, 0), (u.restarts.toNat, 8)]
  | 0x3C14 => u.seqPerr.setWidth 32
  | _ => 0

def PortState.code : PortState → Nat
  | .down => 0 | .training => 1 | .up => 2 | .fenced => 3

/-- QUY_ (Table CASC-8). -/
def State.quyReg (s : State) (a : Nat) : W32 :=
  let q := s.quy
  let port (p : Port) : W32 :=
    word [(p.state.code, 0), (p.slow.toNat, 2), (p.replays.toNat, 8), (p.retrains.toNat, 16)]
  match a with
  | 0x3800 => word [(s.position, 0), (q.present.toNat, 4), (q.lost.toNat, 8), (q.strobe.toNat, 12)]
  | 0x3804 => q.map.val.setWidth 32
  | 0x3808 => port q.ports[0]
  | 0x380C => port q.ports[1]
  | 0x3810 => port q.ports[2]
  | 0x3814 => word [(q.startMs.toNat, 0), (q.late.toNat, 16)]
  | 0x3818 => word [(q.offNs.toNat, 0), (Config.quayDelay.toNat, 16), (q.errs.toNat, 24)]
  | 0x381C => q.silent
  | 0x3820 => word [(min 65535 q.out.length, 0), (q.lostSubs.toNat, 16)]
  | 0x3824 => word [(s.quayLoad 1, 0), (s.quayLoad 2, 8), (s.quayLoad 3, 16)]
  | _ => 0

/-- Bytes 0x00-0x1B of a status block (Table BERTH-8). -/
def Berth.statusBytes (x : Berth) : List Byte :=
  let k := x.kept.getD x.block
  leBytes 1 x.state.code ++ [x.lastStatus.code, x.lastOpcode, x.lastQfree] ++
  leBytes 2 x.lastTag.toNat ++ leBytes 2 x.badTag.toNat ++
  leBytes 4 x.lastDone.toNat ++ leBytes 4 x.lastFirst.toNat ++ leBytes 4 x.cseq.toNat ++ leBytes 4 x.rseq.toNat ++
  [x.badStat] ++ leBytes 1 (k.flags.toNat + 16 * k.reserved.toNat + 32 * k.resident.toNat) ++ leBytes 2 k.pc.toNat

/-- A status block with its CRC-16 (R164, Table BERTH-8). -/
def Berth.statusBlock (x : Berth) : List Byte :=
  x.statusBytes ++ leBytes 2 (crc16 x.statusBytes).toNat ++ zeros 2

/-- The value of the register or status-block word at an aligned address, on this controller. -/
def State.ownReg (s : State) (p : Snapshot) (a : Nat) : W32 :=
  if 0xC000 ≤ a then 0
  else if 0x8000 ≤ a then
    BitVec.ofNat 32 (ofLe (slice (s.berth (berthOf ((a - 0x8000) / 32))).statusBlock (a % 32) 4))
  else match a / 0x400 with
    | 1 => s.rstReg a
    | 2 => s.pmuReg a
    | 3 => s.lnkReg a
    | 4 => s.bthReg a
    | 5 => s.rgnReg a
    | 6 => s.ringReg a
    | 7 => s.logReg a
    | 8 => s.timReg p a
    | 9 => s.ftlReg a
    | 10 => s.codReg a
    | 11 => s.hupReg a
    | 12 => s.fltReg a
    | 13 | 15 => s.monReg a
    | 14 => s.quyReg a
    | _ => 0

/-! ### Reads -/

/-- What a read latches or steps (R57, R270, R299, R374, R415, Table LOG-9); a berth's time snapshot is its own (R189). -/
def State.readEffect (s : State) (who : Option BerthId) (a : Nat) : State :=
  match a with
  | 0x2008 => match who with
    | none => s.latchNow
    | some b =>
      let s := s.elapse
      s.modBerth b fun x => { x with snap := s.snapshot }
  | 0x200C | 0x2010 | 0x2014 | 0x2018 => match who with
    | none => s
    | some b => s.checkSnap b
  | 0x2C0C => s.checkLedger.latchEu
  | 0x1914 => s.latchTail
  | 0x1E84 => s.latchCounter
  | 0x0420 => s.bkLatch
  | 0x1C48 => s.readCert
  | _ => s

/-- The time snapshot that the reader sees. -/
def State.snapOf (s : State) (who : Option BerthId) : Snapshot :=
  match who with
  | none => s.tim.snap
  | some b => (s.berth b).snap

/-- A read of an aligned address by CTL_RD (`who` none) or LDC (R84, R189). A joined member's fields are its own and so
free here (log 30); an absent position's read 0 (R498). -/
def State.ctlRead (s : State) (who : Option BerthId) (a : Nat) : W32 × State :=
  let s := s.readEffect who a
  let own := s.ownReg (s.snapOf who) a
  match s.reports a with
  | none => (own, s)
  | some (p, mask) => match s.place p with
    | .own => (own, s)
    | .absent => (own &&& ~~~mask, s)
    | .member =>
      let (n, s) := s.draw
      ((own &&& ~~~mask) ||| ((Config.freeWord n).setWidth 32 &&& mask), s)

/-! ### Writes -/

/-- Registers all of whose fields are RO. -/
def readOnly (a : Nat) : Bool :=
  let within := fun (lo hi : Nat) => lo ≤ a && a ≤ hi
  a == 0x0404 || a == 0x040C || a == 0x0410 || a == 0x0418 || a == 0x0434 ||
  a == 0x0800 || a == 0x0808 || a == 0x0810 || within 0x0818 0x082C ||
  within 0x0C00 0x0C20 || within 0x0C28 0x0C30 ||
  a == 0x1008 || a == 0x1010 || a == 0x1028 || a == 0x102C || a == 0x1030 || a == 0x1038 || a == 0x1048 || a == 0x104C ||
  within 0x1600 0x1610 || within 0x1700 0x1714 || a == 0x172C || a == 0x1730 ||
  within 0x1904 0x1934 || within 0x1984 0x1998 || within 0x1A00 0x1A08 || a == 0x1A10 ||
  within 0x1C04 0x1C1C || within 0x1C2C 0x1C40 || a == 0x1C48 || within 0x1E84 0x1E9C ||
  within 0x2000 0x2018 || within 0x2038 0x204C || within 0x2060 0x2068 ||
  a == 0x2404 || a == 0x240C || a == 0x2414 || within 0x241C 0x2434 || within 0x2440 0x2458 ||
  within 0x2804 0x2818 || within 0x2A04 0x2A14 || a == 0x2A1C || a == 0x2A30 ||
  within 0x2C00 0x2C1C || a == 0x2C2C || a == 0x2C34 || a == 0x2C38 ||
  (within 0x3000 0x31FF && (a % 0x20 == 0 || a % 0x20 == 4 || a % 0x20 == 0x14 || a % 0x20 == 0x1C)) ||
  within 0x3204 0x3214 || within 0x3404 0x341C || within 0x3C00 0x3C14 ||
  a == 0x3800 || within 0x3808 0x3818 || a == 0x3820 || a == 0x3824

/-- Writes to TIM_ and LNK_. -/
def State.writeTim (s : State) (a : Nat) (v : W32) : State :=
  match a with
  | 0x201C => { s with tim := { s.tim with htl := v } }
  | 0x2020 => { s with tim := { s.tim with hth := v } }
  | 0x2024 =>
    let seq : Byte := v.setWidth 8
    if bit v 8 then s.htgo seq else { s with tim := { s.tim with htSeq := seq } }
  | 0x2028 => { s with tim := { s.tim with servo := v &&& 0xFFFF } }
  | 0x202C => { s with tim := { s.tim with stepThr := v &&& 0xFFFFFF } }
  | 0x2030 => { s with tim := { s.tim with syncAge := v &&& 0xFFFF } }
  | 0x2034 => { s with tim := { s.tim with holdMax := v &&& 0x3FFF } }
  | 0x2050 => { s with tim := { s.tim with alml := v } }
  | 0x2054 => { s with tim := { s.tim with almh := v } }
  | 0x2058 =>
    let s := if bit v 2 then { s with tim := { s.tim with fired := false } } else s
    if bit v 0 then s.armFromRegs else s
  | 0x0C24 => { s with lnk := { s.lnk with replayUs := v.setWidth 8 } }
  | 0x0C34 => { s with lnk := { s.lnk with dozeAllow := bit v 1 } }
  | 0x0C38 => { s with lnk := { s.lnk with
      wakeEn := bit v 0
      wakeLow := if s.lnk.mode = LinkMode.doze then bit v 0 && !s.nar.up.isEmpty else s.lnk.wakeLow } }
  | 0x0C3C => if bit v 0 then s.clearLink else s
  | _ => s

/-- Writes to BTH_: what holds a choice for the selected berth, commands and requests (R148, R149, R159, R165). -/
def State.writeBth (s : State) (who : BerthId) (a : Nat) (v : W32) : Status × State :=
  let free := (s.berth s.selected).poolUnits == 0
  match a with
  | 0x1000 => (.ok, { s with bth := { s.bth with sel := v &&& 0x1FF } })
  | 0x1004 => s.writeBthCfg who v
  | 0x100C =>
    let s := s.modWindow fun w => { w with op := v.extractLsb' 1 3 }
    (.ok, if bit v 0 then s.berthCommand (bits v 1 3) else s)
  | 0x1014 => (.ok, if free then s.modWindow fun w => { w with units := bits v 16 11 } else s)
  | 0x1018 => (.ok, if free then s.modWindow fun w => { w with pages := bits v 16 7 } else s)
  | 0x101C => (.ok, s.writeResv v)
  | 0x1020 => (.ok, s.modWindow fun w => { w with resvRl := v })
  | 0x1024 => (.ok, s.modWindow fun w => { w with resvRh := v })
  | 0x1034 => (.ok, if bit v 0 then s.clearUnrep else s)
  | 0x103C => (.ok, { s with bth := { s.bth with evMask := v &&& 0xFFFF } })
  | 0x1040 => (.ok, { s with bth := { s.bth with evBerth := v &&& 0x1FF } })
  | 0x1044 => (.ok, s.modWindow fun w => { w with vsel := v.setWidth 4 })
  | _ => (.ok, s)

/-- Writes to RING_, LOG_, CTR_ and FTL_. -/
def State.writeLog (s : State) (a : Nat) (v : W32) : Status × State :=
  match a with
  | 0x1900 => (.ok, { s with rng := { s.rng with sel := v &&& 0x3003F } })
  | 0x1980 => (.ok, { s with rng := { s.rng with hsel := v &&& 0xFF } })
  | 0x1A0C => (.ok, { s with rng := { s.rng with tpace := v &&& 0x7F7F } })
  | 0x1C00 => (.ok, { s with log := { s.log with sel := v &&& 3 } })
  | 0x1C20 => (.ok, { s with log := { s.log with archSetL := v } })
  | 0x1C24 => (.ok, { s with log := { s.log with archSetH := v } })
  | 0x1C28 => if bit v 0 then s.archGo else (.ok, s)
  | 0x1C44 => (.ok, { s with log := { s.log with certOff := v &&& 0x3FC } })
  | 0x1E80 => (.ok, { s with ctr := { s.ctr with sel := v &&& 0x1F } })
  | 0x2400 => (.ok, { s with ftl := { s.ftl with sel := v &&& 3 } })
  | 0x2408 => (.ok, { s with ftl := { s.ftl with prune := v &&& 0xFFFF } })
  | 0x2410 => (.ok, { s with ftl := { s.ftl with patrol := v &&& 0xFF } })
  | 0x2418 => (.ok, { s with ftl := { s.ftl with refresh := v &&& 0x7F } })
  | _ => (.ok, s)

/-- A change of the selected memory; none is selected for a reserved number. -/
def State.modMem (s : State) (f : Mem → Mem) : State :=
  match s.memSel with
  | some m => s.setMem m (f (s.memOf m))
  | none => s

/-- Writes to COD_, MEM_ and HUP_. -/
def State.writeMem (s : State) (a : Nat) (v : W32) : Status × State :=
  match a with
  | 0x2800 => (.ok, { s with cod := { s.cod with sel := v &&& 3 } })
  | 0x281C => (.ok, if bit v 31 then s.clearPeak else s)
  | 0x2A00 => (.ok, { s with mem := { s.mem with sel := v &&& 0xF } })
  | 0x2A18 => (.ok, { s with mem := { s.mem with rmSel := v &&& 0xF } })
  | 0x2A20 => (.ok, s.modMem fun m => { m with flipAddr := v })
  | 0x2A24 => (.ok, s.modMem fun m => { m with flipMask := v &&& 0xFFFF })
  | 0x2A28 =>
    let s := if bit v 2 then s.modMem fun m => { m with flipHit := false } else s
    if bit v 0 then s.armFlip else (.ok, s)
  | 0x2A2C => (.ok, { s with mem := { s.mem with scrub := v &&& 0xFFFF } })
  | 0x2C20 => (.ok, { s with hup := { s.hup with cfg := v &&& 0xFFFF00FF } })
  | 0x2C24 => (.ok, { s with hup := { s.hup with chg := v &&& 0xF7F } })
  | 0x2C28 => (.ok, if bit v 0 then s.capGo else s)
  | 0x2C30 => (.ok, if bit v 0 then s.relDone else s)
  | _ => (.ok, s)

/-- A half of the selected backup register; BK0-BK3 are RO (R414). -/
def State.writeBk (s : State) (f : Rst → Rst) : Status × State :=
  if s.bkIndex.val < 4 then (.badField, s) else (.ok, { s with rst := f s.rst })

/-- Writes to RST_ and PMU_. -/
def State.writeRst (s : State) (a : Nat) (v : W32) : Status × State :=
  match a with
  | 0x0400 => (.ok, { s with rst := { s.rst with cause := s.rst.cause &&& ~~~(v.setWidth 13) } })
  | 0x0408 => (.ok, if bit v 18 then { s with rst := { s.rst with strapChanged := false } } else s)
  | 0x0414 => if bit v 8 then s.blkGo v else (.ok, { s with rst := { s.rst with blkDom := v.setWidth 4 } })
  | 0x041C => (.ok, { s with rst := { s.rst with bkSel := v.setWidth 3 } })
  | 0x0420 => s.writeBk fun r => { r with bkl := v }
  | 0x0424 => s.writeBk fun r => { r with bkh := v }
  | 0x0428 => s.writeBk fun r => { r with bkcl := v }
  | 0x042C => s.writeBk fun r => { r with bkch := v }
  | 0x0430 => if bit v 0 then s.bkWrite else (.ok, s)
  | 0x0804 => if bit v 8 then s.pmuGo v else (.ok, { s with pmu := { s.pmu with req := v &&& 0x3F } })
  | 0x080C => (.ok, { s with pmu := { s.pmu with auto := v &&& 0xFFFF } })
  | 0x0814 => (.ok, { s with pmu := { s.pmu with wakeSrc := s.pmu.wakeSrc &&& ~~~(v.setWidth 9) } })
  | _ => (.ok, s)

/-- The sources of a fault block that are not reserved (Table FLT-1); the bits of a reserved one read 0 (R16, R416). -/
def definedIn (b : Fin 16) : BitVec 4 :=
  BitVec.ofNat 4 (flagBits 4 fun i => !reservedSource (Fin.ofNat 64 (4 * b.val + i)))

/-- FLT_CEILb; a reserved source has no ceiling. -/
def State.writeCeil (s : State) (b : Fin 16) (v : W32) : State :=
  let put (i : Fin 64) : Source :=
    if i.val / 4 = b.val && !reservedSource i then
      { s.flt.src[i] with ceil := v.extractLsb' (2 * (i.val % 4)) 2 }
    else s.flt.src[i]
  { s with flt := { s.flt with src := Vector.ofFn put } }

/-- Writes to FLT_, MON_ and QUY_. -/
def State.writeFlt (s : State) (a : Nat) (v : W32) : Status × State :=
  if 0x3000 ≤ a ∧ a < 0x3200 then
    let b : Fin 16 := Fin.ofNat 16 ((a - 0x3000) / 0x20)
    match a % 0x20 with
    | 8 => (.ok, s.ack b (v.setWidth 4))
    | 0xC => (.ok, { s with flt := { s.flt with mask := s.flt.mask.set b.val (v.setWidth 4 &&& definedIn b) b.isLt } })
    | 0x10 => s.force b (v.setWidth 4)
    | 0x18 => (.ok, s.writeCeil b v)
    | _ => (.ok, s)
  else match a with
    | 0x3200 => (.ok, { s with flt := { s.flt with sel := v &&& 3 } })
    | 0x3218 => (.ok, { s with flt := { s.flt with funit := v.setWidth 8 } })
    | 0x3400 => (.ok, { s with mon := { s.mon with stctl := v &&& 0xF01 } })
    | 0x381C => (.ok, { s with quy := { s.quy with silent := v &&& 0x7F } })
    | _ => (.ok, s)

/-- The register's fields belong to a position that is not this controller. -/
def State.elsewhere (s : State) (a : Nat) : Bool :=
  match s.reports a with
  | some (p, _) => s.place p != .own
  | none => false

/-- A write by STC of berth `who`, or by CTL_WR, which acts as berth 0 (R84, R211, R225): its status. A reserved offset ignores
it (R16), and so do the fields of a position that is not this controller: absent ones by R498, a member's because they are its
own (log 30). -/
def State.ctlWrite (s : State) (who : BerthId) (a : Nat) (v : W32) : Status × State :=
  if a % 4 ≠ 0 ∨ 0x8000 ≤ a then (.badField, s)
  else if (settingAt a).isSome then (.wrongState, s)
  else if readOnly a then (.badField, s)
  else if s.elsewhere a then (.ok, s)
  else match a / 0x400 with
    | 1 | 2 => s.writeRst a v
    | 3 | 8 => (.ok, s.writeTim a v)
    | 4 => s.writeBth who a v
    | 6 | 7 | 9 => s.writeLog a v
    | 10 | 11 => s.writeMem a v
    | 12 | 13 | 14 => s.writeFlt a v
    | _ => (.ok, s)

/-- A write to a register (R14, R16). -/
def execRegisterWrite (addr : W16) (v : W32) (s : State) : Out :=
  if s.alive then settled s (s.ctlWrite 0 addr.toNat v).2 else .next s

/-! ### LDC and STC -/

/-- LDC (R189). -/
def State.ldcBody (s : State) (b : BerthId) (q : QInstr) : State :=
  s.checked b q (q.only [fDst, (0, 16)] && q.imm 0 2 == 0) fun s =>
    let (v, s) := s.ctlRead (some b) (q.imm 0 16)
    s.arith b q (aluMove (v.setWidth 64)) true

def execLdc (b : BerthId) (s : State) : Out := turn b 0x1A s fun q s => s.ldcBody b q

/-- A STOP that a berth writes for itself: STC completes, and the berth stops at that boundary (Table BERTH-5). -/
def State.stopsItself (s : State) (b : BerthId) (a : Nat) (v : W32) : Bool :=
  a == 0x100C && bits v 0 4 == 9 && s.selected == b

/-- The complement-mismatch source of the block that owns a CPL register (R15, Table FLT-1); the guard's passwords and the
cascade map have none (log 144). -/
def Setting.mismatch (s : State) : Setting → State
  | .cfg _ | .siz _ => s.raise 12 .fence
  | .ringCfg _ => s.raise 13 .fence
  | .ctr _ => s.raise 5 .degrade
  | .pwSel | .pwd _ | .map => s

/-- STC (R211). V[SRCA][63:32] is the complement of a CPL register's value: one that does not match is refused under R15;
all of them are changed by APPLY only. -/
def State.stcBody (s : State) (b : BerthId) (q : QInstr) : State :=
  s.checked b q (q.only [fSrcA, (0, 16)]) fun s =>
    let a := q.imm 0 16
    let v : W32 := ((s.berth b).reg q.srcA).setWidth 32
    let cpl : W32 := ((s.berth b).reg q.srcA).extractLsb' 32 32
    if s.stopsItself b a v then
      ((s.modWindow fun w => { w with op := 4, cmdSt := .ok }).finish b q .ok).stopCommand b
    else match settingAt a with
      | some x => if cpl = ~~~v then s.finish b q .wrongState else (x.mismatch s).finish b q .badField
      | none =>
        let (st, s) := s.ctlWrite b a v
        s.finish b q st

def execStc (b : BerthId) (s : State) : Out := turn b 0x69 s fun q s => s.stcBody b q

end Sys2Proof.Machine
end

