-- ==== Sys2Proof/Machine/Tide.lean ====
section
/-! DEFINITION. The tide boundary: time, the per-tide checks and commits, background media work, and the booking of the
tide (R36 to R50, R71, R206, R265 to R268, R307 to R319, R326, R328, R350 to R360, R376, R448). -/

namespace Sys2Proof.Machine

/-! ### Time -/

/-- The counter reaches the boundary; a new period starts at the first boundary of the old one that is a multiple of it
(R36, R37). -/
def Tim.reach (t : Tim) : Tim :=
  let now := t.next.toNat
  let p := match t.newPeriod with
    | some p => if now % periodNs p = 0 then p else t.period
    | none => t.period
  { t with
    counter := t.next
    period := p
    newPeriod := if t.newPeriod = some p then none else t.newPeriod
    next := BitVec.ofNat 64 (ceilMul (now + 1) (periodNs p))
    alarmDue := t.alarmAt now
    snapBad := false }

/-- Register fields that take effect at a boundary (R71, R271, R329, R374). -/
def State.latchRegs (s : State) : State :=
  { s with
    tim := { s.tim with
      servoNow := s.tim.servo, stepThrNow := s.tim.stepThr, syncAgeNow := s.tim.syncAge, holdMaxNow := s.tim.holdMax }
    rng := { s.rng with tpaceNow := s.rng.tpace }
    ftl := { s.ftl with pruneNow := s.ftl.prune, refreshNow := s.ftl.refresh }
    hup := { s.hup with chgNow := s.hup.chg } }

/-- A bound counted in tides: WAITT and WAITE are marked when theirs is reached (R59, R184, R185), the pause after a wrong
response gets shorter (R222). -/
def Berth.age (now : Nat) (x : Berth) : Berth :=
  let x := { x with session := { x.session with pause := x.session.pause - 1 } }
  match x.cur with
  | none => x
  | some c => match c.phase with
    | .waitt =>
      let past := if c.ins.modeBit 0 then c.target ≤ now else c.target ≤ 1
      if past then { x with cur := some { c with admitted := true } }
      else if c.ins.modeBit 0 then x
      else { x with cur := some { c with target := c.target - 1 } }
    | .waite =>
      if c.target = 0 then x
      else if c.target = 1 then { x with cur := some { c with admitted := true } }
      else { x with cur := some { c with target := c.target - 1 } }
    | _ => x

/-- Every bound counted in tides gets shorter by one (R10). -/
def State.ageTides (s : State) : State :=
  { s with
    tim := s.tim.ageMarks
    berths := s.berths.map (Berth.age s.now.toNat)
    hup := { s.hup with
      queue := s.hup.queue.map fun (i : WaitItem) => { i with tidesLeft := i.tidesLeft - 1 }
      sinceCovered := min 2 (s.hup.sinceCovered + 1) }
    grd := { s.grd with gate := s.grd.gate.map fun (g : Gate) => { g with tidesLeft := g.tidesLeft - 1 } }
    scr := { s.scr with tidesLeft := s.scr.tidesLeft - 1 }
    pmu := { s.pmu with delayLeft := s.pmu.delayLeft - 1 }
    quy := { s.quy with
      held := s.quy.held.map fun (h : SubHeld) => { h with tidesLeft := h.tidesLeft - 1 }
      quiet := s.quy.quiet.map fun n => min 64 (n + 1)
      missed := min 4 (s.quy.missed + 1) } }

/-! ### The ledger's measurement (R350, R355, R360) -/

/-- The MON ADC's readings at the boundary; the ledger takes its figures and its state from them. A broken figure is seen
first (R28), and the debit formed anew from the items it stands for. -/
def State.measure (s : State) (m : Measure) : State :=
  let s := s.checkLedger
  let s := { s with hup := { s.hup with bankMv := m.bankMv, vinMv := m.vinMv } }
  let e := s.energy
  let h := s.ftl.health
  let s := { s with
    hup := { s.hup with
      eu := Pair.mk' (BitVec.ofNat 24 e)
      debit := if s.hup.debit.ok then s.hup.debit else Pair.mk' (BitVec.ofNat 24 s.hup.itemSum) }
    ftl := { s.ftl with health := { h with euLow := some (match h.euLow with
      | some x => BitVec.ofNat 32 (min x.toNat (e / 4))
      | none => BitVec.ofNat 32 (e / 4)) } } }
  let s := s.ledgerUpdate
  let past := s.hup.over
  let s := if past ∧ ¬s.hup.overdrawn then s.raise 60 .degrade else s
  { s with hup := { s.hup with overdrawn := past } }

/-- A test that was asked for starts, or goes on waiting (R351, R352). The first one is asked for when the bank first reaches the
charge target (R353). -/
def State.capDue (s : State) : State :=
  let first := !s.hup.firstTest && 500 * vtgtOf s.hup.chgNow ≤ s.hup.bankMv.toNat
  let s := { s with hup := { s.hup with firstTest := s.hup.firstTest || first } }
  if s.hup.capReq || first then s.askCapTest else s

/-- A member's parts that wait for its ledger, oldest first (R452, R358). -/
def State.heldDue (s : State) : State :=
  (s.quy.held.filter fun h => h.waiting).foldl (fun s h =>
    let n := dataCost h.sub.payload.length
    let out := { s with quy := { s.quy with held := s.quy.held.filter fun x => !(x.waiting && x.sub.id == h.sub.id) } }
    if s.hup.covers n then (out.admitItem (.data (kibOf h.sub.payload.length)) n).landPart h.sub false
    else if h.tidesLeft = 0 then out.landPart h.sub true
    else s) s

/-! ### Temperature (R328) -/

/-- The histogram bin of a reading in 0.1 °C (Table MEDIA-6). -/
def tempBin (t : Int) : Nat := if t < -300 then 0 else if 1100 ≤ t then 15 else ((t + 400) / 100).toNat

/-- One reading per second: what the sensors show is free (log 49). -/
def State.readTemps (s : State) : State :=
  if s.tim.counter.toNat % 1000000000 = 0 ∧ s.dom 15 = .on then
    let (n, s) := s.draw
    let a : W16 := (Config.freeWord n).setWidth 16
    let b : W16 := (Config.freeWord n).extractLsb' 16 16
    let s := s.noteTemp a b
    let i := tempBin (max a.toInt b.toInt)
    let h := s.ftl.health
    { s with ftl := { s.ftl with health := { h with
      tempBins := h.tempBins.setIfInBounds i (h.tempBins.toList.getD i 0 + 1) } } }
  else s

/-! ### Media work of the firmware (log 48) -/

/-- Both flash domains are on and their rails too. -/
def State.flashOn (s : State) : Bool := s.dom 13 == .on && s.dom 14 == .on && !s.mon.shut

/-- Patrol may run: not in HALT or after a release, nor while QUIESCE stops it (R209, Tables HUP-7 and COMB-3). -/
def State.patrols (s : State) : Bool :=
  s.flashOn && !s.flt.halted && !s.busyCause 8 && !((s.scr.active || s.scr.draining) && bit s.scr.bits 2)

/-- Pruning and transplanting stop in a forced erase too (R241). -/
def State.ownWork (s : State) : Bool := s.patrols && bits s.grd.lock.val 0 2 != 2

/-- A general seedbed of F / 4, 512 GiB at most, none while F is below 3 % of the user capacity (R265). -/
def State.resizeGsb (s : State) : State :=
  let f := s.freeBytes
  { s with rng := { s.rng with
    gsbSize := if 100 * f < 3 * s.userBytes then 0 else min (f / 4) (512 * 2 ^ 30) } }

/-- Units of a region that stand in seedbed rows, durable and in no move. -/
def State.seedKeys (s : State) (r : Nat) : List Nat :=
  let out := s.dies.flatMap fun o => o.kind.units
  (s.store.filter fun p => keyRegion p.1 == r && p.2.fresh.isEmpty && (match p.2.base with
    | some c => c.place.loc == Loc.seedbed && !out.contains p.1
    | none => false)).map (·.1)

/-- A seedbed: its fill, its size, its units. -/
structure Seedbed where
  fill : Nat
  size : Nat
  keys : List Nat

/-- The seedbeds: each ring's share, then the general seedbed. -/
def State.seedbeds (s : State) : List Seedbed :=
  (s.ringIds.map fun r => { fill := s.fillOf r, size := s.sbShare r, keys := s.seedKeys r }) ++
    [{ fill := s.gsbFill, size := s.rng.gsbSize,
       keys := ((List.range 64).filter fun r => s.rtype r == .general).flatMap s.seedKeys }]

/-- Fullest first; those of equal fractions stay in their order (R267). -/
def fullestFirst (b : Seedbed) : List Seedbed → List Seedbed
  | [] => [b]
  | c :: cs => if c.fill * b.size ≤ b.fill * c.size then b :: c :: cs else c :: fullestFirst b cs

/-- Units that fill a TLC wordline: three seedbed pages (R267). -/
def wordlineUnits : Nat := 48

/-- RING_TPACE as it acts (Table RING-9). -/
def tpacePct (v : W32) : Nat := clampNat 10 60 (bits v 0 7)
def tpaceMark (v : W32) : Nat := clampNat 50 95 (bits v 8 7)

/-- Die time of a tide that transplants in hand take of a die group. -/
def State.transplantNs (s : State) (g : Nat) : Nat :=
  (s.dies.map fun o => match o.kind with
    | .transplant ms => ((s.moveNeed ms).map fun p => if p.1 % 16 / 2 = g then min (s.dieNs p.2) (periodNs s.tim.period) else 0).sum
    | _ => 0).sum

/-- Transplants in hand stay within the pace in every die group (R268). -/
def State.paceHolds (s : State) : Bool :=
  (List.range 8).all fun g =>
    100 * s.transplantNs g ≤ tpacePct s.rng.tpaceNow * (s.groupDies g * periodNs s.tim.period)

/-- No operation has a die that a move takes (R44). -/
def State.diesFree (s : State) (ms : List Move) : Bool :=
  (s.moveNeed ms).all fun p => s.dies.all fun o => (s.needOf o.kind).all fun q => q.1 != p.1

/-- One wordline of a seedbed is queued: at or above the mark always, below it while the pace holds or its dies are idle (R44,
R268). Stale pages are skipped; units that find no TLC row stay (R311). None when it is not queued. -/
def State.transplant (s : State) (all : Bool) (ks : List Nat) : Option State :=
  let (ms, t) := s.planMoves ks true
  let u := t.addDie (.transplant ms)
  if ms.isEmpty then none else if all || u.paceHolds || s.diesFree ms then some u else none

/-- The wordlines of a seedbed, as many as may be queued. -/
def State.transplants (s : State) (all : Bool) : List (List Nat) → State
  | [] => s
  | ks :: r => if ks.length < wordlineUnits then s else match s.transplant all ks with
    | some t => t.transplants all r
    | none => s

/-- The seedbeds are served fullest first (R267, R268). -/
def State.transplantDue (s : State) : State :=
  (s.seedbeds.foldr fullestFirst []).foldl (fun s b =>
    s.transplants (tpaceMark s.rng.tpaceNow * b.size ≤ 100 * b.fill) (b.keys.toChunks wordlineUnits)) s

/-- Erases of a row's blocks, for their mean (R312). -/
def State.rowErases (s : State) (r : Row) : Nat := (r.blocks.map s.ftl.erases).sum

/-- One row goes before another as a victim: fewer valid units, then the lower mean P/E, then the lower number (R312). -/
def State.victimBefore (s : State) (a b : Row) : Bool :=
  let na := (s.rowKeys a.id).length
  let nb := (s.rowKeys b.id).length
  let ea := s.rowErases a * b.blocks.length
  let eb := s.rowErases b * a.blocks.length
  decide (na < nb) || (na == nb && (decide (ea < eb) || (ea == eb && decide (a.id < b.id))))

/-- A set's victim: of the closed rows of the TLC data and map classes (R310, R312). -/
def State.victim (s : State) (set : Nat) : Option Row :=
  match s.ftl.rows.filter fun (r : Row) =>
    r.set.val == set && (r.cls == .tlc || r.cls == .map) && !r.isOpen && !r.moving && !s.rowPromised r.id with
  | [] => none
  | r :: rest => some (rest.foldl (fun (m r : Row) => if s.victimBefore r m then r else m) r)

/-- Step 1 of a pruning move in a set that has none under way (R313). A victim all of whose units find places is copied. -/
def State.pruneDue (s : State) (set : Nat) : State :=
  if s.ftl.rows.any fun r => r.set.val == set && r.moving && r.cls != .seedbed then s
  else match s.victim set with
    | some r =>
      let ks := s.rowKeys r.id
      let (ms, t) := s.planMoves ks false
      if ms.length < ks.length then s else (t.startMove r.id).addDie (.copyRow r.id ms)
    | none => s

/-- Closed seedbed rows without valid units are erased (R267: copy, map commit, erase). -/
def State.seedErase (s : State) : State :=
  (s.ftl.rows.filter fun (r : Row) =>
      r.cls == .seedbed && !r.isOpen && !r.moving && !s.rowPromised r.id && (s.rowKeys r.id).isEmpty).foldl
    (fun s r => (s.startMove r.id).addDie (.eraseRow r.id)) s

/-- Units that lie on dies which take no programs any more, or on retired blocks, are moved off them, up to 64 at a time (R320
to R322). -/
def State.relocateDue (s : State) : State :=
  let out := s.dies.flatMap fun o => o.kind.units
  let busy := (s.dies.filter fun o => match o.kind with
    | .relocate _ => true
    | _ => false).length
  let ks := s.flashKeys.filter fun k => match s.copyOf k with
    | some c => (!s.dieUsable c.place.die || s.ftl.retiredBlks.contains (c.place.die, c.place.block)) && !out.contains k
    | none => false
  let (ms, s) := s.planMoves (ks.take (64 - busy)) false
  ms.foldl (fun s m => s.addDie (.relocate m)) s

/-- FTL_PATROL.HOURS in nanoseconds. -/
def patrolNs (v : W32) : Nat := clampNat 24 168 (bits v 0 8) * 3600000000000

/-- Patrol (R318): a pass begins with each period, and a slice reads while pages are left. The period counts only time in
which both flash domains are on (Table COMB-3). -/
def State.patrolDue (s : State) : State :=
  if !s.flashOn then
    { s with ftl := { s.ftl with patrolStart := s.ftl.patrolStart + BitVec.ofNat 64 (periodNs s.tim.period) } }
  else
    let n := s.patrolItems.length
    let busy := s.dies.any fun o => o.kind == .patrol
    if n ≤ s.ftl.patrolPos ∧ patrolNs s.ftl.patrolNow ≤ (s.tim.counter - s.ftl.patrolStart).toNat then
      let h := s.ftl.health
      { s with ftl := { s.ftl with
        patrolPos := 0
        patrolStart := s.tim.counter
        patrolNow := s.ftl.patrol
        passes := satInc s.ftl.passes
        health := { h with passes := h.passes + 1, passEnd := s.tim.counter } } }
    else if s.ftl.patrolPos < n ∧ !busy ∧ s.patrols then
      if s.patrolNext.isEmpty then { s with ftl := { s.ftl with patrolPos := min n (s.ftl.patrolPos + patrolSlice) } }
      else s.addDie .patrol
    else s

/-- What the DRAM controller caches at most, in MiB: 8 GiB, half of it on one data device, withdrawn pages taken off, nothing while
it is lost or its domain is not on (R20, R305, R344, R346). -/
def State.cacheMib (s : State) : Nat :=
  if s.dramLost || s.dom 12 != .on then 0
  else (if s.mem.width = 2 then 8192 else 4096) - ((s.memOf 9).withdrawn.length + 255) / 256

/-- Figures of the map cache are free within what the cache holds, while GENERAL or COMPAT data is mapped (log 26). -/
def State.mapCache (s : State) : State :=
  if (List.range 64).any fun r => (s.rtype r == .general || s.rtype r == .compat) && s.mappedIn r != 0 then
    let (n, s) := s.draw
    { s with ftl := { s.ftl with
      mapHitMib := BitVec.ofNat 16 (Config.freeChoice n % (s.cacheMib + 1))
      missK := (Config.freeWord n).extractLsb' 16 16 } }
  else { s with ftl := { s.ftl with mapHitMib := 0, missK := 0 } }

/-- All of it. -/
def State.ownMedia (s : State) : State :=
  let s := s.clearExhausted.resizeGsb.mapCache
  let s := if s.flashOn ∧ ¬s.flt.halted then s.relocateDue else s
  let s := if s.ownWork then (List.range 4).foldl State.pruneDue s.transplantDue.seedErase else s
  s.patrolDue

/-! ### Booking (R41 to R50, R158) -/

/-- What the bookings of a tide take of a resource. -/
def taken (bs : List Booking) (r : Res) : Nat :=
  (bs.map fun b => ((b.takes.filter fun p => p.1 == r).map (·.2)).sum).sum

/-- What some bookings take of a die group. -/
def groupTaken (bs : List Booking) (g : Nat) : Nat :=
  (bs.map fun b => (b.takes.map fun p => match p.1 with
    | .die d => if d % 16 / 2 = g then p.2 else 0
    | _ => 0).sum).sum

/-- The bookings of a rung, and those of rungs 6 to 8. -/
def atRung (bs : List Booking) (rung : Nat) : List Booking := bs.filter fun b => b.rung == rung
def lowRungs (bs : List Booking) : List Booking := bs.filter fun b => 6 ≤ b.rung

/-- What a rung takes of all resources counted in ns. -/
def rungTaken (bs : List Booking) (rung : Nat) : Nat :=
  ((bs.filter fun b => b.rung == rung).map fun b => (b.takes.map (·.2)).sum).sum

/-- What is left of a resource for a rung: rung 4 keeps within 10 % of a die group, rung 5 within 3 % of it and of the tide
capacity (Table TIDE-3, R46); under a thermal throttle rungs 6 to 8 keep within half of a die group and of the encoders (R421). -/
def State.leftFor (s : State) (bs : List Booking) (rung : Nat) (r : Res) : Nat :=
  let free := s.resCap r - taken bs r
  match r with
  | .die d =>
    let g := d % 16 / 2
    let cap := s.groupDies g * periodNs s.tim.period
    if rung = 4 then min free (cap / 10 - groupTaken (atRung bs 4) g)
    else if rung = 5 then
      min free (min (3 * cap / 100 - groupTaken (atRung bs 5) g) (3 * s.tideCap / 100 - rungTaken bs 5))
    else if 6 ≤ rung ∧ s.mon.throttle then min free (cap / 2 - groupTaken (lowRungs bs) g)
    else free
  | .encoder => if 6 ≤ rung ∧ s.mon.throttle then min free (s.resCap r / 2 - taken (lowRungs bs) r) else free
  | _ => free

/-- Each resource gives what is left of it, up to the need. -/
def State.giveEach (s : State) (bs : List Booking) (rung : Nat) (w : Work) (ns : List (Res × Nat)) : Booking :=
  ns.foldl (fun b p =>
    let n := min p.2 (s.leftFor (bs ++ [b]) rung p.1)
    if n = 0 then b else { b with takes := b.takes ++ [(p.1, n)] }) { rung := rung, work := w, takes := [] }

/-- The places that an operation programs. -/
def State.opPlaces (s : State) (k : DieKind) : List Place := match k with
  | .program c => c.units.flatMap fun u => ((s.unitOf u).fresh.filter fun (v : Version) => v.stamp == c.stamp).filterMap Version.place
  | .relocate m => [m.place]
  | .transplant ms | .copyRow _ ms | .weedCopy _ _ _ _ _ ms => ms.map Move.place
  | _ => []

/-- Transfer of a unit on its channel at 1.6 GB/s, and its time in an encoder or a hard decoder (Table ARCH-1), in ns. -/
def channelNs : Nat := 2560
def encodeNs : Nat := 8192
def decodeNs : Nat := 2730

/-- Time of a COMPAT map unit in the page-BCH unit at 1.6 GB/s (R337), in ns. -/
def pageBchNs : Nat := 2560

def Code.compat : Code → Bool
  | .bch _ => true
  | _ => false

/-- The units that an operation programs. -/
def State.opUnits (s : State) (k : DieKind) : List Nat := match k with
  | .program c => c.units.filter fun u => (s.unitOf u).fresh.any fun (v : Version) => v.stamp == c.stamp && v.place.isSome
  | k => k.units

/-- What an operation takes beside its dies when it begins: channels, encoders, decoders; of a record, the safety pair and the
seal block (Tables ARCH-1 and TZ-5). -/
def State.besides (s : State) (k : DieKind) : List (Res × Nat) :=
  let ps := s.opPlaces k
  let rs := (match k with
    | .read b => s.berthKeys b
    | .memberRead i => [subKey i]
    | k => k.units).filterMap s.copyOf
  let on' := (ps ++ rs.map Copy.place).map fun p => p.die % 16
  let bchIn := (s.opUnits k).filter fun u => (s.codeOf (keyRegion u)).compat
  let bchOut := rs.filter fun c => c.code.compat
  (tally on').map (fun p => (Res.channel p.1, channelNs * p.2)) ++
    [(Res.encoder, encodeNs * (ps.length - bchIn.length)), (Res.decoder, decodeNs * (rs.length - bchOut.length)),
     (Res.pageBch, pageBchNs * (bchIn.length + bchOut.length))] ++
    (match k with
    | .logCopy _ false => [(Res.safety, 3000), (Res.seal, 2000)]
    | _ => [])

/-- Times on the RC oscillator: the data and flash clocks run at a quarter, the core clock at a sixth (Table POWER-4). -/
def State.atClock (s : State) (ns : List (Res × Nat)) : List (Res × Nat) :=
  if s.pmu.pll then ns else ns.map fun p => (p.1, match p.1 with
    | .up | .down => p.2
    | .safety => 6 * p.2
    | _ => 4 * p.2)

/-- A die operation is booked: its die time left in this tide, what suspends an erase in its way (R50), and what it takes beside
its dies when it begins. Nothing is booked where no die has time for it. -/
def State.bookDie (s : State) (bs : List Booking) (o : DieOp) : List Booking :=
  let rung := s.rungOf o.kind
  let p := periodNs s.tim.period
  let stop := fun (d : Nat) => rung ≤ 3 && s.dies.any fun e => e.kind.erases && e.run && e.on d
  let b := s.giveEach bs rung (.die o.id)
    (o.need.map fun x => (Res.die x.1, min p x.2 + if stop x.1 && !o.kind.erases then 100000 else 0))
  if b.takes.isEmpty && !o.need.isEmpty then bs
  else if o.run then bs ++ [b]
  else bs ++ [{ b with takes := b.takes ++ (s.giveEach (bs ++ [b]) rung (.die o.id) (s.atClock (s.besides o.kind))).takes }]

/-- Bytes on a link direction for some data (Table TIDE-4). -/
def State.parcelBytes (s : State) (n : Nat) : Nat := n * (s.lnk.pay + 20) / s.lnk.pay

/-- What an instruction's micro-routine takes beside the engine (Tables TZ-5 and TIDE-4). -/
def State.turnBesides (s : State) (b : BerthId) (q : QInstr) : List (Res × Nat) :=
  let n := s.parcelBytes (min 1048576 (s.dataBytes b q))
  match q.op.toNat with
  | 0x09 => [(.up, s.parcelBytes 16)]
  | 0x20 => [(.up, n)]
  | 0x21 | 0x22 => [(.down, n)]
  | 0x40 => [(.safety, 3000), (.seal, 2000)]
  | 0x42 => [(.seal, 120000), (.safety, 3000)]
  | 0x48 => [(.safety, 2000)]
  | 0x60 | 0x62 | 0x63 => [(.seal, 2000)]
  | 0x6A => [(.seal, 150000)]
  | _ => []

/-- A berth's next micro-routine is booked where the engine has its time left (R158). -/
def State.bookTurn (s : State) (rung : Nat) (bs : List Booking) (b : BerthId) : List Booking :=
  match s.nextInstr b with
  | none => bs
  | some q =>
    let n := s.engineNs b q
    if s.leftFor bs rung .engine < n then bs
    else
      let k := s.giveEach bs rung (.berth b) (s.atClock (s.turnBesides b q))
      bs ++ [{ k with takes := (.engine, n) :: k.takes }]

/-- The removal sequence and fault reactions, while the bank is drawn on or the ledger is overdrawn (Table TIDE-3). -/
def State.bookSafety (s : State) (bs : List Booking) : List Booking :=
  if s.hup.onBank || s.hup.overdrawn then bs ++ [s.giveEach bs 1 .safety [(.safety, periodNs s.tim.period)]] else bs

/-- One rung of the ladder: berths where it has them, then die operations, repair before pruning in rung 4. -/
def State.bookRung (s : State) (bs : List Booking) (rung : Nat) : List Booking :=
  let bs := if rung = 1 then s.bookSafety bs else bs
  let bs := if rung = 2 ∨ rung = 3 ∨ rung = 7 then (s.berthsAt rung).foldl (s.bookTurn rung) bs else bs
  (s.inOrder (s.dies.filter fun o => !o.run && s.rungOf o.kind == rung)).foldl s.bookDie bs

/-- The berth booked last at a rung. -/
def lastBooked (bs : List Booking) (rung : Nat) : Option BerthId :=
  ((bs.filter fun b => b.rung == rung).filterMap fun b => match b.work with
    | .berth i => some i
    | _ => none).getLast?

/-- Die time that the tide before gave is taken off what each operation still needs (R49). -/
def State.spendDies (s : State) : State :=
  { s with dies := s.dies.map fun (o : DieOp) => if o.run && !o.suspended then
      { o with need := o.need.map fun p => (p.1, p.2 - taken (s.sched.booked.filter fun b => b.work == .die o.id) (.die p.1)) }
    else o }

/-- The tide's bookings (R41): operations under way keep their dies, then the ladder from the work queued now (R43, R49). -/
def State.book (s : State) : State :=
  let s := s.spendDies.arrange
  let under := (s.dies.filter fun o => o.run && !o.suspended).foldl s.bookDie []
  let bs := (List.range 8).foldl (fun bs n => s.bookRung bs (n + 1)) under
  let x : Sched := { s.sched with
    booked := bs
    served := []
    moved := []
    sliced := []
    bg := rungTaken bs 5
    spare := s.resCap .engine - taken bs .engine }
  let x := [2, 3, 7].foldl (fun (x : Sched) n => match lastBooked bs n with
    | some b => x.setLast n b
    | none => x) x
  { s with sched := x }.arrange

/-- A micro-routine of the tide that ends may have run past the boundary, by 40 us at most; it is charged to the new tide
(R47). By how much is free (log 50). -/
def State.overhangDue (s : State) : State :=
  if s.sched.served.isEmpty then { s with sched := { s.sched with overhang := 0 } }
  else
    let (n, s) := s.draw
    let us := Config.freeChoice n % 41
    { s with
      sched := { s.sched with overhang := 1000 * us }
      tim := { s.tim with
        overCount := if us = 0 then s.tim.overCount else satInc s.tim.overCount
        overMax := if s.tim.overMax.toNat < us then BitVec.ofNat 16 us else s.tim.overMax } }

/-- TIM_SHARE.BGUSE of the tide that ends: what rung 5 had of the tide capacity (Table TIDE-9). -/
def State.shareUse (s : State) : State :=
  { s with tim := { s.tim with bgUse := BitVec.ofNat 8 (min 30 (1000 * s.sched.bg / max 1 s.tideCap)) } }

/-! ### The boundary -/

/-- The master pulses TIDEIO and sends each port the boundary's time frame (R448). -/
def State.sendFrame (s : State) : State :=
  if s.quy.map.val != 0 && !s.isMember then
    { s with quy := { s.quy with frame := some (s.tim.counter, s.tim.period, s.tim.qual) } }
  else s

/-- A tide boundary of a controller that runs. -/
def State.tide (s : State) (m : Measure) : State :=
  let s := s.shareUse
  let s := { s with tim := { s.tim.reach with tideCount := s.tim.tideCount + 1 } }
  let s := s.latchRegs.overhangDue
  let s := s.railTide.changeDoms.endBlk
  let s := s.checkAlarm.ageTides.releaseDue
  let s := (s.measure m).flipDue.capDue.heldDue.archDue.readTemps
  let s := { s with log := { s.log with copyA := s.log.copyA.pad, copyB := s.log.copyB.pad } }
  let s := s.eraseArchived.blocksDue.journalCommit.ownMedia
  let s := s.book.sendFrame
  { s with tim := { s.tim with opened := true } }

/-- A tide boundary (R41). In a reset only the counter goes on; a removal sequence under way comes to its end (log 14). -/
def execTideBoundary (m : Measure) (s : State) : Out :=
  if s.alive then settled s (s.tide m)
  else if s.hup.removing then .next { s with tim := s.tim.reach }.finishRemoval
  else if s.rst.power = .off ∨ s.rst.power = .noClock then .next s
  else .next { s with tim := s.tim.reach }

end Sys2Proof.Machine
end

