-- ==== Sys2Proof/WellFormed.lean ====
section
/-! DEFINITION. Which commands are well formed: an operand lies in the range that its row's event can have. The
types of Syntax.lean already fix most ranges; what remains is checked here. -/

namespace Sys2Proof

/-- The opcodes of Table NARROW-3. -/
def narrowOpcodes : List Byte := [0x01, 0x02, 0x03, 0x04, 0x05, 0x06, 0x07, 0x08, 0x09]

/-- Symbol 0 of the ordered sets of Table LANE-3. -/
def orderedSets : List Byte := [0x1E, 0x2D, 0x5A, 0x55, 0x66, 0x78]

/-- Quality bits [15:14] never hold 0b11 (R69). -/
def qualityOk (q : W16) : Bool := !(q.getLsbD 15 && q.getLsbD 14)

/-- A parcel's payload is as long as its LEN says, whenever LEN is inside Table LANE-5; a longer one is skipped
unread (R121). -/
def parcelOk (p : Parcel) : Bool := p.payload.length ≤ 65535

/-- A report of a member comes from position 1 to 3 (R440). -/
def reportOk (r : MemberReport) : Bool := r.readyLevel.toNat ≤ 3

def blocksOk (bs : List (Nat × Decode)) : Bool := bs.all fun b => b.1 < 2 ^ 32

def dieResultOk : DieResult → Bool
  | .decoded bs _ => blocksOk bs
  | _ => true

/-- The strap reading is 12 bits wide and a trim record is numbered from 1. -/
def exitOk (x : ExitReading) : Bool := x.trimFail != some 0

/-- Whether a command is well formed. -/
def Instr.wf : Instr → Bool
  | .unknownOpcodeToken op _ _ => !narrowOpcodes.contains op
  | .hostDataBlock d _ => d.length ≤ 65535
  | .instructionPush p | .dataParcel p | .timeSyncParcel p | .controlParcel p | .nakReceived p | .dozeParcel p
  | .wakeParcel p => parcelOk p
  | .malformedParcel h d _ => h.length == 16 && d.length ≤ 65535
  | .unknownOrderedSet a => a.lanes != 0
  | .dieOperationDone _ r => dieResultOk r
  | .quayTimeFrame _ _ q => qualityOk q
  | .memberManifestReport _ r => reportOk r
  | .vinRise x | .resetExit x => exitOk x
  | .pmuDelayEnd rs | .pmuAnswer rs => rs.all fun r => match r with
    | .delay n => 1 ≤ n && n ≤ 16
    | _ => true
  | _ => true

end Sys2Proof
end

