-- ==== Sys2Proof/Machine/Link.lean ====
section
/-! DEFINITION. What narrow mode and lane mode share: parcels as bytes, reporting, the agreed parameters and their check
(R28, R100 to R105, R118, R119, R161, R163, R164). -/

namespace Sys2Proof.Machine

/-! ### Parcels as bytes (R118) -/

/-- Bytes 0-13 of a header. -/
def hdrBytes (start typ : Nat) (h : Hdr) : List Byte :=
  [BitVec.ofNat 8 (16 * start + typ),
   BitVec.ofNat 8 (h.ackv.toNat + 2 * h.nak.toNat + 4 * h.last.toNat + 8 * h.busy.toNat + 16 * h.unseq.toNat + 32 * h.rsvd.toNat)] ++
  leBytes 2 h.seq.toNat ++ leBytes 2 h.ackseq.toNat ++ leBytes 2 h.len.toNat ++ leBytes 2 h.berth.toNat ++
  leBytes 2 h.tag.toNat ++ [h.cret, h.code]

/-- A header of 16 bytes as START, TYPE and the rest. -/
def parseHdr (bs : List Byte) : Nat × Nat × Hdr :=
  let byte := fun (i : Nat) => bs.getD i 0
  let w := fun (i : Nat) => (BitVec.ofNat 16 (ofLe (slice bs i 2)) : W16)
  (bits (byte 0) 4 4, bits (byte 0) 0 4,
    { ackv := bit (byte 1) 0, nak := bit (byte 1) 1, last := bit (byte 1) 2, busy := bit (byte 1) 3, unseq := bit (byte 1) 4,
      rsvd := (byte 1).extractLsb' 5 3, seq := w 2, ackseq := w 4, len := w 6, berth := w 8, tag := w 10, cret := byte 12,
      code := byte 13, hcrc := w 14 })

/-- The header CRC holds. -/
def hcrcOk (start typ : Nat) (h : Hdr) : Bool := crc16 (hdrBytes start typ h) == h.hcrc

/-- The payload is whole and the parcel's CRC-32 holds. -/
def pcrcOk (start typ : Nat) (p : Parcel) : Bool :=
  p.payload.length == p.hdr.len.toNat && crc32 (hdrBytes start typ p.hdr ++ leBytes 2 p.hdr.hcrc.toNat ++ p.payload) == p.crc

/-- The sequenced types from the host (Table LANE-5). -/
def sequencedType (typ : Nat) : Bool := typ == 1 || typ == 2 || typ == 5

/-- LEN of a down parcel (Table LANE-5), its upper bound P apart; a reserved type, and an up type, has none. -/
def lenOk (typ len : Nat) : Bool :=
  match typ with
  | 1 => 8 ≤ len && len % 8 == 0
  | 2 => 1 ≤ len
  | 5 => len == 16
  | 6 | 8 => len == 0
  | 7 => len == 4
  | _ => false

/-- No cause of reason 0x05 of Table LANE-6. -/
def formatOk (start typ : Nat) (h : Hdr) : Bool :=
  start == 10 && lenOk typ h.len.toNat && h.rsvd == 0 && bits h.seq 12 4 == 0 && bits h.ackseq 12 4 == 0 &&
  bits h.len 13 3 == 0 && bits h.berth 9 7 == 0

/-- The payload of a completion (Table BERTH-6). -/
def Completion.bytes (c : Completion) : List Byte :=
  [c.status.code,
   BitVec.ofNat 8 (c.z.toNat + 2 * c.n.toNat + 4 * c.c.toNat + 8 * c.e.toNat + 16 * c.interim.toNat + 32 * c.resident.toNat),
   c.opcode, c.qfree] ++
  leBytes 4 c.done.toNat ++ leBytes 4 c.first.toNat ++ leBytes 4 c.cseq.toNat ++ leBytes 8 c.result.toNat

/-- The payload of an event (R163). -/
def EventRec.bytes (e : EventRec) : List Byte :=
  [e.code, 0, 0, 0] ++ leBytes 4 e.arg.toNat ++ leBytes 8 e.time.toNat ++ leBytes 2 e.qual.toNat ++ zeros 6

def UpBody.bytes : UpBody → List Byte
  | .data bs _ => bs
  | .completion c => c.bytes
  | .event e => e.bytes

def UpBody.typ : UpBody → Nat
  | .data _ _ => 2
  | .completion _ => 3
  | .event _ => 4

def UpBody.isLast : UpBody → Bool
  | .data _ l => l
  | _ => false

/-- An up parcel as GET hands it over. Narrow mode uses no sequence numbers (R80): what SEQ, ACKSEQ and CODE hold there is
free, from `w` (log 51). -/
def UpParcel.bytes (p : UpParcel) (busy : Bool) (w : W64) : List Byte :=
  let d := p.body.bytes
  let h : Hdr := {
    ackv := false, nak := false, last := p.body.isLast, busy := busy, unseq := false, rsvd := 0,
    seq := (w.extractLsb' 0 12).setWidth 16, ackseq := (w.extractLsb' 12 12).setWidth 16, len := BitVec.ofNat 16 d.length,
    berth := p.berth, tag := p.tag, cret := 0, code := w.extractLsb' 24 8, hcrc := 0 }
  let head := hdrBytes 10 p.body.typ h
  let head := head ++ leBytes 2 (crc16 head).toNat
  head ++ d ++ leBytes 4 (crc32 (head ++ d)).toNat

/-! ### Reporting (R164) -/

/-- Up parcels on their way, oldest first. -/
def State.onWay (s : State) : List UpParcel := s.lnk.replayBuf.map (·.2) ++ s.nar.up

/-- The first completion still to be reported of a berth whose status is neither OK nor WRITE_THROUGH. -/
def firstBad (b : BerthId) (ps : List UpParcel) : Option (W16 × Byte) :=
  ps.findSome? fun p => match p.body with
    | .completion c => if c.counted ∧ p.berth = BitVec.ofNat 16 b.val ∧ ¬c.status.good then some (p.tag, c.status.code) else none
    | _ => none

/-- A parcel that has left the queues counts as reported: RSEQ advances, and BADTAG moves on when it named this
completion. One that BTH_UNREPCLR has counted is not counted again. -/
def State.reported (s : State) (p : UpParcel) : State :=
  match p.body with
  | .completion c =>
    let b := berthOf p.berth.toNat
    let x := s.berth b
    if c.counted ∧ (c.cseq - x.rseq - 1).toNat < 2 ^ 31 then
      let named := x.badStat = c.status.code ∧ x.badTag = p.tag
      let next := firstBad b s.onWay
      s.setBerth b { x with
        rseq := x.rseq + 1
        badTag := if named then (match next with
          | some n => n.1
          | none => x.badTag) else x.badTag
        badStat := if named then (match next with
          | some n => n.2
          | none => 0) else x.badStat }
    else s
  | _ => s

/-! ### The agreed parameters (R28, R105, Table LOG-4) -/

/-- The negotiation record: 0 accepted, 1 lane mode, 2 training failed. -/
def State.sealNegotiation (s : State) (kind : Nat) : State :=
  s.sealCard 0x50 (leBytes 4 s.lnk.agreed.val.toNat ++ [BitVec.ofNat 8 kind, 0, 0, 0])

/-- A broken pair is not used: F28, and the link is in narrow mode to be negotiated again (Table ARCH-4, R107). -/
def State.checkLink (s : State) : State :=
  if s.lnk.agreed.ok then s
  else
    let s := s.raise 28 .degrade
    let s := if s.lnk.mode = .narrow then s else s.leaveLane
    { s with lnk := { s.lnk with agreed := Pair.mk' 0, accepted := false } }

/-- Lanes that have trained in the directions and at the rate of a parameter word since the last cold reset (R115). -/
def Link.trained (l : Link) (p : BitVec 26) : Bool :=
  let dn := match paramRate p with | 0 => l.dn1 | 1 => l.dn2 | _ => l.dn3
  let up := match paramRate p with | 0 => l.up1 | 1 => l.up2 | _ => l.up3
  (paramEn p &&& paramDir p &&& ~~~dn) == 0 && (paramEn p &&& ~~~(paramDir p) &&& ~~~up) == 0

/-- The coefficients of the lanes of a parameter word are stored (step 6 of Table LANE-1). -/
def Link.store (l : Link) (p : BitVec 26) : Link :=
  let d := paramEn p &&& paramDir p
  let u := paramEn p &&& ~~~(paramDir p)
  match paramRate p with
  | 0 => { l with dn1 := l.dn1 ||| d, up1 := l.up1 ||| u }
  | 1 => { l with dn2 := l.dn2 ||| d, up2 := l.up2 ||| u }
  | _ => { l with dn3 := l.dn3 ||| d, up3 := l.up3 ||| u }

/-- A tide period agreed (R36). -/
def State.agreePeriod (s : State) (p : BitVec 26) : State :=
  { s with
    lnk := { s.lnk with pay := paramPay p }
    tim := { s.tim with newPeriod := if paramTide p = s.tim.period then none else some (paramTide p) } }

end Sys2Proof.Machine
end

