-- ==== Sys2Proof/Machine/Narrow.lean ====
section
/-! DEFINITION. Narrow mode: tokens, data blocks, the manifest and negotiation (R72 to R107). -/

namespace Sys2Proof.Machine

/-! ### Who answers -/

/-- The card answers tokens: it is powered, the host link is this controller's, and the manifest is available (R95); the
deferral of a reset is answered with busy cause 1. -/
def State.hostLink (s : State) : Bool := s.rst.power == .on && s.rst.phase != .held && !s.isMember

/-- The front up parcel, fetched before, leaves the queue and counts as reported (R83, R164). -/
def State.dropFetched (s : State) : State :=
  if s.nar.fetched then
    let t : State := { s with nar := { s.nar with up := s.nar.up.drop 1, fetched := false } }
    match s.nar.up with
    | p :: _ => t.reported p
    | [] => t
  else s

/-- The eight bytes of a command token, the CRC-16 of bytes 0-5 in bytes 6-7 (Table NARROW-2). A token whose bytes 6-7 are
other arrives as NARROW_TOKEN_BAD. -/
def Token.bytes (t : Token) : List Byte :=
  let d := [t.op, t.tag] ++ leBytes 4 t.arg.toNat
  d ++ leBytes 2 (crc16 d).toNat

/-- The eight bytes of a response token (Table NARROW-2). -/
def Response.bytes (r : Response) : List Byte :=
  let d := [r.status.code, r.tag] ++ leBytes 4 r.result.toNat
  d ++ leBytes 2 (crc16 d).toNat

/-- A data block between its start and end nibbles: the payload, then its CRC-16, low byte first (R88). -/
def dataBlock (d : List Byte) : List Byte := d ++ leBytes 2 (crc16 d).toNat

/-- A token that is no repeat: it is the last executed from now on (R77). DESIGN CHOICE (log 134): one that is turned away or
answered BAD_FIELD too, so that its repeat gets the stored refusal. -/
def State.takeToken (s : State) (t : Token) : State :=
  let s := s.dropFetched
  { s with nar := { s.nar with
    last := some t, response := none, block := none, dataResponse := none, awaiting := none, putDone := false } }

/-- The response to the last token, with its card-driven block. -/
def State.respond (s : State) (st : Status) (res : W32) (blk : Option (List Byte) := none) : State :=
  { s with nar := { s.nar with
    response := s.nar.last.map fun t => { status := st, tag := t.tag, result := res }
    block := blk.map dataBlock } }

/-- The block that a token asks for (R89). -/
def Token.awaited (t : Token) : Option Awaited :=
  match t.op.toNat with
  | 6 => some (.ctlWr (t.arg.setWidth 16))
  | 7 => some (.put (bits t.arg 0 13))
  | _ => none

/-- A repeat is not executed: the stored response and block go out again (R77). After a PUT whose parcel was received the
result has DONE = 1 and no block follows (R82); a command still without its block waits for it again. -/
def State.again (s : State) (t : Token) : State :=
  match s.nar.dataResponse with
  | some r =>
    if t.op = 7 ∧ ¬s.nar.putDone then { s with nar := { s.nar with dataResponse := none, awaiting := t.awaited } }
    else { s with nar := { s.nar with response := some { r with result := if t.op = 7 then 1 else r.result } } }
  | none => match s.nar.response with
    | some r => if r.status = .ok then { s with nar := { s.nar with awaiting := t.awaited } } else s
    | none => s

/-! ### What each state admits (Table NARROW-5, R86, R87) -/

/-- Only the causes named may be active. -/
def State.onlyCauses (s : State) (l : List Nat) : Bool := (List.range 9).all fun c => !s.busyCause c || l.contains c

/-- The status that turns a command away, if one does: HALTED first, then the link's mode, then busy (log 52). DESIGN CHOICE
(log 138): a link in training, for which Table NARROW-5 has no column, is treated as lane mode. -/
def State.turnsAway (s : State) (op : Nat) : Option Status :=
  if s.flt.halted ∧ [2, 3, 6, 7].contains op then some .halted
  else if s.lnk.mode ≠ .narrow ∧ [2, 3, 7, 8].contains op then some .wrongState
  else if op = 3 ∧ ¬s.lnk.accepted then some .wrongState
  else if (op = 2 ∨ op = 3) ∧ ¬s.onlyCauses [4, 6, 7] then some .busy
  else if op = 6 ∧ s.busy then some .busy
  else if op = 7 ∧ s.busy ∧ ¬(s.onlyCauses [6, 7] ∧ s.busyCause 6) then some .busy
  else none

/-- One token: a repeat, a command turned away, an argument out of form, or the command. -/
def State.token (s : State) (op : Byte) (tag : Byte) (arg : W32) (ok : Bool) (body : State → State) : State :=
  let t : Token := { op := op, tag := tag, arg := arg }
  if s.nar.last = some t then s.again t
  else
    let s := (s.takeToken t).checkLink
    match s.turnsAway op.toNat with
    | some st => s.respond st 0
    | none => if ok then body s else s.respond .badField 0

def narrowTurn (s : State) (op : Byte) (tag : Byte) (arg : W32) (ok : Bool) (body : State → State) : Out :=
  if s.hostLink then settled s (s.token op tag arg ok body) else .next s

/-! ### The manifest (R96 to R99, Table NARROW-8, Table CASC-4) -/

/-- Reports of the members that are not fenced. -/
def State.liveReports (s : State) : List MemberReport := s.presentMembers.filterMap fun p => s.quy.reports[p]

/-- Bytes of user capacity that a member reports; the full figure stands for 15.36 TB, which is no whole number of MiB. -/
def reportBytes (r : MemberReport) : Nat := if r.capacityMib = userMib then 15360000000000 else r.capacityMib * 2 ^ 20

/-- The higher of two class bytes, 0xFF for none. -/
def maxClass (a b : Nat) : Nat := if a = 0xFF then b else if b = 0xFF then a else max a b

/-- A ready level (Table NARROW-9). -/
def State.readyLevel (s : State) : Nat :=
  if s.flt.halted then 3 else match s.rst.level with
    | .assembling => 0
    | .recovering => 1
    | .ready => 2

/-- Largest credit depth offered (R101, R126). -/
def maxCredit : Nat := clampNat 4 32 Config.creditDepth.toNat

/-- Regions that are defined. -/
def State.defined (s : State) : List Nat := (List.range 64).filter fun r => s.rtype r != .undefined

def manifestField (tag : Nat) (v : List Byte) : List Byte := [BitVec.ofNat 8 tag, BitVec.ofNat 8 v.length] ++ v

/-- The fourteen fields. DESIGN CHOICE (log 140): the usable energy of field 0x0A is rounded down to whole mJ. -/
def State.manifestFields (s : State) : List Byte :=
  let rs := s.liveReports
  let byte := fun (n : Nat) => (BitVec.ofNat 8 n : Byte)
  let types := fun (t : RType) => (s.defined.any fun r => s.rtype r == t).toNat
  let stickies := (s.flt.src.toList.filter fun x => x.sticky).length + (rs.map (·.stickies)).sum
  manifestField 0x01 (leBytes 2 0x4C4F ++ leBytes 2 0x9640 ++ [Config.siliconRev] ++ leBytes 3 Config.fwVersion.toNat ++
    leBytes 8 Config.serial.toNat) ++
  manifestField 0x02 [1] ++
  manifestField 0x03 [byte (1 + s.presentMembers.length), s.quy.lost ++ (s.quy.present ||| 1)] ++
  manifestField 0x04 (leBytes 8 (s.userBytes + (rs.map reportBytes).sum)) ++
  manifestField 0x05 [s.lnk.usable.setWidth 8, if s.slowClock then 0xF1 else 0xF7, byte maxCredit] ++
  manifestField 0x06 [0x0F, s.tim.period.setWidth 8] ++
  manifestField 0x07 [byte s.defined.length,
    byte (types .logbook + 2 * types .ring + 4 * types .general + 8 * types .compat),
    byte (s.defined.filter s.regionFenced).length,
    byte (s.defined.filter fun r =>
      bit (s.region r).cfg.val 3 || (s.region r).mro || (r == 0 && (s.log.full || s.log.exhausted))).length] ++
  manifestField 0x08 [byte s.grd.lockField] ++
  manifestField 0x09 [byte ((rs.map fun r => r.faultClass.toNat).foldl maxClass (clsByte s.highest)), byte (min 255 stickies)] ++
  manifestField 0x0A ([byte ((rs.map fun r => r.ledger.toNat).foldl max s.hup.ledger.code), 0] ++
    leSat 2 ((rs.map (·.euMj)).foldl min (s.hup.usable / 4))) ++
  manifestField 0x0B (leBytes 4 s.bth.unrep.toNat) ++
  manifestField 0x0C [byte s.readyLevel] ++
  manifestField 0x0D (leBytes 2 s.tim.qual.toNat) ++
  manifestField 0x0E (leBytes 4 s.lnk.agreed.val.toNat)

/-- The manifest: L, the fields, the complement of L and a CRC-16. -/
def State.manifestBytes (s : State) : List Byte :=
  let f := s.manifestFields
  let l : Byte := BitVec.ofNat 8 f.length
  let d := [l] ++ f ++ [~~~l]
  d ++ leBytes 2 (crc16 d).toNat

/-- MANIFEST. -/
def State.manifestBody (s : State) : State :=
  let s := s.checkLedger.elapse
  let m := s.manifestBytes
  s.respond .ok (BitVec.ofNat 32 m.length) (some m)

def execManifest (tag : Byte) (arg : W32) (s : State) : Out := narrowTurn s 1 tag arg (arg == 0) State.manifestBody

/-! ### Negotiation (R100 to R105) -/

/-- The highest lane of a set. -/
def highestLane (v : BitVec 6) : BitVec 6 := ((List.range 6).foldl (fun h i => if bit v i then BitVec.ofNat 6 (2 ^ i) else h) 0)

/-- A direction with no lane takes the highest of the other, if that keeps one. -/
def giveLane (from' to' : BitVec 6) : BitVec 6 × BitVec 6 :=
  if to' = 0 ∧ 2 ≤ popcount from' then (from' &&& ~~~highestLane from', highestLane from') else (from', to')

def paramWord (dir en : BitVec 6) (rate pay : Nat) (tide : BitVec 2) (credit : Nat) : BitVec 26 :=
  BitVec.ofNat 26 (dir.toNat + en.toNat <<< 6 + rate <<< 12 + pay <<< 14 + tide.toNat <<< 16 + credit <<< 18)

/-- The parameters that a proposal leads to (R101); none where it is refused. Every payload maximum is offered. -/
def State.counterOf (s : State) (p : BitVec 26) : Option (BitVec 26) :=
  let pay := bits p 14 2
  if paramEn p = 0 then some (paramWord 0 0 0 pay (paramTide p) 0)
  else
    let lanes := paramEn p &&& s.lnk.usable
    let (up, down) := giveLane (lanes &&& ~~~(paramDir p)) (lanes &&& paramDir p)
    let (down, up) := giveLane down up
    if down = 0 ∨ up = 0 then none
    else some (paramWord down lanes (if s.slowClock then 0 else paramRate p) pay (paramTide p) (clampNat 4 maxCredit (paramCredit p)))

/-- Acceptance (R105). -/
def State.accept (s : State) (p : BitVec 26) : State :=
  let s : State := { s with
    nar := { s.nar with counters := 0 }
    lnk := { s.lnk with agreed := Pair.mk' p, accepted := paramEn p != 0, depth := BitVec.ofNat 8 (paramCredit p) } }
  let s := if paramEn p = 0 then s.agreePeriod p else s
  s.sealNegotiation 0

/-- PROPOSE (R100 to R105). A refusal of R101 leaves the count of R103 as it is (log 53). Once PROPOSE is shut the link stays
in narrow mode, so an earlier acceptance lets no LANES through (R103). -/
def State.proposeBody (s : State) (p : BitVec 26) : State :=
  let refused : W32 := s.lnk.agreed.val.setWidth 32 ||| 0x8000000
  if s.nar.shut then s.respond .ok refused
  else match s.counterOf p with
    | none => s.respond .ok refused
    | some c =>
      if !s.resvs.isEmpty && !s.limitsHold c s.resvs then s.respond .overReserved refused
      else if c = p then (s.accept c).respond .ok (c.setWidth 32)
      else if 3 ≤ s.nar.counters then
        { s with nar := { s.nar with shut := true }, lnk := { s.lnk with accepted := false } }.respond .ok refused
      else { s with nar := { s.nar with counters := s.nar.counters + 1 } }.respond .ok (c.setWidth 32 ||| 0x4000000)

/-- The argument's form (R79): the verdict and reserved bits are 0, and RATE is not the reserved 0b11. DIR bits of lanes that
are not in EN are masked by the steps of R101. -/
def proposalOk (arg : W32) : Bool := bits arg 26 6 == 0 && bits arg 12 2 != 3

def execPropose (tag : Byte) (arg : W32) (s : State) : Out :=
  narrowTurn s 2 tag arg (proposalOk arg) fun s => s.proposeBody (arg.setWidth 26)

/-! ### LANES (R74, R103, R105, R106, R115) -/

/-- The agreed set is trained, fast where every lane has trained so before. -/
def State.lanesBody (s : State) : State :=
  let p := s.lnk.agreed.val
  let s := s.agreePeriod p
  let s : State := { s with
    nar := { s.nar with counters := 0 }
    lnk := { s.lnk with mode := .training, active := 0, down := 0, accepted := false, fast := s.lnk.trained p, sent := [] } }
  s.respond .ok 0

def execLanes (tag : Byte) (arg : W32) (s : State) : Out := narrowTurn s 3 tag arg (arg == 0) State.lanesBody

/-! ### STATUS, CTL_RD, CTL_WR -/

/-- The status word (Table NARROW-4). -/
def State.statusWord (s : State) : W32 :=
  let link : Nat := match s.lnk.mode with
    | .narrow => 0 | .training => 1 | .lane => 2 | LinkMode.doze => 3
  word [(s.readyLevel, 0), (s.busy.toNat, 2), (s.busyCode, 3), (s.lnk.trainFail.toNat, 7), (min 255 s.nar.up.length, 8), (link, 16)]

def execStatus (tag : Byte) (arg : W32) (s : State) : Out :=
  narrowTurn s 4 tag arg (arg == 0) fun s => s.respond .ok s.statusWord

/-- A control-space address in a token's argument: 16 bits, 4-byte-aligned. -/
def ctlArgOk (arg : W32) : Bool := bits arg 16 16 == 0 && bits arg 0 2 == 0

/-- CTL_RD (R84). -/
def State.ctlRdBody (s : State) (a : Nat) : State :=
  let (v, s) := s.ctlRead none a
  s.respond .ok v

def execCtlRd (tag : Byte) (arg : W32) (s : State) : Out :=
  narrowTurn s 5 tag arg (ctlArgOk arg) fun s => s.ctlRdBody (bits arg 0 16)

/-- A response that asks for a host-driven block. -/
def State.askBlock (s : State) (a : Awaited) : State :=
  let s := s.respond .ok 0
  { s with nar := { s.nar with awaiting := some a } }

/-- CTL_WR. -/
def execCtlWr (tag : Byte) (arg : W32) (s : State) : Out :=
  narrowTurn s 6 tag arg (ctlArgOk arg) fun s => s.askBlock (.ctlWr (arg.setWidth 16))

/-! ### PUT, GET, RESET -/

/-- PUT's length (R81). -/
def State.putBody (s : State) (n : Nat) : State :=
  if s.lnk.pay + 20 < n then { s with nar := { s.nar with oversize := satInc s.nar.oversize } }.respond .oversize 0
  else s.askBlock (.put n)

/-- PUT. DESIGN CHOICE (log 136): a length below 20, for which R81 names no status, is answered BAD_FIELD. -/
def execPut (tag : Byte) (arg : W32) (s : State) : Out :=
  narrowTurn s 7 tag arg (bits arg 13 19 == 0 && 20 ≤ bits arg 0 13) fun s => s.putBody (bits arg 0 13)

/-- GET (R83): the front parcel stays until the next token that is no repeat. -/
def State.getBody (s : State) : State :=
  match s.nar.up with
  | [] => s.respond .ok 0
  | p :: _ =>
    let (n, s) := s.draw
    let d := p.bytes s.busy (Config.freeWord n)
    let s := s.respond .ok (BitVec.ofNat 32 d.length) (some d)
    { s with nar := { s.nar with fetched := true } }

def execGet (tag : Byte) (arg : W32) (s : State) : Out := narrowTurn s 8 tag arg (arg == 0) State.getBody

/-- RESET: warm (R400). -/
def execReset (tag : Byte) (arg : W32) (s : State) : Out := narrowTurn s 9 tag arg (arg == 1) fun s => (s.respond .ok 0).source 8

/-- Any other opcode (R79). -/
def execUnknownOpcodeToken (op : Byte) (tag : Byte) (arg : W32) (s : State) : Out :=
  if 1 ≤ op.toNat ∧ op.toNat ≤ 9 then .next s else narrowTurn s op tag arg true fun s => s.respond .unknownOp 0

/-- A token that fails its CRC or its stop bit (R78). -/
def execNarrowTokenBad (s : State) : Out :=
  if s.hostLink then .next { s with nar := { s.nar with tokCrc := satInc s.nar.tokCrc } } else .next s

/-! ### Host-driven blocks (R88 to R90, R496) -/

/-- What a parcel of a good PUT block does. DESIGN CHOICE (log 139): in stop-change-restart a parcel that is no push to
berths 0-7 is answered BUSY in the data response, since the token does not show what its block will carry. -/
def State.putParcel (s : State) (typ : Nat) (p : Parcel) : Status × State :=
  let b := berthOf p.hdr.berth.toNat
  if s.busyCause 6 ∧ ¬(typ = 1 ∧ b.val < 8) then (.busy, s)
  else match typ with
    | 1 => (.ok, s.push b p.hdr.tag p.payload)
    | 2 => (.ok, s.takeParcelData b p.hdr.tag p.payload p.hdr.last)
    | 5 => (.ok, s.markerTime (BitVec.ofNat 64 (ofLe (slice p.payload 0 8))) (p.payload.getD 8 0))
    | _ => (.ok, s)

/-- The checks of R496 on a PUT block, in the order of R121. -/
def State.checkPut (s : State) (d : List Byte) : Status × State :=
  let (start, typ, h) := parseHdr (d.take 16)
  let p : Parcel := {
    hdr := h, payload := slice d 16 (d.length - 20), crc := BitVec.ofNat 32 (ofLe (d.drop (d.length - 4))) }
  if ¬hcrcOk start typ h then (.blockCrc, { s with lnk := { s.lnk with hcrc := satInc s.lnk.hcrc } })
  else if ¬formatOk start typ h ∨ h.len.toNat + 20 ≠ d.length then
    (.badField, { s with lnk := { s.lnk with format := satInc s.lnk.format } })
  else if ¬pcrcOk start typ p then (.blockCrc, { s with lnk := { s.lnk with pcrc := satInc s.lnk.pcrc } })
  else s.putParcel typ p

/-- The data response (R89): the last response of its command. DESIGN CHOICE (log 137): a PUT parcel discarded with
BAD_FIELD or BUSY has been received, so that its repeat is answered DONE = 1 (R82). -/
def State.answerBlock (s : State) (st : Status) (put : Bool) : State :=
  { s with nar := { s.nar with
    awaiting := none
    dataResponse := s.nar.last.map fun t => { status := st, tag := t.tag, result := 0 }
    putDone := put && st != .blockCrc } }

/-- A host-driven block arrives; one of the wrong length has its CRC in the wrong place (log 54). -/
def execHostDataBlock (d : List Byte) (crc : W16) (s : State) : Out :=
  if s.hostLink then
    match s.nar.awaiting with
    | none => .next s
    | some (.ctlWr a) =>
      if crc16 d ≠ crc ∨ d.length ≠ 4 then .next (s.answerBlock .blockCrc false)
      else
        let (st, t) := s.ctlWrite 0 a.toNat (BitVec.ofNat 32 (ofLe d))
        settled s (t.answerBlock st false)
    | some (.put n) =>
      if crc16 d ≠ crc ∨ d.length ≠ n then .next (s.answerBlock .blockCrc true)
      else
        let (st, t) := s.checkPut d
        settled s (t.answerBlock st true)
  else .next s

/-- The host has not begun its block in time (R90). -/
def execNarrowBlockTimeout (s : State) : Out :=
  if s.hostLink ∧ s.nar.awaiting.isSome then
    .next { s with nar := { s.nar with awaiting := none, timeout := satInc s.nar.timeout } }
  else .next s

/-! ### The NCMD wake pattern (R135) -/

/-- The pattern, in doze: the down-lane receivers are armed. -/
def execNcmdWakePattern (s : State) : Out :=
  if s.alive ∧ ¬s.isMember ∧ s.lnk.mode = LinkMode.doze then
    settled s ({ s with lnk := { s.lnk with armed := true } }.wakeBy 1 [7])
  else .next s

/-- No down-lane signal within 1 ms. -/
def execNcmdWakeTimeout (s : State) : Out :=
  if s.alive ∧ s.lnk.mode = LinkMode.doze then .next { s with lnk := { s.lnk with armed := false } } else .next s

/-! ### Board test (R483) -/

/-- The TAP holds its instruction while the cores are held for board test. -/
def execTapInstruction (op : TapOp) (s : State) : Out :=
  if s.rst.power = .boardTest then .next { s with tap := op } else .next s

/-- IDCODE (R483). -/
def idcode : W32 := Config.siliconRev.setWidth 4 ++ (0x9640 : W16) ++ Config.idcodeLow

end Sys2Proof.Machine
end

