-- ==== Sys2Proof/Machine/Lane.lean ====
section
/-! DEFINITION. Lane mode: training, parcels, acknowledgement, replay, credits, ordered sets and doze (R106, R112 to R136). -/

namespace Sys2Proof.Machine

/-! ### What the card sends -/

def State.sendFrames (s : State) (fs : List UpFrame) : State := { s with lnk := { s.lnk with sent := s.lnk.sent ++ fs } }

/-- A NAK (Table LANE-6). -/
def State.nakWith (s : State) (reason : Byte) (ack : BitVec 12) (cret : Byte) : State :=
  s.sendFrames [.control ack (some reason) cret s.busy]

/-- An acknowledgement, with the credits that the accepted parcel returns (R120, R126). -/
def State.ackWith (s : State) (cret : Byte) : State := s.sendFrames [.control s.lnk.rxLast none cret s.busy]

/-! ### Acknowledgement by the host (R120, R123, R164) -/

/-- A sequence number lies at or before another (modulo 4096). -/
def seqUpTo (x last : BitVec 12) : Bool := (last - x).toNat < 2048

/-- The front entries that an ACKSEQ acknowledges leave the replay buffer and count as reported. -/
def State.ackFront (ack : BitVec 12) : Nat → State → State
  | 0, s => s
  | n + 1, s => match s.lnk.replayBuf with
    | (q, p) :: r =>
      if seqUpTo q ack then State.ackFront ack n ({ s with lnk := { s.lnk with replayBuf := r } }.reported p) else s
    | [] => s

/-- ACKSEQ takes effect when it names a parcel sent since the last one acknowledged. -/
def State.takeAck (s : State) (ack : BitVec 12) : State :=
  let d := (ack - s.lnk.txAcked).toNat
  if 0 < d ∧ d ≤ (s.lnk.txNext - 1 - s.lnk.txAcked).toNat then
    let s := s.ackFront ack s.lnk.replayBuf.length
    { s with lnk := { s.lnk with txAcked := ack, headReplays := 0 } }
  else s

/-! ### Replay (R123, R124) -/

/-- Every parcel of the replay buffer goes out again, in order; a replay after a loop-back slice does not count toward the
limit of R124 (R125). -/
def State.replayAll (s : State) : State :=
  let n := s.lnk.replayBuf.length
  if n = 0 then s
  else
    let s := s.sendFrames (s.lnk.replayBuf.map fun p => .parcel p.1 p.2 s.busy)
    { s with lnk := { s.lnk with
      replayCount := satNat 16 (s.lnk.replayCount.toNat + n)
      headReplays := if s.lnk.sliceLost then s.lnk.headReplays else s.lnk.headReplays + 1
      sliceLost := false, replayOnCredit := false } }

/-- A fast retrain starts (F30); the third within a second fails (R124). -/
def State.retrain (s : State) : State :=
  let s := s.raise 30 .note
  let ts := recentOf s.now s.lnk.retrainAt ++ [s.now]
  let s := { s with lnk := { s.lnk with
    retrainCount := satInc s.lnk.retrainCount, retrainAt := ts, headReplays := 0, dozeAccepted := false } }
  if 3 ≤ ts.length then (s.failLanes 0).sealNegotiation 2
  else { s with lnk := { s.lnk with mode := .training, fast := true } }

/-- The oldest parcel had no acknowledgement: replayed, or, after four replays, the direction retrains. -/
def State.replayOrRetrain (s : State) : State :=
  if s.lnk.headReplays < 4 ∨ s.lnk.sliceLost then s.replayAll else s.retrain

/-- A NAK in a header from the host (Table LANE-6, column "Sender then"). -/
def State.takeNak (s : State) (code : Byte) (ack : BitVec 12) : State :=
  match code.toNat with
  | 1 | 3 => (s.takeAck ack).replayOrRetrain
  | 2 => ((s.takeAck ack).sendFrames [.realign]).replayOrRetrain
  | 4 | 5 => { s with lnk := { s.lnk with replayBuf := s.lnk.replayBuf.filter fun p => p.1 != ack } }
  | 6 =>
    let s := s.takeAck ack
    { s with lnk := { s.lnk with creditUp := 0, replayOnCredit := true } }
  | _ => s

/-- Credits that the host returns: a replay that waited for one goes out, then what is queued (R126, R128). -/
def State.takeCredits (s : State) (n : Nat) : State :=
  if n = 0 then s
  else
    let s := { s with lnk := { s.lnk with creditUp := s.lnk.creditUp + n } }
    let s := if s.lnk.replayOnCredit ∧ s.lnk.mode = .lane then s.replayAll else s
    let s := { s with lnk := { s.lnk with replayOnCredit := false } }
    s.drainUp s.nar.up.length

/-- What every good header carries besides its parcel. -/
def State.takeHeader (s : State) (h : Hdr) : State :=
  let ack : BitVec 12 := h.ackseq.setWidth 12
  let s := if h.nak then s.takeNak h.code ack else s
  let s := if h.ackv then s.takeAck ack else s
  s.takeCredits h.cret.toNat

/-! ### The receiver (R121, Table LANE-6) -/

/-- What a parcel meets. -/
inductive Verdict where
  | ignored
  | header
  | format
  | oversize
  | duplicate
  | noCredit
  | gap
  | crc
  | good
  deriving DecidableEq, Repr

/-- The checks in the order of R121; `hok` and `pok` are its two CRCs. A duplicate is told before the credit check, since a
replay spends no credit (log 55). -/
def State.verdict (s : State) (hok pok : Bool) (start typ : Nat) (p : Parcel) : Verdict :=
  let h := p.hdr
  let seq : BitVec 12 := h.seq.setWidth 12
  let sequenced := if start == 10 && lenOk typ h.len.toNat then sequencedType typ else !h.unseq
  if s.lnk.rxMode = .untilRealign then .ignored
  else if !hok then .header
  else if s.lnk.rxMode = .untilSeq ∧ sequenced ∧ seq ≠ s.lnk.rxLast + 1 then .ignored
  else if !formatOk start typ h then .format
  else if s.lnk.pay < h.len.toNat then .oversize
  else if sequenced ∧ seqUpTo seq s.lnk.rxLast then .duplicate
  else if sequenced ∧ s.lnk.creditDown = 0 then .noCredit
  else if sequenced ∧ seq ≠ s.lnk.rxLast + 1 then .gap
  else if !pok then .crc
  else .good

/-- A START or TYPE failure (R121): START is not 0xA, or Table LANE-5 has no such TYPE. -/
def startBad (start typ : Nat) : Bool := start != 10 || typ == 0 || 8 < typ

/-- An oversize or malformed parcel is consumed: it counts as received and never comes again, so what its header carries is
taken, and its credit returns (R121, R126). Only a START or TYPE failure of an unsequenced parcel is answered with the last
good ACKSEQ, any other with the parcel's SEQ. -/
def State.consume (s : State) (reason : Byte) (noType : Bool) (h : Hdr) : State :=
  let seq : BitVec 12 := h.seq.setWidth 12
  if h.unseq then (s.takeHeader h).nakWith reason (if noType then s.lnk.rxLast else seq) 0
  else if seq = s.lnk.rxLast + 1 then
    ({ s with lnk := { s.lnk with rxLast := seq, rxMode := .normal } }.takeHeader h).nakWith reason seq 1
  else s.nakWith reason seq 1

/-- What a parcel that is not good leaves behind. -/
def State.turnDown (s : State) (v : Verdict) (noType : Bool) (h : Hdr) : State :=
  match v with
  | .ignored | .good => s
  | .header => { s with lnk := { s.lnk with hcrc := satInc s.lnk.hcrc, rxMode := .untilRealign } }.nakWith 2 s.lnk.rxLast 0
  | .format => { s with lnk := { s.lnk with format := satInc s.lnk.format } }.consume 5 noType h
  | .oversize => { s with lnk := { s.lnk with oversize := satInc s.lnk.oversize } }.consume 4 false h
  | .duplicate => s.ackWith 0
  | .noCredit => { s with lnk := { s.lnk with noCredit := satInc s.lnk.noCredit } }.nakWith 6 s.lnk.rxLast 0
  | .gap => { s with lnk := { s.lnk with seqGap := satInc s.lnk.seqGap, rxMode := .untilSeq } }.nakWith 3 s.lnk.rxLast 0
  | .crc => { s with lnk := { s.lnk with pcrc := satInc s.lnk.pcrc, rxMode := .untilSeq } }.nakWith 1 s.lnk.rxLast 0

/-- The link takes parcels: lane mode, cores running, this controller's link. -/
def State.laneOn (s : State) : Bool := s.alive && !s.isMember && s.lnk.mode == .lane

/-- A command on the lanes begins: nothing sent yet, and the agreed pair holds (R28). -/
def State.laneStart (s : State) : State := { s with lnk := { s.lnk with sent := [] } }.checkLink

/-- A good sequenced parcel: it is the last in order now; its space is free at once but for data that waits for room in the
write share (R127). -/
def State.acceptSeq (s : State) (h : Hdr) (isData : Bool) (body : State → State) : State :=
  let s := { s with lnk := { s.lnk with rxLast := h.seq.setWidth 12, rxMode := .normal } }
  let s := body (s.takeHeader h)
  if s.lnk.mode ≠ .lane then s
  else if isData ∧ s.writeShare ≤ s.shareUsed then
    { s with lnk := { s.lnk with creditDown := s.lnk.creditDown - 1, withheld := s.lnk.withheld + 1 } }.ackWith 0
  else s.ackWith 1

/-- A parcel of a known type arrives. -/
def receive (typ : Nat) (p : Parcel) (s : State) (body : State → State) : Out :=
  if s.laneOn then
    let t := s.laneStart
    let v := t.verdict (hcrcOk 10 typ p.hdr) (pcrcOk 10 typ p) 10 typ p
    settled s (if t.lnk.mode ≠ .lane then t
      else if v = .good then
        (if sequencedType typ then t.acceptSeq p.hdr (typ == 2) body else body (t.takeHeader p.hdr))
      else t.turnDown v false p.hdr)
  else .next s

/-- An instruction push (R129, R130, R152). -/
def execInstructionPush (p : Parcel) (s : State) : Out :=
  receive 1 p s fun s => s.push (berthOf p.hdr.berth.toNat) p.hdr.tag p.payload

/-- A data parcel (R155). -/
def execDataParcel (p : Parcel) (s : State) : Out :=
  receive 2 p s fun s => s.takeParcelData (berthOf p.hdr.berth.toNat) p.hdr.tag p.payload p.hdr.last

/-- A time-sync parcel (R62, R119). -/
def execTimeSyncParcel (p : Parcel) (s : State) : Out :=
  receive 5 p s fun s => s.markerTime (BitVec.ofNat 64 (ofLe (slice p.payload 0 8))) (p.payload.getD 8 0)

/-- A control parcel: acknowledgements and credits (R119, R120). -/
def execControlParcel (p : Parcel) (s : State) : Out := receive 6 p s id

/-- A control parcel that carries a NAK. -/
def execNakReceived (p : Parcel) (s : State) : Out := if p.hdr.nak then receive 6 p s id else .next s

/-- A parcel that fails a check of R121; one that passes them all is another row's (log 2). -/
def execMalformedParcel (hdr : List Byte) (payload : List Byte) (crc : W32) (s : State) : Out :=
  if s.laneOn then
    let (start, typ, h) := parseHdr hdr
    let p : Parcel := { hdr := h, payload := payload, crc := crc }
    let t := s.laneStart
    let v := t.verdict (hcrcOk start typ h) (pcrcOk start typ p) start typ p
    if v = .good then .next s else settled s (if t.lnk.mode ≠ .lane then t else t.turnDown v (startBad start typ) h)
  else .next s

/-- The oldest unacknowledged parcel has waited LNK_REPLAY.US (R123). -/
def execReplayTimeout (s : State) : Out :=
  if s.laneOn ∧ s.lnk.replayBuf ≠ [] then settled s (s.laneStart.replayOrRetrain) else .next s

/-! ### Training (R106, R112 to R115, R124) -/

/-- Credits are full again: every credit of the depth but those of the parcels that are outstanding still (R123, R126). -/
def Link.freshCredits (l : Link) : Nat := l.depth.toNat - l.replayBuf.length

/-- Lane mode is entered, or comes back after a fast retrain or doze (Table LANE-1 step 7, R120, R126). The card's wake parcel
goes out, and credits are full. -/
def State.enterLane (s : State) : State :=
  let l := s.lnk
  let p := l.agreed.val
  let entry := l.active = 0
  let restart := !l.fast
  let s := { s with lnk := { l.store p with
    mode := .lane, fast := false, active := paramEn p, down := paramEn p &&& paramDir p
    trainFail := if entry then false else l.trainFail
    creditDown := l.depth.toNat, creditUp := if restart then l.depth.toNat else l.freshCredits, withheld := 0
    headReplays := 0, sliceLost := false, rxMode := .normal, replayOnCredit := false, armed := false
    txNext := if restart then 0 else l.txNext
    txAcked := if restart then 0xFFF else l.txAcked
    rxLast := if restart then 0xFFF else l.rxLast
    replayBuf := if restart then [] else l.replayBuf
    sent := [.wake s.busy] } }
  let s := if entry then s.sealNegotiation 1 else s
  s.drainUp s.nar.up.length

/-- Training ends: lane mode when every agreed lane trained, else narrow mode with the failed lanes fenced and removed from
the usable mask (R106, R124). -/
def execLaneTrainingEnd (failed : BitVec 6) (s : State) : Out :=
  if s.alive ∧ ¬s.isMember ∧ s.lnk.mode = .training then
    let t := s.laneStart
    let bad := failed &&& paramEn t.lnk.agreed.val
    settled s (if t.lnk.mode ≠ .training then t
      else if bad = 0 then t.enterLane
      else (t.failLanes bad).sealNegotiation 2)
  else .next s

/-! ### Ordered sets and their lanes (R116, Table LANE-3) -/

/-- The lowest-numbered lane of a set, as a mask. -/
def lowestLane (v : BitVec 6) : BitVec 6 := v &&& (0 - v)

/-- The lanes on which a set may come in lane mode: the training sets on down lanes, a sync on the lowest, filler on the
others, realign and electrical idle on all of them. -/
def Link.setOn (l : Link) (a : OrderedSet) : Bool :=
  match a.symbol0.toNat with
  | 0x1E | 0x2D => a.lanes &&& ~~~l.down == 0
  | 0x5A => a.lanes == lowestLane l.down
  | 0x55 => a.lanes == l.down &&& ~~~(lowestLane l.down)
  | 0x66 | 0x78 => a.lanes == l.down
  | _ => false

/-- An ordered set is discarded and counted. -/
def State.badSet (s : State) : State := { s with lnk := { s.lnk with format := satInc s.lnk.format } }

/-! ### Doze (R132 to R136) -/

/-- The reason to decline, the lowest that holds; 0 accepts. -/
def State.dozeReason (s : State) : Nat :=
  if s.lnk.replayBuf ≠ [] ∨ s.nar.up ≠ [] ∨ s.lnk.rxMode ≠ .normal then 1
  else if s.busy then 2
  else if ¬s.lnk.dozeAllow then 3
  else 0

/-- A doze request is answered; any other byte 0 asks nothing. -/
def State.dozeAsked (s : State) (d : List Byte) : State :=
  if d.getD 0 0 = 1 then
    let r := s.dozeReason
    if r = 0 then { s with lnk := { s.lnk with dozeAccepted := true } }.sendFrames [.doze 2 0 s.busy]
    else { s with lnk := { s.lnk with dozeAccepted := false, dozeDecline := satInc s.lnk.dozeDecline } }.sendFrames
      [.doze 3 (BitVec.ofNat 8 r) s.busy]
  else s

def execDozeParcel (p : Parcel) (s : State) : Out := receive 7 p s fun s => s.dozeAsked p.payload

/-- Electrical-idle sets after an accept: the card idles its up lanes too, and the link dozes (R133); an up parcel that came
in between pulls WAKE# low (R136). -/
def execElectricalIdleSet (s : State) : Out :=
  if s.laneOn ∧ s.lnk.dozeAccepted then
    let t := s.laneStart
    settled s (if t.lnk.mode ≠ .lane then t
      else { t with lnk := { t.lnk with
        mode := LinkMode.doze, dozeAccepted := false, sent := [.electricalIdle]
        wakeLow := t.lnk.wakeEn && !t.nar.up.isEmpty } })
  else .next s

/-- No electrical-idle set within 100 µs of the accept (R133). -/
def execDozeAcceptTimeout (s : State) : Out :=
  if s.laneOn then .next { s with lnk := { s.lnk with dozeAccepted := false } } else .next s

/-- A signal on a down lane in doze: WAKE# is released, the source recorded, and all agreed lanes retrain fast (R135,
R136, Table POWER-3). -/
def execSignalDetect (s : State) : Out :=
  if s.alive ∧ ¬s.isMember ∧ s.lnk.mode = LinkMode.doze then
    let t : State := { s with lnk := { s.lnk with
      mode := .training, fast := true, wakeLow := false, armed := false, sent := [] } }
    settled s (t.wakeBy 0 [7, 9, 6])
  else .next s

/-- The host's wake parcel (R112, R135). The credits have been full since lane mode came back (R126): they are counted once
per wake. -/
def execWakeParcel (p : Parcel) (s : State) : Out := receive 8 p s id

/-! ### Ordered sets (R116, R117) -/

/-- A sync: a marker, or, with a bad complement, none, counted in TIM_MKREJ.LATE. -/
def execSyncOrderedSet (number : Byte) (complement : Byte) (s : State) : Out :=
  if s.laneOn then
    settled s (if complement = ~~~number then s.seeMarker true number Config.rxlatLane else s.lateMarker)
  else .next s

/-- A realign ends a discard of bytes (Table LANE-6). -/
def execRealignOrderedSet (s : State) : Out :=
  if s.laneOn then
    .next { s with lnk := { s.lnk with rxMode := if s.lnk.rxMode = .untilRealign then .normal else s.lnk.rxMode } }
  else .next s

/-- An ordered set that Table LANE-3 does not name, or that comes on the wrong lanes, is discarded and counted; one on its
own lanes is another row's (log 2). -/
def execUnknownOrderedSet (arrival : OrderedSet) (s : State) : Out :=
  if s.laneOn ∧ ¬s.lnk.setOn arrival then .next s.badSet else .next s

end Sys2Proof.Machine
end

