-- ==== Sys2Proof/Machine/RecordInstr.lean ====
section
/-! DEFINITION. The logbook, counter and time families (R202 to R206), one meaning per instruction. -/

namespace Sys2Proof.Machine

/-- SEAL (R203). -/
def execSeal (b : BerthId) (s : State) : Out := turn b 0x40 s fun q s => s.sealBody b q

/-- LOGREAD (R204, R285 to R289). -/
def execLogread (b : BerthId) (s : State) : Out := turn b 0x41 s fun q s => s.logreadBody b q

/-- CHECKPT (R204, R280). -/
def execCheckpt (b : BerthId) (s : State) : Out := turn b 0x42 s fun q s => s.checkptBody b q

/-- CTRINC (R205, R294). -/
def execCtrinc (b : BerthId) (s : State) : Out := turn b 0x48 s fun q s => s.ctrincBody b q

/-- CTRREAD (R205). -/
def execCtrread (b : BerthId) (s : State) : Out := turn b 0x49 s fun q s => s.ctrreadBody b q

/-- TIMERD (R206). -/
def execTimerd (b : BerthId) (s : State) : Out := turn b 0x50 s fun q s => s.timerdBody b q

/-- ALARM (R206). -/
def execAlarm (b : BerthId) (s : State) : Out := turn b 0x51 s fun q s => s.alarmBody b q

end Sys2Proof.Machine
end

