-- ==== Sys2Proof/Machine/Dispatch.lean ====
section
/-! DEFINITION. What each command does: one arm per constructor, each a call of its meaning. -/

namespace Sys2Proof.Machine

def exec (i : Instr) (s : State) : Host.Outcome State Fault Refusal :=
  match i with
  | .manifest tag arg => Sys2Proof.Machine.execManifest tag arg s
  | .propose tag arg => Sys2Proof.Machine.execPropose tag arg s
  | .lanes tag arg => Sys2Proof.Machine.execLanes tag arg s
  | .status tag arg => Sys2Proof.Machine.execStatus tag arg s
  | .ctlRd tag arg => Sys2Proof.Machine.execCtlRd tag arg s
  | .ctlWr tag arg => Sys2Proof.Machine.execCtlWr tag arg s
  | .put tag arg => Sys2Proof.Machine.execPut tag arg s
  | .get tag arg => Sys2Proof.Machine.execGet tag arg s
  | .reset tag arg => Sys2Proof.Machine.execReset tag arg s
  | .unknownOpcodeToken op tag arg => Sys2Proof.Machine.execUnknownOpcodeToken op tag arg s
  | .narrowTokenBad => Sys2Proof.Machine.execNarrowTokenBad s
  | .hostDataBlock payload crc => Sys2Proof.Machine.execHostDataBlock payload crc s
  | .narrowBlockTimeout => Sys2Proof.Machine.execNarrowBlockTimeout s
  | .narrowSyncMarker => Sys2Proof.Machine.execNarrowSyncMarker s
  | .nclkRestart => Sys2Proof.Machine.execNclkRestart s
  | .ncmdWakePattern => Sys2Proof.Machine.execNcmdWakePattern s
  | .ncmdWakeTimeout => Sys2Proof.Machine.execNcmdWakeTimeout s
  | .laneTrainingEnd failed => Sys2Proof.Machine.execLaneTrainingEnd failed s
  | .instructionPush p => Sys2Proof.Machine.execInstructionPush p s
  | .dataParcel p => Sys2Proof.Machine.execDataParcel p s
  | .timeSyncParcel p => Sys2Proof.Machine.execTimeSyncParcel p s
  | .controlParcel p => Sys2Proof.Machine.execControlParcel p s
  | .nakReceived p => Sys2Proof.Machine.execNakReceived p s
  | .replayTimeout => Sys2Proof.Machine.execReplayTimeout s
  | .dozeParcel p => Sys2Proof.Machine.execDozeParcel p s
  | .electricalIdleSet => Sys2Proof.Machine.execElectricalIdleSet s
  | .dozeAcceptTimeout => Sys2Proof.Machine.execDozeAcceptTimeout s
  | .signalDetect => Sys2Proof.Machine.execSignalDetect s
  | .wakeParcel p => Sys2Proof.Machine.execWakeParcel p s
  | .syncOrderedSet number complement => Sys2Proof.Machine.execSyncOrderedSet number complement s
  | .realignOrderedSet => Sys2Proof.Machine.execRealignOrderedSet s
  | .tideBoundary m => Sys2Proof.Machine.execTideBoundary m s
  | .timeStep => Sys2Proof.Machine.execTimeStep s
  | .syncageTimeout => Sys2Proof.Machine.execSyncageTimeout s
  | .holdmaxTimeout => Sys2Proof.Machine.execHoldmaxTimeout s
  | .alarmFire => Sys2Proof.Machine.execAlarmFire s
  | .timNowlRead => Sys2Proof.Machine.execTimNowlRead s
  | .timHtgo seq => Sys2Proof.Machine.execTimHtgo seq s
  | .timAlmctlArm => Sys2Proof.Machine.execTimAlmctlArm s
  | .alloc => Sys2Proof.Machine.execAlloc s
  | .load => Sys2Proof.Machine.execLoad s
  | .start => Sys2Proof.Machine.execStart s
  | .stop => Sys2Proof.Machine.execStop s
  | .free => Sys2Proof.Machine.execFree s
  | .restart => Sys2Proof.Machine.execRestart s
  | .bthCfgWrite v => Sys2Proof.Machine.execBthCfgWrite v s
  | .bthResvRequest v => Sys2Proof.Machine.execBthResvRequest v s
  | .bthUnrepclr => Sys2Proof.Machine.execBthUnrepclr s
  | .nop b => Sys2Proof.Machine.execNop b s
  | .halt b => Sys2Proof.Machine.execHalt b s
  | .jump b => Sys2Proof.Machine.execJump b s
  | .branch b => Sys2Proof.Machine.execBranch b s
  | .call b => Sys2Proof.Machine.execCall b s
  | .ret b => Sys2Proof.Machine.execRet b s
  | .loop b => Sys2Proof.Machine.execLoop b s
  | .waitt b => Sys2Proof.Machine.execWaitt b s
  | .waittWake b => Sys2Proof.Machine.execWaittWake b s
  | .waite b => Sys2Proof.Machine.execWaite b s
  | .waiteTimeout b => Sys2Proof.Machine.execWaiteTimeout b s
  | .signal b => Sys2Proof.Machine.execSignal b s
  | .order b => Sys2Proof.Machine.execOrder b s
  | .ldi b => Sys2Proof.Machine.execLdi b s
  | .mov b => Sys2Proof.Machine.execMov b s
  | .add b => Sys2Proof.Machine.execAdd b s
  | .sub b => Sys2Proof.Machine.execSub b s
  | .and b => Sys2Proof.Machine.execAnd b s
  | .or b => Sys2Proof.Machine.execOr b s
  | .xor b => Sys2Proof.Machine.execXor b s
  | .shl b => Sys2Proof.Machine.execShl b s
  | .shr b => Sys2Proof.Machine.execShr b s
  | .cmp b => Sys2Proof.Machine.execCmp b s
  | .ldc b => Sys2Proof.Machine.execLdc b s
  | .unknownOp b => Sys2Proof.Machine.execUnknownOp b s
  | .read b => Sys2Proof.Machine.execRead b s
  | .write b => Sys2Proof.Machine.execWrite b s
  | .append b => Sys2Proof.Machine.execAppend b s
  | .copy b => Sys2Proof.Machine.execCopy b s
  | .verify b => Sys2Proof.Machine.execVerify b s
  | .trim b => Sys2Proof.Machine.execTrim b s
  | .weed b => Sys2Proof.Machine.execWeed b s
  | .hold b => Sys2Proof.Machine.execHold b s
  | .release b => Sys2Proof.Machine.execRelease b s
  | .harvest b => Sys2Proof.Machine.execHarvest b s
  | .ringpos b => Sys2Proof.Machine.execRingpos b s
  | .seal b => Sys2Proof.Machine.execSeal b s
  | .logread b => Sys2Proof.Machine.execLogread b s
  | .checkpt b => Sys2Proof.Machine.execCheckpt b s
  | .ctrinc b => Sys2Proof.Machine.execCtrinc b s
  | .ctrread b => Sys2Proof.Machine.execCtrread b s
  | .timerd b => Sys2Proof.Machine.execTimerd b s
  | .alarm b => Sys2Proof.Machine.execAlarm b s
  | .session b => Sys2Proof.Machine.execSession b s
  | .challengePauseEnd b => Sys2Proof.Machine.execChallengePauseEnd b s
  | .guard b => Sys2Proof.Machine.execGuard b s
  | .gateTimeout => Sys2Proof.Machine.execGateTimeout s
  | .lock b => Sys2Proof.Machine.execLock b s
  | .unlock b => Sys2Proof.Machine.execUnlock b s
  | .ferase b => Sys2Proof.Machine.execFerase b s
  | .feraseEraseDone seconds => Sys2Proof.Machine.execFeraseEraseDone seconds s
  | .health b => Sys2Proof.Machine.execHealth b s
  | .quiesce b => Sys2Proof.Machine.execQuiesce b s
  | .quiesceDeadline => Sys2Proof.Machine.execQuiesceDeadline s
  | .apply b => Sys2Proof.Machine.execApply b s
  | .resume b => Sys2Proof.Machine.execResume b s
  | .stc b => Sys2Proof.Machine.execStc b s
  | .patch b => Sys2Proof.Machine.execPatch b s
  | .haltctl b => Sys2Proof.Machine.execHaltctl b s
  | .ledgerWaitExpiry b => Sys2Proof.Machine.execLedgerWaitExpiry b s
  | .dieOperationDone id r => Sys2Proof.Machine.execDieOperationDone id r s
  | .rootWrite => Sys2Proof.Machine.execRootWrite s
  | .autoCheckpoint => Sys2Proof.Machine.execAutoCheckpoint s
  | .checkpointSigned => Sys2Proof.Machine.execCheckpointSigned s
  | .counterJournalSwitch mirrorB => Sys2Proof.Machine.execCounterJournalSwitch mirrorB s
  | .logArchgo => Sys2Proof.Machine.execLogArchgo s
  | .logCertdatRead => Sys2Proof.Machine.execLogCertdatRead s
  | .ctrVallRead => Sys2Proof.Machine.execCtrVallRead s
  | .ringTaillRead => Sys2Proof.Machine.execRingTaillRead s
  | .dramScrub badPages => Sys2Proof.Machine.execDramScrub badPages s
  | .memoryCorrected mem addr recurs => Sys2Proof.Machine.execMemoryCorrected mem addr recurs s
  | .memoryUncorrectable mem addr => Sys2Proof.Machine.execMemoryUncorrectable mem addr s
  | .memFlipctlArm => Sys2Proof.Machine.execMemFlipctlArm s
  | .codPeakClr => Sys2Proof.Machine.execCodPeakClr s
  | .lnkClr => Sys2Proof.Machine.execLnkClr s
  | .capTestStart => Sys2Proof.Machine.execCapTestStart s
  | .hupCaptestGo => Sys2Proof.Machine.execHupCaptestGo s
  | .capTestEnd deltaMv => Sys2Proof.Machine.execCapTestEnd deltaMv s
  | .hupEuRead => Sys2Proof.Machine.execHupEuRead s
  | .detFall yieldMj4 vinBack => Sys2Proof.Machine.execDetFall yieldMj4 vinBack s
  | .vinCollapse yieldMj4 vinBack => Sys2Proof.Machine.execVinCollapse yieldMj4 vinBack s
  | .pmuRestartTimeout => Sys2Proof.Machine.execPmuRestartTimeout s
  | .btnPress ms => Sys2Proof.Machine.execBtnPress ms s
  | .hupRelDone => Sys2Proof.Machine.execHupRelDone s
  | .releaseTimeout => Sys2Proof.Machine.execReleaseTimeout s
  | .pmuReqGo v => Sys2Proof.Machine.execPmuReqGo v s
  | .pmuAnswer replies => Sys2Proof.Machine.execPmuAnswer replies s
  | .pmuDelayEnd replies => Sys2Proof.Machine.execPmuDelayEnd replies s
  | .domainWakeDone domain => Sys2Proof.Machine.execDomainWakeDone domain s
  | .railPgoodTimeout unit => Sys2Proof.Machine.execRailPgoodTimeout unit s
  | .pllReady => Sys2Proof.Machine.execPllReady s
  | .pllReadyTimeout => Sys2Proof.Machine.execPllReadyTimeout s
  | .clockLost c => Sys2Proof.Machine.execClockLost c s
  | .rcOscFail crystalToo => Sys2Proof.Machine.execRcOscFail crystalToo s
  | .hrefLost => Sys2Proof.Machine.execHrefLost s
  | .vinRise x => Sys2Proof.Machine.execVinRise x s
  | .vaonFail => Sys2Proof.Machine.execVaonFail s
  | .brownOut => Sys2Proof.Machine.execBrownOut s
  | .hrstFall => Sys2Proof.Machine.execHrstFall s
  | .hrstWarmSource => Sys2Proof.Machine.execHrstWarmSource s
  | .hrstColdSource => Sys2Proof.Machine.execHrstColdSource s
  | .hrstRelease => Sys2Proof.Machine.execHrstRelease s
  | .mrstFall => Sys2Proof.Machine.execMrstFall s
  | .mrstRise => Sys2Proof.Machine.execMrstRise s
  | .aonWatchdog => Sys2Proof.Machine.execAonWatchdog s
  | .coreWatchdog => Sys2Proof.Machine.execCoreWatchdog s
  | .firmwareResetRequest => Sys2Proof.Machine.execFirmwareResetRequest s
  | .resetDeferralEnd us => Sys2Proof.Machine.execResetDeferralEnd us s
  | .deferralFenceTimeout dies => Sys2Proof.Machine.execDeferralFenceTimeout dies s
  | .resetExit x => Sys2Proof.Machine.execResetExit x s
  | .recoveryComplete ms orphansK => Sys2Proof.Machine.execRecoveryComplete ms orphansK s
  | .rstBlkGo v => Sys2Proof.Machine.execRstBlkGo v s
  | .rstBkcmdWrite => Sys2Proof.Machine.execRstBkcmdWrite s
  | .rstBklRead => Sys2Proof.Machine.execRstBklRead s
  | .fltAck block bits => Sys2Proof.Machine.execFltAck block bits s
  | .fltForce block bits => Sys2Proof.Machine.execFltForce block bits s
  | .factoryModeEntry => Sys2Proof.Machine.execFactoryModeEntry s
  | .selftestSlice r => Sys2Proof.Machine.execSelftestSlice r s
  | .thermalThrottle a b => Sys2Proof.Machine.execThermalThrottle a b s
  | .throttleEnd => Sys2Proof.Machine.execThrottleEnd s
  | .thermalShutdown a b => Sys2Proof.Machine.execThermalShutdown a b s
  | .sensorDisagree a b => Sys2Proof.Machine.execSensorDisagree a b s
  | .engineParityError => Sys2Proof.Machine.execEngineParityError s
  | .sequencerParityError channel => Sys2Proof.Machine.execSequencerParityError channel s
  | .quaySubInstruction x => Sys2Proof.Machine.execQuaySubInstruction x s
  | .quaySubAnswer a => Sys2Proof.Machine.execQuaySubAnswer a s
  | .quayTimeFrame time period quality => Sys2Proof.Machine.execQuayTimeFrame time period quality s
  | .tideioEdge offsetNs => Sys2Proof.Machine.execTideioEdge offsetNs s
  | .tideStrobeLost => Sys2Proof.Machine.execTideStrobeLost s
  | .quayRemovalFrame yieldMj4 vinBack => Sys2Proof.Machine.execQuayRemovalFrame yieldMj4 vinBack s
  | .quayWarmResetFrame => Sys2Proof.Machine.execQuayWarmResetFrame s
  | .quayPortTrainingEnd port up => Sys2Proof.Machine.execQuayPortTrainingEnd port up s
  | .quayReplayTimeout port => Sys2Proof.Machine.execQuayReplayTimeout port s
  | .memberManifestReport port r => Sys2Proof.Machine.execMemberManifestReport port r s
  | .memberJoinTimeout => Sys2Proof.Machine.execMemberJoinTimeout s
  | .memberReadyTimeout => Sys2Proof.Machine.execMemberReadyTimeout s
  | .memberSilent position => Sys2Proof.Machine.execMemberSilent position s
  | .masterSilent => Sys2Proof.Machine.execMasterSilent s
  | .registerWrite addr v => Sys2Proof.Machine.execRegisterWrite addr v s
  | .malformedParcel hdr payload crc => Sys2Proof.Machine.execMalformedParcel hdr payload crc s
  | .unknownOrderedSet arrival => Sys2Proof.Machine.execUnknownOrderedSet arrival s
  | .hrefStable => Sys2Proof.Machine.execHrefStable s
  | .quayCartridgeEventFrame e => Sys2Proof.Machine.execQuayCartridgeEventFrame e s
  | .tapInstruction op => Sys2Proof.Machine.execTapInstruction op s

end Sys2Proof.Machine
end

