-- ==== Sys2Proof/Safety.lean ====
section
/-! DEFINITION. What counts as a sound state and a safe run, and the conditions that the statements name. -/

namespace Sys2Proof.Machine

/-! ### Sound states and safe runs -/

/-- Program pool and scratch are in canonical form: addresses rise and no zero byte is listed. -/
def State.memWf (s : State) : Bool := Memory.wf s.pool && Memory.wf s.scratch

/-- A run takes the commands from the front of the queue, one a step, and never stops: no fault, no refusal. -/
def runs : Nat → State → Option State
  | 0, s => some s
  | n + 1, s => match step s with
    | .next t => runs n t
    | _ => none

/-! ### The guarantee (R468, R471) -/

/-- Conditions 2 to 7 of R468, as far as one controller shows them: admitted reservations, a healthy bank, a cool junction, at most
one fenced channel in a die group and one fenced port, no HALT. Conditions 1 and 4 are the host's. -/
def State.guaranteed (s : State) : Bool :=
  s.hup.ledger == .covered && 1600 ≤ s.hup.usable &&
    s.hup.commits ≤ 8 && s.hup.seals ≤ 16 &&
    s.mon.tempA.toInt < 1150 && s.mon.tempB.toInt < 1150 &&
    ((List.range 8).all fun g => !(s.unitFenced (.channel (Fin.ofNat 16 (2 * g))) &&
      s.unitFenced (.channel (Fin.ofNat 16 (2 * g + 1))))) &&
    ((List.finRange 3).filter fun p => s.unitFenced (.port p)).length ≤ 1 && !s.flt.halted

/-- Tides that a guaranteed-rate write of `w` bytes at `rt` bytes a tide takes at most, from its first data parcel (Table COMB-6). -/
def writeTides (w rt : Nat) : Nat := (w + rt - 1) / rt + 1

/-- The same for a read, from its admission; `extra` is 1 with a soft decode, 2 with a rebuild. -/
def readTides (w rt extra : Nat) : Nat := (w + rt - 1) / rt + 2 + extra

/-- Tides that best-effort work takes at most: the die time queued ahead and its own, over what a group leaves it (Table COMB-6). -/
def bestEffortTides (q wd groupCap reservedPct : Nat) : Nat :=
  let left := (83 - reservedPct) * groupCap
  (100 * (q + wd) + left - 1) / left

/-! ### Narrow mode -/

/-- The card answers this token and has not executed it before; the agreed pair holds. -/
abbrev State.newToken (s : State) (t : Token) : Prop := s.hostLink = true ∧ s.nar.last ≠ some t ∧ s.lnk.agreed.ok = true

/-- What a new token of this opcode meets admits it (Table NARROW-5). -/
abbrev State.admits (s : State) (t : Token) : Prop := s.newToken t ∧ s.turnsAway t.op.toNat = none

/-- What executing a token leaves alone: only narrow mode's own state moves, and the reporting record of the parcel that
GET fetched before. -/
abbrev State.narrowOnly (s u : State) : Prop := u = { s with nar := u.nar, berths := s.dropFetched.berths }

/-! ### Lane mode -/

/-- A parcel of a type arrives good: lane mode, every check of R121 holds. -/
abbrev State.takes (s : State) (typ : Nat) (p : Parcel) : Prop :=
  s.laneOn = true ∧ s.lnk.agreed.ok = true ∧
  s.verdict (hcrcOk 10 typ p.hdr) (pcrcOk 10 typ p) 10 typ p = .good

/-- The host's side of a header says nothing: no acknowledgement, no NAK, no credit. -/
def plainHdr (h : Hdr) : Bool := !h.ackv && !h.nak && h.cret == 0

/-! ### Instructions -/

/-- The turn of berth `b` finds instruction `q`, and nothing of Table COMB-2 that comes before its own rules stops it: the tide
has the turn (R44, R47), no HALT, no busy cause, its condition holds, its words read whole, and a service instruction is in a
service berth. What the instruction itself does begins at `s.takeTurn b q`, which is `s` with the turn taken from the tide. -/
abbrev State.mayRun (s : State) (b : BerthId) (q : QInstr) : Prop :=
  s.turnOf b = some q ∧ s.flt.halted = false ∧ s.refusesBusy b = false ∧ q.cc ≤ 10 ∧
  (s.berth b).cond q.cc = true ∧
  ((s.berth b).kind = true →
    (s.takeTurn b q).memRead 1 ((s.berth b).poolStart + (s.berth b).pc.toNat) q.words = (false, s.takeTurn b q) ∧
    extCount q.word ≤ q.xc) ∧
  (serviceOp q.op = true → b.val < 8)

/-- A resident berth's turn. -/
abbrev State.mayRunResident (s : State) (b : BerthId) (q : QInstr) : Prop := s.mayRun b q ∧ (s.berth b).kind = true

/-- A region's stored entry, and of a ring its head and tail, hold as pairs (R28). -/
abbrev State.entryOk (s : State) (r : Nat) : Prop :=
  (s.region r).ok = true ∧ (s.rtype r = .ring → (s.ring r).ok = true)

/-- Nothing of rows 3 to 7 of Table COMB-2 refuses an access, its gate is open, and the region's stored pairs hold. -/
abbrev State.opensFor (s : State) (a : Ask) : Prop :=
  s.gated a.region = false ∧ s.entryOk a.region ∧ s.refusal a = none

/-- A write to a run of blocks is the newest admission of its units: every version there has a lower number (R24). -/
abbrev State.newest (s : State) (r start len : Nat) : Prop :=
  ∀ i, i < len → ∀ v ∈ (s.unitOf (s.blockKey r (start + i))).fresh, v.stamp < s.ftl.stamp

/-- The pages of a piece are there to be given (R311, R325). -/
abbrev State.pagesFor (s : State) (b : BerthId) (r start len : Nat) : Prop :=
  let ks := ((List.range len).map fun i => s.blockKey r (start + i)).dedup
  let l := s.target r ks.length
  (s.givePlaces l.cls l (s.codeOf r) ks.length (s.berth b).resv.isNone).isSome = true

/-- The single controller of a cartridge without a cascade map, which holds every block. -/
abbrev State.single (s : State) : Prop := s.quy.map.val = 0 ∧ s.quy.lost = 0 ∧ s.position = 0

/-- Every block of a run is whole in the write share or unmapped: nothing of it is to be read from a die. -/
abbrev State.inShare (s : State) (r start len : Nat) : Prop :=
  ∀ i, i < len → s.blockOnDie r (start + i) = false ∧ s.blockLost r (start + i) = false ∧
    (s.unitData (s.blockKey r (start + i))).length = 4096

/-- Every block of a run lies on this controller. -/
abbrev State.isLocal (s : State) (r start len : Nat) : Prop := ∀ i, i < len → s.placeOf r (start + i) = s.position

/-- The contents of a run of blocks. -/
def State.runData (s : State) (r start len : Nat) : List Byte := (List.range len).flatMap fun i => s.blockData r (start + i)

/-- The bytes that an instruction takes are there: in its scratch, which it may read, or in the parcels that have come for
it, END on none but the last of them (R155, R175). -/
abbrev State.dataFor (s : State) (b : BerthId) (q : QInstr) (scratch : Option Nat) (d : List Byte) : Prop :=
  match scratch with
  | some off => (s.scratchPlace b off d.length).1 = .ok ∧
      s.scratchRead (s.scratchPlace b off d.length).2 d.length = (some d, s)
  | none => ((s.berth b).myChunks q).flatMap (·.bytes) = d ∧ ((s.berth b).myChunks q).length ≠ 0 ∧
      ∀ k ∈ ((s.berth b).myChunks q).dropLast, k.last = false

/-- Bytes cut into payloads of at most `pay`. -/
def splitData : Nat → Nat → List Byte → List (List Byte)
  | 0, _, _ => []
  | n + 1, pay, d => if d.isEmpty then [] else d.take pay :: splitData n pay (d.drop pay)

/-- The data parcels of an instruction, the last with END (R162). -/
def State.sendAll (b : BerthId) (tag : W16) : List (List Byte) → State → State
  | [], s => s
  | d :: r, s => State.sendAll b tag r (s.sendUp { berth := BitVec.ofNat 16 b.val, tag := tag, body := .data d r.isEmpty })

/-- A write has landed: the run of region `r` reads the bytes, no other unit has changed, the ledger holds its cost, and
the berth has its result. -/
abbrev State.landed (s u : State) (b : BerthId) (q : QInstr) (r start len : Nat) (d : List Byte) (res : Nat) : Prop :=
  (∀ i, i < len → u.blockData r (start + i) = slice d (i * s.blockSize r) (s.blockSize r)) ∧
  (∀ k, (∀ i, i < len → s.blockKey r (start + i) ≠ k) → u.unitOf k = s.unitOf k) ∧
  u.hup.d = s.hup.d + dataCost (len * s.blockSize r) ∧
  (u.berth b).lastStat = .ok ∧ (u.berth b).e = false ∧ (u.berth b).cur = none ∧
  (u.berth b).reg q.dst = BitVec.ofNat 64 res ∧
  (∀ b', b' ≠ b → u.berth b' = s.berth b') ∧ u.pool = s.pool ∧ u.scratch = s.scratch

/-- The berth waits for `n` things to be durable, with a result. -/
abbrev State.waitsDurable (u : State) (b : BerthId) (n : Nat) (res : Option W64) : Prop :=
  (u.berth b).state = .waiting ∧
  ∃ c, (u.berth b).cur = some c ∧ c.phase = .durable ∧ c.open_ = n ∧ c.result = res ∧ c.status = .ok

/-- A berth goes on after this instruction: no HALT, no STOP waits for it (R151), and a resident one has a word to go on to and is not
held. -/
abbrev State.goesOn (s : State) (b : BerthId) (q : QInstr) : Prop :=
  q.op ≠ 1 ∧ (s.berth b).stopDue = false ∧ ((s.berth b).kind = true →
    (s.berth b).pc.toNat + q.words < (s.berth b).poolWords ∧ s.quiesces b = false)

/-- The session of the berth holds the colours of a whole run. -/
abbrev State.allowed (s : State) (b : BerthId) (r start len : Nat) : Prop :=
  (s.partsOf (s.berth b) r start len).all (fun p => p.ok) = true

/-- The flash domains serve work, and no thermal shutdown stands. -/
abbrev State.flashReady (s : State) : Prop := s.mon.shut = false ∧ s.need commitDomains false = .ready

abbrev State.recordsReady (s : State) : Prop := s.mon.shut = false ∧ s.need recordDomains true = .ready

/-- A hold that stands, and its colour is in the session. -/
abbrev State.holdsFor (s : State) (b : BerthId) (id : Nat) (h : Hold) : Prop :=
  s.findHold id = some h ∧ (s.berth b).has (s.holdColour h) = true

end Sys2Proof.Machine
end

