-- ==== Sys2Proof/Certificates/Slice0/Obligations.lean ====
section
/-! DEFINITION. The statements for the provers. `exec c s = .next (s.close u)` says that the command's own effect is `u`,
after which the waits that it ends end (Machine/Resume.lean). -/

open Sys2Proof Sys2Proof.Machine

/-! ### The block as a whole -/

/-- A step takes the command at the front of the queue and runs it on the state with the queue's rest (log 1). -/
def Obligations.StepRunsFront : Prop :=
  ∀ (c : Instr) (s : State), step { s with pending := c :: s.pending } = exec c s

/-- No command ends in a fault or a refusal: in every state every command answers a next state, and leaves the queue of
waiting commands alone. -/
def Obligations.EveryCommandCompletes : Prop :=
  ∀ (c : Instr) (s : State), ∃ t : State, exec c s = .next t ∧ t.pending = s.pending

/-- Every step keeps the program pool and scratch in canonical form. -/
def Obligations.StepKeepsMemory : Prop :=
  ∀ s t : State, s.memWf = true → step s = .next t → t.memWf = true

/-- A free value is never drawn twice: the counter that numbers them never falls. -/
def Obligations.FreeValuesFresh : Prop := ∀ s t : State, step s = .next t → s.freeCtr ≤ t.freeCtr

/-! ### Narrow mode (03) -/

/-- MANIFEST (R96, R97): result 86; the block carries L = 82, the fields, the complement of L and a CRC-16 over all before it.
STATUS (Table NARROW-4): OK with the ready level, busy, its lowest cause, TRAINFAIL, the queue and the link. -/
def Obligations.Queries : Prop :=
  (∀ (s : State) (tag : Byte), s.admits ⟨1, tag, 0⟩ → s.hup.pairsOk = true →
     ∃ (u : State) (m : List Byte), exec (.manifest tag 0) s = .next (s.close u) ∧ u.nar.response = some ⟨.ok, tag, 86⟩ ∧
       u.nar.block = some (dataBlock m) ∧ m.length = 86 ∧ m.take 1 = [82] ∧ (m.drop 83).take 1 = [~~~82] ∧
       m.drop 84 = leBytes 2 (crc16 (m.take 84)).toNat ∧ (m.drop 1).take 82 = u.manifestFields) ∧
  (∀ (s : State) (tag : Byte), s.newToken ⟨4, tag, 0⟩ →
     ∃ (u : State) (r : W32), exec (.status tag 0) s = .next (s.close u) ∧ u.nar.response = some ⟨.ok, tag, r⟩ ∧
       u.nar.block = none ∧ s.narrowOnly u ∧ bits r 0 2 = s.readyLevel ∧ bit r 2 = s.busy ∧ bits r 3 4 = s.busyCode ∧
       bit r 7 = s.lnk.trainFail ∧ bits r 8 8 = min 255 u.nar.up.length ∧
       bits r 16 2 = (match s.lnk.mode with | .narrow => 0 | .training => 1 | .lane => 2 | LinkMode.doze => 3) ∧
       bits r 18 14 = 0)

/-- CTL_RD of an aligned address returns the register's value (R84); an unaligned address, or a reserved bit, BAD_FIELD. -/
def Obligations.CtlRdCompletes : Prop :=
  (∀ (s : State) (tag : Byte) (a : W16), s.newToken ⟨5, tag, a.setWidth 32⟩ → bits a 0 2 = 0 →
    ∃ u : State, exec (.ctlRd tag (a.setWidth 32)) s = .next (s.close u) ∧
      u.nar.response = some ⟨.ok, tag, ((s.takeToken ⟨5, tag, a.setWidth 32⟩).ctlRead none a.toNat).1⟩ ∧
      (0xC000 ≤ a.toNat → u.nar.response = some ⟨.ok, tag, 0⟩)) ∧
  (∀ (s : State) (tag : Byte) (arg : W32), s.newToken ⟨5, tag, arg⟩ → ctlArgOk arg = false →
    ∃ u : State, exec (.ctlRd tag arg) s = .next (s.close u) ∧ u.nar.response = some ⟨.badField, tag, 0⟩ ∧ s.narrowOnly u)

/-- GET (R83): the parcel in front stays queued and goes out as a block; with none the length is 0. -/
def Obligations.GetCompletes : Prop :=
  ∀ (s : State) (tag : Byte), s.admits ⟨8, tag, 0⟩ →
    ∃ u : State, exec (.get tag 0) s = .next (s.close u) ∧ u.nar.up = s.dropFetched.nar.up ∧
      (u.nar.up = [] → u.nar.response = some ⟨.ok, tag, 0⟩ ∧ u.nar.block = none ∧ u.nar.fetched = false) ∧
      (∀ p r, u.nar.up = p :: r →
        ∃ d, u.nar.response = some ⟨.ok, tag, BitVec.ofNat 32 d.length⟩ ∧ u.nar.block = some (dataBlock d) ∧ u.nar.fetched = true ∧
          d.length = 20 + p.body.bytes.length ∧ (d.drop 16).take p.body.bytes.length = p.body.bytes)

/-- How a parcel leaves the card: in narrow mode the next token that is no repeat takes the fetched parcel out of the queue
(R83); in lane mode the acknowledgement of the oldest parcel takes it out of the replay buffer and restarts the count of its
replays (R120, R123). A counted completion is reported then: RSEQ of its berth advances (R164). -/
def Obligations.ParcelsReported : Prop :=
  (∀ (s : State) (p : UpParcel) (r : List UpParcel) (c : Completion), s.nar.fetched = true → s.nar.up = p :: r →
      p.body = .completion c → c.counted = true → c.cseq = (s.berth (berthOf p.berth.toNat)).rseq + 1 →
      s.dropFetched.nar.up = r ∧ s.dropFetched.nar.fetched = false ∧
      (s.dropFetched.berth (berthOf p.berth.toNat)).rseq = (s.berth (berthOf p.berth.toNat)).rseq + 1) ∧
  (∀ (s : State) (q : BitVec 12) (p : UpParcel) (r : List (BitVec 12 × UpParcel)), s.lnk.replayBuf = (q, p) :: r →
      q = s.lnk.txAcked + 1 → s.lnk.txNext ≠ q → (r.all fun x => !seqUpTo x.1 q) = true →
      (s.takeAck q).lnk.replayBuf = r ∧ (s.takeAck q).lnk.txAcked = q ∧ (s.takeAck q).lnk.headReplays = 0 ∧
      ∀ c, p.body = .completion c → c.counted = true → c.cseq = (s.berth (berthOf p.berth.toNat)).rseq + 1 →
        ((s.takeAck q).berth (berthOf p.berth.toNat)).rseq = c.cseq)

/-- A repeat is not executed: the stored response and block stay, and nothing but narrow mode's own state moves (R77). -/
def Obligations.RepeatNotExecuted : Prop :=
  ∀ (s : State) (t : Token) (ok : Bool) (body : State → State), s.nar.last = some t →
    ∃ n, s.token t.op t.tag t.arg ok body = { s with nar := n } ∧ n.up = s.nar.up ∧ n.fetched = s.nar.fetched ∧
      n.block = s.nar.block ∧ n.last = s.nar.last ∧
      (s.nar.dataResponse = none → n.response = s.nar.response)

/-- PROPOSE (R101 to R105): the verdict and the parameters that stand; an acceptance stores the complement pair. The
counter-proposal keeps to what is offered: its lanes are usable and asked for, it has a lane each way or none at all,
and its credit depth lies between 4 and the largest (R101). A proposal equal to the card's own counter-proposal is
accepted while its capabilities stay the same (R102). -/
def Obligations.Proposals : Prop :=
  (∀ (s : State) (tag : Byte) (arg : W32), s.admits ⟨2, tag, arg⟩ → proposalOk arg = true → s.nar.shut = false →
     let s' := s.takeToken ⟨2, tag, arg⟩
     ∃ u : State, exec (.propose tag arg) s = .next (s.close u) ∧
       match s'.counterOf (arg.setWidth 26) with
       | none => u.nar.response = some ⟨.ok, tag, s.lnk.agreed.val.setWidth 32 ||| 0x8000000⟩ ∧ u.lnk = s.lnk ∧
           u.nar.counters = s.nar.counters
       | some c =>
         if s'.resvs.isEmpty = false ∧ s'.limitsHold c s'.resvs = false then
           u.nar.response = some ⟨.overReserved, tag, s.lnk.agreed.val.setWidth 32 ||| 0x8000000⟩ ∧ u.lnk = s.lnk ∧
           u.nar.counters = s.nar.counters
         else if c = arg.setWidth 26 then
           u.nar.response = some ⟨.ok, tag, c.setWidth 32⟩ ∧ u.lnk.agreed = Pair.mk' c ∧ u.nar.counters = 0 ∧
           (paramEn c = 0 → u.lnk.pay = paramPay c)
         else if 3 ≤ s.nar.counters then
           u.nar.response = some ⟨.ok, tag, s.lnk.agreed.val.setWidth 32 ||| 0x8000000⟩ ∧ u.nar.shut = true ∧
           u.lnk = { s.lnk with accepted := false }
         else u.nar.response = some ⟨.ok, tag, c.setWidth 32 ||| 0x4000000⟩ ∧ u.lnk = s.lnk ∧
           u.nar.counters = s.nar.counters + 1) ∧
  (∀ (s : State) (tag : Byte) (arg : W32), s.admits ⟨2, tag, arg⟩ → proposalOk arg = true → s.nar.shut = true →
     ∃ u : State, exec (.propose tag arg) s = .next (s.close u) ∧ s.narrowOnly u ∧
       u.nar.response = some ⟨.ok, tag, s.lnk.agreed.val.setWidth 32 ||| 0x8000000⟩) ∧
  ((∀ (s : State) (p c : BitVec 26), s.counterOf p = some c →
       paramEn c &&& ~~~(paramEn p &&& s.lnk.usable) = 0 ∧ bits c 14 2 = bits p 14 2 ∧ paramTide c = paramTide p ∧
       (paramEn p ≠ 0 → paramEn c &&& paramDir c ≠ 0 ∧ paramEn c &&& ~~~(paramDir c) ≠ 0 ∧
         4 ≤ paramCredit c ∧ paramCredit c ≤ maxCredit) ∧
       (paramEn p = 0 → paramDir c = 0 ∧ paramRate c = 0 ∧ paramCredit c = 0 ∧ paramEn c = 0)) ∧
   (∀ (s : State) (p c : BitVec 26), bits p 12 2 ≠ 3 → s.counterOf p = some c → s.counterOf c = some c))

/-- LANES (R105, R106): the agreed set trains, the agreed payload maximum is in force, and the count of R103 restarts. -/
def Obligations.LanesCompletes : Prop :=
  ∀ (s : State) (tag : Byte), s.admits ⟨3, tag, 0⟩ →
    ∃ u : State, exec (.lanes tag 0) s = .next (s.close u) ∧ u.nar.response = some ⟨.ok, tag, 0⟩ ∧ u.lnk.mode = .training ∧
      u.lnk.pay = paramPay s.lnk.agreed.val ∧ u.lnk.agreed = s.lnk.agreed ∧ u.lnk.accepted = false ∧ u.nar.counters = 0 ∧
      u.lnk.fast = s.lnk.trained s.lnk.agreed.val

/-- CTL_WR and PUT ask for their block (R81, R89); a PUT whose payload is over the maximum takes none (R81). A block that
ends a CTL_WR writes the register and answers with the status of the write; one whose CRC fails is discarded with BLOCK_CRC
(R84, R89). -/
def Obligations.BlocksFromHost : Prop :=
  (∀ (s : State) (tag : Byte) (arg : W32), s.admits ⟨6, tag, arg⟩ → ctlArgOk arg = true →
    ∃ u : State, exec (.ctlWr tag arg) s = .next (s.close u) ∧ u.nar.response = some ⟨.ok, tag, 0⟩ ∧
      u.nar.awaiting = some (.ctlWr (arg.setWidth 16)) ∧ s.narrowOnly u) ∧
  (∀ (s : State) (tag : Byte) (arg : W32), s.admits ⟨7, tag, arg⟩ → bits arg 13 19 = 0 → 20 ≤ bits arg 0 13 →
    ∃ u : State, exec (.put tag arg) s = .next (s.close u) ∧ s.narrowOnly u ∧
      if s.lnk.pay + 20 < bits arg 0 13 then
        u.nar.response = some ⟨.oversize, tag, 0⟩ ∧ u.nar.awaiting = none ∧ u.nar.oversize = satInc s.nar.oversize
      else u.nar.response = some ⟨.ok, tag, 0⟩ ∧ u.nar.awaiting = some (.put (bits arg 0 13))) ∧
  (∀ (s : State) (d : List Byte) (crc : W16) (a : W16) (t : Token), s.hostLink = true → s.nar.awaiting = some (.ctlWr a) →
      s.nar.last = some t → d.length = 4 →
      (crc16 d = crc →
        ∃ u : State, exec (.hostDataBlock d crc) s = .next (s.close u) ∧
          u = (s.ctlWrite 0 a.toNat (BitVec.ofNat 32 (ofLe d))).2.answerBlock
            (s.ctlWrite 0 a.toNat (BitVec.ofNat 32 (ofLe d))).1 false) ∧
      (crc16 d ≠ crc →
        ∃ u : State, exec (.hostDataBlock d crc) s = .next u ∧ u = { s with nar := u.nar } ∧ u.nar.awaiting = none ∧
          u.nar.dataResponse = some ⟨.blockCrc, t.tag, 0⟩))

/-- A PUT block is checked in the order of R121 (R496): a failed HCRC or CRC-32 gives BLOCK_CRC, a malformed parcel
BAD_FIELD, each counted, and neither reaches a berth; a good instruction push does. -/
def Obligations.PutBlockChecked : Prop :=
  ∀ (s : State) (d : List Byte),
    let x := parseHdr (d.take 16)
    let p : Parcel := ⟨x.2.2, slice d 16 (d.length - 20), BitVec.ofNat 32 (ofLe (d.drop (d.length - 4)))⟩
    (hcrcOk x.1 x.2.1 x.2.2 = false →
      s.checkPut d = (.blockCrc, { s with lnk := { s.lnk with hcrc := satInc s.lnk.hcrc } })) ∧
    (hcrcOk x.1 x.2.1 x.2.2 = true → (formatOk x.1 x.2.1 x.2.2 = false ∨ x.2.2.len.toNat + 20 ≠ d.length) →
      s.checkPut d = (.badField, { s with lnk := { s.lnk with format := satInc s.lnk.format } })) ∧
    (hcrcOk x.1 x.2.1 x.2.2 = true → formatOk x.1 x.2.1 x.2.2 = true → x.2.2.len.toNat + 20 = d.length →
      pcrcOk x.1 x.2.1 p = false →
      s.checkPut d = (.blockCrc, { s with lnk := { s.lnk with pcrc := satInc s.lnk.pcrc } })) ∧
    (hcrcOk x.1 x.2.1 x.2.2 = true → formatOk x.1 x.2.1 x.2.2 = true → x.2.2.len.toNat + 20 = d.length →
      pcrcOk x.1 x.2.1 p = true → x.2.1 = 1 → s.scr.active = false →
      s.checkPut d = (.ok, s.push (berthOf x.2.2.berth.toNat) x.2.2.tag p.payload))

/-- A token with an opcode that Table NARROW-3 does not define: UNKNOWN_OP (R79). A token that fails its CRC is counted and
gets no response (R78). A host that has not begun its block in time loses the command (R90). RESET starts a warm reset. -/
def Obligations.OtherTokensComplete : Prop :=
  (∀ (s : State) (op tag : Byte) (arg : W32), s.newToken ⟨op, tag, arg⟩ → narrowOpcodes.contains op = false →
    ∃ u : State, exec (.unknownOpcodeToken op tag arg) s = .next (s.close u) ∧ u.nar.response = some ⟨.unknownOp, tag, 0⟩ ∧
      s.narrowOnly u) ∧
  (∀ s : State, s.hostLink = true →
    exec .narrowTokenBad s = .next { s with nar := { s.nar with tokCrc := satInc s.nar.tokCrc } }) ∧
  (∀ (s : State) (a : Awaited), s.hostLink = true → s.nar.awaiting = some a →
    exec .narrowBlockTimeout s =
      .next { s with nar := { s.nar with awaiting := none, timeout := satInc s.nar.timeout } }) ∧
  (∀ (s : State) (tag : Byte), s.newToken ⟨9, tag, 1⟩ → s.rst.phase = .running → s.hup.removing = false →
    ∃ u : State, exec (.reset tag 1) s = .next (s.close u) ∧ u.nar.response = some ⟨.ok, tag, 0⟩ ∧ u.rst.phase = .deferring ∧
      bit u.rst.cause 8 = true ∧ u.rst.widest = .warm)

/-- Table NARROW-5: what a halted card, a link outside narrow mode and a busy card turn away, with their statuses; MANIFEST,
STATUS, CTL_RD and RESET are always taken. -/
def Obligations.CommandsByState : Prop :=
  ∀ (s : State) (op : Nat), 1 ≤ op → op ≤ 9 →
    (op = 1 ∨ op = 4 ∨ op = 5 ∨ op = 9 → s.turnsAway op = none) ∧
    (s.flt.halted = true → (op = 2 ∨ op = 3 ∨ op = 6 ∨ op = 7) → s.turnsAway op = some .halted) ∧
    (s.flt.halted = true → s.lnk.mode = .narrow → op = 8 → s.turnsAway op = none) ∧
    (s.flt.halted = false → (s.lnk.mode = .lane ∨ s.lnk.mode = LinkMode.doze) → (op = 2 ∨ op = 3 ∨ op = 7 ∨ op = 8) →
      s.turnsAway op = some .wrongState) ∧
    (s.flt.halted = false → s.lnk.mode = .narrow → s.busy = false →
      (op = 2 ∨ op = 6 ∨ op = 7 ∨ op = 8 ∨ (op = 3 ∧ s.lnk.accepted = true) → s.turnsAway op = none) ∧
      (op = 3 → s.lnk.accepted = false → s.turnsAway op = some .wrongState)) ∧
    (s.flt.halted = false → s.lnk.mode = .narrow → s.busy = true →
      (op = 6 → s.turnsAway op = some .busy) ∧ (op = 8 → s.turnsAway op = none) ∧
      (op = 2 → s.turnsAway op = if s.onlyCauses [4, 6, 7] then none else some .busy) ∧
      (op = 3 → s.turnsAway op = if s.lnk.accepted = false then some .wrongState
        else if s.onlyCauses [4, 6, 7] then none else some .busy) ∧
      (op = 7 → s.turnsAway op = if s.onlyCauses [6, 7] ∧ s.scr.active = true then none else some .busy))

/-! ### Lane mode (04) -/

/-- Training ends (R106, R112, R120, R126). With no agreed lane failed: lane mode with the agreed lanes and directions, whose
coefficients are stored. The host has full credits; the card has full credits less those of the parcels that are outstanding
still (R123). After a full bring-up both sequence numbers start from 0 and the replay buffer is empty, after a fast retrain they
go on; then the queued parcels leave while credits last, in order. With a failed lane: narrow mode, TRAINFAIL is set, and the
failed lanes leave the usable mask. -/
def Obligations.TrainingEnds : Prop :=
  (∀ (s : State) (failed : BitVec 6), s.alive = true → s.isMember = false → s.lnk.mode = .training →
      s.lnk.agreed.ok = true → failed &&& paramEn s.lnk.agreed.val = 0 →
      ∃ u : State, exec (.laneTrainingEnd failed) s = .next (s.close u) ∧ u.lnk.mode = .lane ∧ u.lnk.agreed = s.lnk.agreed ∧
        u.lnk.active = paramEn s.lnk.agreed.val ∧ u.lnk.down = paramEn s.lnk.agreed.val &&& paramDir s.lnk.agreed.val ∧
        u.lnk.trained s.lnk.agreed.val = true ∧ u.lnk.creditDown = s.lnk.depth.toNat ∧
        (let old := if s.lnk.fast then s.lnk.replayBuf else []
         let n := min s.nar.up.length (s.lnk.depth.toNat - old.length)
         let first := if s.lnk.fast then s.lnk.txNext else 0
         u.lnk.creditUp = s.lnk.depth.toNat - old.length - n ∧ u.nar.up = s.nar.up.drop n ∧
         u.lnk.replayBuf.map (·.2) = old.map (·.2) ++ s.nar.up.take n ∧ u.lnk.replayBuf.take old.length = old ∧
         u.lnk.txNext = first + BitVec.ofNat 12 n ∧
         u.lnk.rxLast = (if s.lnk.fast then s.lnk.rxLast else 0xFFF) ∧
         u.lnk.txAcked = (if s.lnk.fast then s.lnk.txAcked else 0xFFF))) ∧
  (∀ (s : State) (failed : BitVec 6), s.alive = true → s.isMember = false → s.lnk.mode = .training →
      s.lnk.agreed.ok = true → failed &&& paramEn s.lnk.agreed.val ≠ 0 →
      ∃ u : State, exec (.laneTrainingEnd failed) s = .next (s.close u) ∧ u.lnk.mode = .narrow ∧ u.lnk.trainFail = true ∧
        u.lnk.usable &&& (failed &&& paramEn s.lnk.agreed.val) = 0 ∧ u.lnk.pay = s.lnk.pay)

/-- Good parcels in lane mode (R121, R126, R127). What a header carries takes effect first. A sequenced parcel is the last in
order then: the push reaches its berth, data its instruction, a time-sync parcel the servo; each is acknowledged with its
sequence number and returns its credit, but data while the write share is full, whose credit is owed. Control, NAK and wake
parcels do what their headers carry. A doze request is accepted, or declined with the lowest reason that holds (R132). -/
def Obligations.ParcelsArrive : Prop :=
  (∀ (s : State) (p : Parcel),
     let s' := ({ s with lnk := { s.lnk with
       sent := [], rxLast := p.hdr.seq.setWidth 12, rxMode := .normal } } : State).takeHeader p.hdr
     let b := berthOf p.hdr.berth.toNat
     (s.takes 1 p → ∃ u : State, exec (.instructionPush p) s = .next (s.close u) ∧
       let v := s'.push b p.hdr.tag p.payload
       u = if v.lnk.mode = .lane then v.ackWith 1 else v) ∧
     (s.takes 2 p → ∃ u : State, exec (.dataParcel p) s = .next (s.close u) ∧
       let v := s'.takeParcelData b p.hdr.tag p.payload p.hdr.last
       (v.lnk.mode ≠ .lane → u = v) ∧
       (v.lnk.mode = .lane → v.shareUsed < v.writeShare → u = v.ackWith 1) ∧
       (v.lnk.mode = .lane → v.writeShare ≤ v.shareUsed → u.lnk.withheld = v.lnk.withheld + 1 ∧
         u.lnk.creditDown = v.lnk.creditDown - 1 ∧ u.lnk.sent = v.lnk.sent ++ [.control v.lnk.rxLast none 0 v.busy] ∧
         u = { v with lnk := u.lnk })) ∧
     (s.takes 5 p → ∃ u : State, exec (.timeSyncParcel p) s = .next (s.close u) ∧
       let v := s'.markerTime (BitVec.ofNat 64 (ofLe (slice p.payload 0 8))) (p.payload.getD 8 0)
       u = if v.lnk.mode = .lane then v.ackWith 1 else v)) ∧
  (∀ (s : State) (p : Parcel),
     let s' := ({ s with lnk := { s.lnk with sent := [] } } : State).takeHeader p.hdr
     (s.takes 6 p → exec (.controlParcel p) s = .next (s.close s')) ∧
     (s.takes 6 p → p.hdr.nak = true → exec (.nakReceived p) s = .next (s.close s')) ∧
     (s.takes 8 p → exec (.wakeParcel p) s = .next (s.close s')) ∧
     (s.takes 7 p → p.payload.getD 0 0 ≠ 1 → exec (.dozeParcel p) s = .next (s.close s')) ∧
     (s.takes 7 p → p.payload.getD 0 0 = 1 →
       ∃ u : State, exec (.dozeParcel p) s = .next (s.close u) ∧ u = { s' with lnk := u.lnk } ∧
         (s'.dozeReason = 0 → u.lnk.dozeAccepted = true ∧ u.lnk.sent = s'.lnk.sent ++ [.doze 2 0 s'.busy] ∧
           u.lnk.dozeDecline = s'.lnk.dozeDecline) ∧
         (s'.dozeReason ≠ 0 → u.lnk.dozeAccepted = false ∧
           u.lnk.sent = s'.lnk.sent ++ [.doze 3 (BitVec.ofNat 8 s'.dozeReason) s'.busy] ∧
           u.lnk.dozeDecline = satInc s'.lnk.dozeDecline)))

/-- What a parcel that fails a check of R121 does (Table LANE-6): the counter, the NAK with its reason and ACKSEQ, and what
the receiver discards afterwards. A malformed or oversize parcel is consumed: what its header carries takes effect, and its
credit returns (R126). No berth is touched but by what a header carries. Then a raw parcel that fails a check, an ordered set
that Table LANE-3 does not name or that comes on the wrong lanes, and a sync with a bad complement. -/
def Obligations.BadParcels : Prop :=
  (∀ (s : State) (v : Verdict) (start typ : Nat) (h : Hdr), v ≠ .good →
     let t := s.turnDown v (startBad start typ) h
     let seq : BitVec 12 := h.seq.setWidth 12
     let consumed := fun (c : State) (ack : BitVec 12) (reason : Byte) =>
       (h.unseq = true → t = (c.takeHeader h).nakWith reason ack 0) ∧
       (h.unseq = false → seq = s.lnk.rxLast + 1 →
         t = ({ c with lnk := { c.lnk with rxLast := seq, rxMode := .normal } }.takeHeader h).nakWith reason seq 1) ∧
       (h.unseq = false → seq ≠ s.lnk.rxLast + 1 → t = c.nakWith reason seq 1)
     (plainHdr h = true ∨ (v ≠ .format ∧ v ≠ .oversize) → t.berths = s.berths ∧ t.nar = s.nar) ∧
     (v = .ignored → t = s) ∧
     (v = .header → t.lnk.hcrc = satInc s.lnk.hcrc ∧ t.lnk.rxMode = .untilRealign ∧
       t.lnk.sent = s.lnk.sent ++ [.control s.lnk.rxLast (some 2) 0 s.busy]) ∧
     (v = .crc → t.lnk.pcrc = satInc s.lnk.pcrc ∧ t.lnk.rxMode = .untilSeq ∧
       t.lnk.sent = s.lnk.sent ++ [.control s.lnk.rxLast (some 1) 0 s.busy]) ∧
     (v = .gap → t.lnk.seqGap = satInc s.lnk.seqGap ∧ t.lnk.rxMode = .untilSeq ∧
       t.lnk.sent = s.lnk.sent ++ [.control s.lnk.rxLast (some 3) 0 s.busy]) ∧
     (v = .noCredit → t.lnk.noCredit = satInc s.lnk.noCredit ∧ t.lnk.rxMode = s.lnk.rxMode ∧
       t.lnk.sent = s.lnk.sent ++ [.control s.lnk.rxLast (some 6) 0 s.busy]) ∧
     (v = .format → consumed { s with lnk := { s.lnk with format := satInc s.lnk.format } }
       (if start = 10 ∧ 1 ≤ typ ∧ typ ≤ 8 then seq else s.lnk.rxLast) 5) ∧
     (v = .oversize → consumed { s with lnk := { s.lnk with oversize := satInc s.lnk.oversize } } seq 4) ∧
     (v = .duplicate → t.lnk = { s.lnk with sent := s.lnk.sent ++ [.control s.lnk.rxLast none 0 s.busy] })) ∧
  ((∀ (s : State) (hdr d : List Byte) (crc : W32), s.laneOn = true → s.lnk.agreed.ok = true →
     let x := parseHdr hdr
     let p : Parcel := ⟨x.2.2, d, crc⟩
     let v := s.verdict (hcrcOk x.1 x.2.1 x.2.2) (pcrcOk x.1 x.2.1 p) x.1 x.2.1 p
     v ≠ .good → exec (.malformedParcel hdr d crc) s =
       .next (s.close ({ s with lnk := { s.lnk with sent := [] } }.turnDown v (startBad x.1 x.2.1) x.2.2))) ∧
   (∀ (s : State) (a : OrderedSet), s.laneOn = true → s.lnk.setOn a = false →
     exec (.unknownOrderedSet a) s = .next { s with lnk := { s.lnk with format := satInc s.lnk.format } }) ∧
   (∀ (s : State) (a : OrderedSet), orderedSets.contains a.symbol0 = false → s.lnk.setOn a = false) ∧
   (∀ (s : State) (n c : Byte), s.laneOn = true → c ≠ ~~~n →
     exec (.syncOrderedSet n c) s = .next (s.close { s with tim := { s.tim with mkLate := satInc s.tim.mkLate } })))

/-- Replay (R123, R124, R125): the oldest parcel and every later one go out again in order, and the count of the oldest's
replays rises, but for a replay after a loop-back slice; after four replays a fast retrain starts, counted in
LNK_RECOV.RETRAIN; the third retrain within a second gives up lane mode. -/
def Obligations.ReplayCompletes : Prop :=
  (∀ s : State, s.laneOn = true → s.lnk.agreed.ok = true → s.lnk.replayBuf ≠ [] →
    s.lnk.headReplays < 4 ∨ s.lnk.sliceLost = true →
    ∃ u : State, exec .replayTimeout s = .next (s.close u) ∧
      u.lnk.sent = (s.lnk.replayBuf.map fun p => UpFrame.parcel p.1 p.2 s.busy) ∧ u.lnk.replayBuf = s.lnk.replayBuf ∧
      u.lnk.headReplays = (if s.lnk.sliceLost then s.lnk.headReplays else s.lnk.headReplays + 1) ∧ u.lnk.sliceLost = false ∧
      u.lnk.replayCount = satNat 16 (s.lnk.replayCount.toNat + s.lnk.replayBuf.length)) ∧
  (∀ s : State, s.laneOn = true → s.lnk.agreed.ok = true → s.lnk.replayBuf ≠ [] → 4 ≤ s.lnk.headReplays →
    s.lnk.sliceLost = false →
    ∃ u : State, exec .replayTimeout s = .next (s.close u) ∧ u.lnk.retrainCount = satInc s.lnk.retrainCount ∧
      if (recentOf s.now s.lnk.retrainAt).length < 2 then u.lnk.mode = .training ∧ u.lnk.fast = true
      else u.lnk.mode = .narrow ∧ u.lnk.trainFail = true)

/-- Doze (R133, R135, R136): electrical idle after an accept; its timeout; the wake pattern and its timeout; a signal on a
down lane, which releases WAKE#, is recorded as wake source 0 and retrains fast. -/
def Obligations.DozeCompletes : Prop :=
  (∀ s : State, s.laneOn = true → s.lnk.agreed.ok = true → s.lnk.dozeAccepted = true →
    exec .electricalIdleSet s = .next (s.close { s with lnk := { s.lnk with
      mode := LinkMode.doze, dozeAccepted := false, sent := [.electricalIdle],
      wakeLow := s.lnk.wakeEn && !s.nar.up.isEmpty } })) ∧
  (∀ s : State, s.laneOn = true →
    exec .dozeAcceptTimeout s = .next { s with lnk := { s.lnk with dozeAccepted := false } }) ∧
  (∀ s : State, s.alive = true → s.isMember = false → s.lnk.mode = LinkMode.doze →
    (∃ u : State, exec .ncmdWakePattern s = .next (s.close u) ∧ u.lnk.armed = true ∧ bit u.pmu.wakeSrc 1 = true) ∧
    exec .ncmdWakeTimeout s = .next { s with lnk := { s.lnk with armed := false } } ∧
    (∃ u : State, exec .signalDetect s = .next (s.close u) ∧ u.lnk.mode = .training ∧ u.lnk.fast = true ∧
      u.lnk.wakeLow = false ∧ bit u.pmu.wakeSrc 0 = true)) ∧
  (∀ s : State, s.alive = true → ∃ u : State, exec .nclkRestart s = .next (s.close u) ∧ bit u.pmu.wakeSrc 2 = true) ∧
  (∀ s : State, s.laneOn = true → s.lnk.rxMode = .untilRealign →
    exec .realignOrderedSet s = .next { s with lnk := { s.lnk with rxMode := .normal } })

/-! ### Time (02) -/

/-- A marker is seen: the card's count advances, and its instant is the counter less the receive latency (R60, R62). The
time of a marker, by TIM_HTGO (R62, R65): with no marker of that number it is counted in TIM_MKREJ.LATE; otherwise it is
accepted and the offset is the instant less the time. Snapshots and the alarm (R57, R206): a read of TIM_NOWL latches
the pair with its complement; arming stores the time; the alarm fires once a boundary at or past its time has come, and
disarms (R59). -/
def Obligations.TimeCommands : Prop :=
  ((∀ s : State, s.alive = true → s.position = 0 → s.lnk.mode = .narrow →
     ∃ u : State, exec .narrowSyncMarker s = .next (u.wakeAll 512) ∧ u.tim.markers = s.tim.markers + 1 ∧
       ∃ m, u.tim.marks = s.tim.marks ++ [m] ∧ m.number = s.tim.markers ∧ m.lane = false ∧
         m.instant = u.tim.counter - Config.rxlatNarrow.setWidth 64) ∧
   (∀ (s : State) (n : Byte), s.laneOn = true →
     ∃ u : State, exec (.syncOrderedSet n (~~~n)) s = .next (s.close u) ∧ u.tim.markers = s.tim.markers + 1 ∧
       ∃ m, u.tim.marks = s.tim.marks ++ [m] ∧ m.number = n ∧ m.lane = true) ∧
   (∀ (s : State) (n : Byte), s.alive = true →
       ∃ u : State, exec (.timHtgo n) s = .next (u.wakeAll 512) ∧ u.tim.htSeq = n ∧
         ((s.tim.marks.find? fun m => m.number == n) = none → u.tim.mkLate = satInc s.tim.mkLate ∧ u.tim.mkAcc = s.tim.mkAcc) ∧
         (∀ m, (s.tim.marks.find? fun m => m.number == n) = some m → m.dropped = false → s.tim.step = none →
           u.tim.mkAcc = satInc s.tim.mkAcc ∧
           u.tim.offset = (m.instant.toNat : Int) - ((s.tim.hth ++ s.tim.htl).toNat : Int)))) ∧
  ((∀ s : State, s.alive = true →
     ∃ u : State, exec .timNowlRead s = .next u ∧ u.tim.snap.ns = Pair.mk' u.tim.counter ∧ u.tim.snap.qual = u.tim.qual) ∧
   (∀ s : State, s.alive = true →
     ∃ u : State, exec .timAlmctlArm s = .next (u.wakeAll 512) ∧ u.tim.alarm = Pair.mk' (s.tim.almh ++ s.tim.alml) ∧
       u.tim.armed = decide ((s.tim.almh ++ s.tim.alml).toNat ≠ 0)) ∧
   (∀ t : Tim, t.reach.alarmDue = (t.armed && t.alarm.ok && decide (t.alarm.val.toNat ≤ t.reach.counter.toNat))) ∧
   (∀ s : State, s.tim.armed = true → s.tim.alarm.ok = true → s.tim.alarmDue = true →
     ∃ u : State, exec .alarmFire s = .next (s.close u) ∧ u.tim.armed = false ∧ u.tim.fired = true ∧ bit u.pmu.wakeSrc 5 = true))

/-- A tide boundary (R37, R39, R41): the counter stands at the boundary, the next one lies one period on, and the tide count
advances. In a reset the counter alone goes on. A pending step is applied at the boundary (R39, R65); the timeouts of Table
TIDE-6 lower the quality once the last used marker is old enough, which comes before the next boundary (R67, R68). -/
def Obligations.Boundaries : Prop :=
  ((∀ (s : State) (m : Measure), s.alive = true →
      ∃ u : State, exec (.tideBoundary m) s = .next (s.close u) ∧ u.tim.tideCount = s.tim.tideCount + 1 ∧ u.tim.opened = true) ∧
    (∀ t : Tim, t.newPeriod = none → t.next.toNat % periodNs t.period = 0 →
      t.reach.counter = t.next ∧ t.reach.next = t.next + BitVec.ofNat 64 (periodNs t.period) ∧
      t.reach.period = t.period) ∧
    (∀ (s : State) (m : Measure), s.alive = false → s.rst.power ≠ .off → s.rst.power ≠ .noClock →
      s.hup.removing = false → exec (.tideBoundary m) s = .next { s with tim := s.tim.reach })) ∧
  ((∀ (s : State) (o : Int), s.tim.step = some o → s.tim.opened = true →
      ∃ u : State, exec .timeStep s = .next (u.wakeAll 512) ∧ u.tim.step = none ∧ u.tim.steps = satInc s.tim.steps ∧
        u.tim.counter = BitVec.ofNat 64 ((s.tim.next.toNat : Int) - periodNs s.tim.period - o).toNat) ∧
    (∀ s : State, s.tim.quality = .synced → s.tim.agesTo s.tim.syncAgeNs = true →
      ∃ u : State, exec .syncageTimeout s = .next (u.wakeAll 512) ∧ u.tim.qualified = 0 ∧ u.tim.quality = if s.crystalLost then .freeRunning else .holdover) ∧
    (∀ s : State, s.tim.quality = .holdover → s.tim.agesTo s.tim.holdMaxNs = true →
      ∃ u : State, exec .holdmaxTimeout s = .next (u.wakeAll 512) ∧ u.tim.quality = .freeRunning))

/-! ### Instructions (06): completion and control -/

/-- An instruction of a stream berth completes (R157, R161, R164, R176): V[DST] takes the result, E says whether it was
good, LASTSTAT and the status block take its status, CSEQ advances, it leaves the queue, and the rest of the berth stays.
Its queue position moves past its words. An instruction of a resident berth completes with the next word to follow (R144,
R161): the program counter moves past its words, and no completion is sent without RCOMP. Where a STOP waits for this
boundary the berth stops (R151). -/
def Obligations.Finish : Prop :=
  (∀ (s : State) (b : BerthId) (q : QInstr) (r : List QInstr) (st : Status) (done : Nat) (res : W64),
      (s.berth b).kind = false → (s.berth b).queue = q :: r → st.stops = false → q.op ≠ 1 →
      (s.berth b).stopDue = false → ((s.berth b).stopErr = true → st.good = true) → setsLastStat q.op = true → s.lnk.mode = .narrow →
      let u := s.finish b q st done none (some res)
      (u.berth b).reg q.dst = res ∧ (∀ i, i < 16 → i ≠ q.dst → (u.berth b).reg i = (s.berth b).reg i) ∧
      (u.berth b).e = !st.good ∧ (u.berth b).lastStat = st ∧ (u.berth b).queue = r ∧ (u.berth b).cur = none ∧
      (u.berth b).pc = BitVec.ofNat 16 (((s.berth b).pc.toNat + q.words) % 64) ∧ (u.berth b).cseq = (s.berth b).cseq + 1 ∧ (u.berth b).lastStatus = st ∧ (u.berth b).lastTag = q.tag ∧
      (u.berth b).z = (s.berth b).z ∧ (u.berth b).n = (s.berth b).n ∧ (u.berth b).c = (s.berth b).c ∧
      (u.berth b).session = (s.berth b).session ∧
      (∃ c, u.nar.up = s.nar.up ++ [⟨BitVec.ofNat 16 b.val, q.tag, .completion c⟩] ∧ c.status = st ∧
        c.cseq = (s.berth b).cseq + 1 ∧ c.result = res ∧ c.done = BitVec.ofNat 32 done) ∧
      (∀ b', b' ≠ b → u.berth b' = s.berth b')) ∧
  (∀ (s : State) (b : BerthId) (q : QInstr) (st : Status) (done : Nat) (res : Option W64),
      (s.berth b).kind = true → (s.berth b).rcomp = false → st.stops = false → st ≠ .writeThrough → q.op ≠ 1 →
      (s.berth b).pc.toNat + q.words < (s.berth b).poolWords → (s.berth b).poolWords ≤ 65536 → s.quiesces b = false →
      (s.berth b).stopDue = false →
      (q.takesData = false ∨ (s.berth b).chunks = []) →
      let u := s.finish b q st done none res
      (u.berth b).pc.toNat = (s.berth b).pc.toNat + q.words ∧ (u.berth b).state = .ready ∧ (u.berth b).e = !st.good ∧
      (u.berth b).cseq = (s.berth b).cseq ∧ (u.berth b).stack = (s.berth b).stack ∧ u = { s with berths := u.berths } ∧
      (∀ b', b' ≠ b → u.berth b' = s.berth b')) ∧
  (∀ (s : State) (b : BerthId) (q : QInstr) (st : Status) (done : Nat) (first : Option Nat) (res : Option W64),
      (s.berth b).stopDue = true → ((s.finish b q st done first res).berth b).state = .stopped)

/-- The order in which an instruction is refused before its own rules (Table COMB-2): words of the pool that cannot be read
(R343), HALTED, BUSY, UNKNOWN_OP, BAD_FIELD for a reserved condition, BAD_TARGET for extension words outside the allocation,
NOT_SERVICE. A condition that does not hold skips the instruction (R173): it has no effect but to
clear E and set LASTSTAT to OK. -/
def Obligations.RefusalOrder : Prop :=
  (∀ (s : State) (b : BerthId) (q : QInstr) (body : QInstr → State → State), (s.berth b).kind = true →
      let m := s.memRead 1 ((s.berth b).poolStart + (s.berth b).pc.toNat) q.words
      (m.1 = true → s.begin b q body = m.2.finish b q .memUncorrectable) ∧
      (m = (false, s) → s.flt.halted = false → s.refusesBusy b = false → knownOp q.op = true → q.cc ≤ 10 →
        (s.berth b).cond q.cc = true → q.xc < extCount q.word → s.begin b q body = s.finish b q .badTarget)) ∧
  (∀ (s : State) (b : BerthId) (q : QInstr) (body : QInstr → State → State),
      ((s.berth b).kind = true →
        s.memRead 1 ((s.berth b).poolStart + (s.berth b).pc.toNat) q.words = (false, s) ∧ extCount q.word ≤ q.xc) →
      (s.flt.halted = true → s.begin b q body = s.finish b q .halted) ∧
      (s.flt.halted = false → s.refusesBusy b = true → s.begin b q body = s.finish b q .busy) ∧
      (s.flt.halted = false → s.refusesBusy b = false → knownOp q.op = false → s.begin b q body = s.finish b q .unknownOp) ∧
      (s.flt.halted = false → s.refusesBusy b = false → knownOp q.op = true → 10 < q.cc →
        s.begin b q body = s.finish b q .badField) ∧
      (s.flt.halted = false → s.refusesBusy b = false → knownOp q.op = true → q.cc ≤ 10 → (s.berth b).cond q.cc = true →
        serviceOp q.op = true → 8 ≤ b.val → s.begin b q body = s.finish b q .notService)) ∧
  (∀ (s : State) (b : BerthId) (q : QInstr) (body : QInstr → State → State), s.flt.halted = false →
      s.refusesBusy b = false → knownOp q.op = true → q.cc ≤ 10 → (s.berth b).cond q.cc = false →
      ((s.berth b).kind = true →
        s.memRead 1 ((s.berth b).poolStart + (s.berth b).pc.toNat) q.words = (false, s) ∧
        (s.berth b).pc.toNat + q.words < (s.berth b).poolWords) →
      s.begin b q body = s.skip b q ∧ ((s.skip b q).berth b).e = false ∧ ((s.skip b q).berth b).v = (s.berth b).v ∧
      (setsLastStat q.op = true → ((s.skip b q).berth b).lastStat = .ok))

/-- Transfers of a resident berth (R145, R184, Table TZ-6): JUMP, BRANCH taken and not, CALL, RETURN and LOOP. A target
outside the allocation, a full or an empty call stack stop the berth, and in a stream berth a transfer is NOT_IN_STREAM
(R144, R145). -/
def Obligations.Transfers : Prop :=
  (∀ (s : State) (b : BerthId) (q : QInstr), s.mayRunResident b q →
      let x := s.berth b
      let s' := s.takeTurn b q
      let t := q.imm 0 16
      let m : Byte := BitVec.ofNat 8 (q.imm 24 8)
      let go := fun (u : State) (r : Option W64) (pc : Nat) => Host.Outcome.next ((u.finishAt b q .ok 0 none r pc).wakeAll 512)
      (q.op = 2 → q.only [(0, 16)] = true → t < x.poolWords → exec (.jump b) s = go s' none t) ∧
      (q.op = 3 → q.only [(0, 32)] = true →
        (x.lastStat.code &&& m = BitVec.ofNat 8 (q.imm 16 8) &&& m → t < x.poolWords → exec (.branch b) s = go s' none t) ∧
        (x.lastStat.code &&& m ≠ BitVec.ofNat 8 (q.imm 16 8) &&& m → exec (.branch b) s = go s' none (x.pc.toNat + q.words))) ∧
      (q.op = 4 → q.only [(0, 16)] = true → t < x.poolWords → x.stack.length < 4 →
        exec (.call b) s = go (s'.modBerth b fun x => { x with stack := BitVec.ofNat 16 (x.pc.toNat + 1) :: x.stack }) none t) ∧
      (∀ p r, q.op = 5 → q.only [] = true → x.stack = p :: r → p.toNat < x.poolWords →
        exec (.ret b) s = go (s'.modBerth b fun x => { x with stack := r }) none p.toNat) ∧
      (q.op = 6 → q.only [fDst, (0, 16)] = true → t < x.poolWords → 1 < (x.reg q.dst).toNat →
        exec (.loop b) s = go (s'.modBerth b fun x => { x with z := false }) (some (x.reg q.dst - 1)) t) ∧
      (q.op = 6 → q.only [fDst, (0, 16)] = true → x.reg q.dst = 0 →
        exec (.loop b) s = go (s'.modBerth b fun x => { x with z := true }) none (x.pc.toNat + q.words)) ∧
      (q.op = 6 → q.only [fDst, (0, 16)] = true → x.reg q.dst = 1 →
        exec (.loop b) s = go (s'.modBerth b fun x => { x with z := true }) (some 0) (x.pc.toNat + q.words))) ∧
  (∀ (s : State) (b : BerthId) (q : QInstr), s.mayRun b q →
      let x := s.berth b
      let t := q.imm 0 16
      let ends := fun (st : Status) => Host.Outcome.next (((s.takeTurn b q).finish b q st).wakeAll 512)
      (x.kind = true → q.only [(0, 16)] = true → x.poolWords ≤ t →
        (q.op = 2 → exec (.jump b) s = ends .badTarget) ∧
        (q.op = 4 → x.stack.length < 4 → exec (.call b) s = ends .badTarget)) ∧
      (x.kind = true → q.op = 3 → q.only [(0, 32)] = true → x.poolWords ≤ t →
        x.lastStat.code &&& BitVec.ofNat 8 (q.imm 24 8) = BitVec.ofNat 8 (q.imm 16 8) &&& BitVec.ofNat 8 (q.imm 24 8) →
        exec (.branch b) s = ends .badTarget) ∧
      (x.kind = true → q.op = 6 → q.only [fDst, (0, 16)] = true → x.poolWords ≤ t → 1 < (x.reg q.dst).toNat →
        exec (.loop b) s = ends .badTarget) ∧
      (x.kind = true → q.op = 4 → q.only [(0, 16)] = true → 4 ≤ x.stack.length → exec (.call b) s = ends .stackFault) ∧
      (x.kind = true → q.op = 5 → q.only [] = true → x.stack = [] → exec (.ret b) s = ends .stackFault) ∧
      (x.kind = false →
        (q.op = 2 → q.only [(0, 16)] = true → exec (.jump b) s = ends .notInStream) ∧
        (q.op = 3 → q.only [(0, 32)] = true → exec (.branch b) s = ends .notInStream) ∧
        (q.op = 4 → q.only [(0, 16)] = true → exec (.call b) s = ends .notInStream) ∧
        (q.op = 5 → q.only [] = true → exec (.ret b) s = ends .notInStream) ∧
        (q.op = 6 → q.only [fDst, (0, 16)] = true → exec (.loop b) s = ends .notInStream)))

/-- NOP, HALT, SIGNAL, and WAITT, WAITE and ORDER whose cause has come (R184 to R187). The waits of WAITT, WAITE and ORDER
begin and end (R59, R184, R185, R187): the berth waits with its cause, WAITT for the named count of boundaries or for V[SRCA],
and completes at the named boundary, or at the timeout with 0 and Z = 1. ORDER on a berth that cannot reach the count, or that
waits on an ORDER itself, is WRONG_STATE. -/
def Obligations.ControlCompletes : Prop :=
  (∀ (s : State) (b : BerthId) (q : QInstr), s.mayRun b q →
      let x := s.berth b
      let s' := s.takeTurn b q
      let done := fun (u : State) => Host.Outcome.next (u.wakeAll 512)
      let cleared := if q.modeBit 0 then s'.modBerth b fun x => { x with pend := x.pend &&& ~~~(q.word.setWidth 16) } else s'
      let t := berthOf (q.imm 0 9)
      let c := (x.reg q.srcA).toNat % 2 ^ 32
      (q.op = 0 → q.only [] = true → exec (.nop b) s = done (s'.finish b q .ok)) ∧
      (q.op = 1 → q.only [] = true → ∃ u, exec (.halt b) s = done u ∧ (u.berth b).state = .stopped) ∧
      (q.op = 7 → q.only [fSrcA, (40, 1), (0, 32)] = true → q.modeBit 0 = false → q.imm 0 32 = 0 →
        exec (.waitt b) s = done (s'.finish b q .ok)) ∧
      (q.op = 7 → q.only [fSrcA, (40, 1), (0, 32)] = true → q.modeBit 0 = false → q.imm 0 32 ≠ 0 →
        exec (.waitt b) s = done (s'.waitFor b .waitt { Cur.init q .waitt with target := q.imm 0 32 })) ∧
      (q.op = 7 → q.only [fSrcA, (40, 1), (0, 32)] = true → q.modeBit 0 = true →
        exec (.waitt b) s = done (s'.waitFor b .waitt { Cur.init q .waitt with target := (x.reg q.srcA).toNat })) ∧
      (∀ i, q.op = 8 → q.only [fDst, (40, 1), (0, 40)] = true → q.imm 0 16 ≠ 0 ∨ q.imm 16 24 ≠ 0 →
        lowestBit ((cleared.berth b).pend &&& q.word.setWidth 16) = some i → exec (.waite b) s = done (cleared.takeEvent b q i)) ∧
      (q.op = 8 → q.only [fDst, (40, 1), (0, 40)] = true → q.imm 0 16 ≠ 0 ∨ q.imm 16 24 ≠ 0 →
        lowestBit ((cleared.berth b).pend &&& q.word.setWidth 16) = none →
        exec (.waite b) s = done (cleared.waitFor b .waite { Cur.init q .waite with target := q.imm 16 24 })) ∧
      (q.op = 8 → q.only [fDst, (40, 1), (0, 40)] = true → q.imm 0 16 = 0 → q.imm 16 24 = 0 →
        exec (.waite b) s = done (s'.finish b q .badField)) ∧
      (q.op = 9 → q.only [fSrcA, (40, 1), (0, 32)] = true → exec (.signal b) s = done ((s'.raiseEvent 1
        (if q.modeBit 0 then q.word.setWidth 32 else (x.reg q.srcA).setWidth 32) (some b)).finish b q .ok)) ∧
      (q.op = 10 → q.only [fSrcA, (0, 9)] = true →
        (t = b ∨ orderReached s t c = true → exec (.order b) s = done (s'.finish b q .ok)) ∧
        (t ≠ b → orderReached s t c = false → orderBroken (s.berth t) = true ∨ (s.berth t).onOrder = true →
          exec (.order b) s = done (s'.finish b q .wrongState)) ∧
        (t ≠ b → orderReached s t c = false → orderBroken (s.berth t) = false → (s.berth t).onOrder = false →
          exec (.order b) s = done (s'.waitFor b .order { Cur.init q .order with target := c })))) ∧
  (∀ (s : State) (b : BerthId) (c : Cur), (s.berth b).cur = some c → (s.berth b).state = .waiting → c.admitted = true →
    (c.phase = .waitt → exec (.waittWake b) s = .next ((s.finish b c.ins .ok).wakeAll 512)) ∧
    (c.phase = .waite → exec (.waiteTimeout b) s = .next
      (((s.modBerth b fun x => { x with z := true }).finish b c.ins .ok 0 none (some 0)).wakeAll 512)))

/-! ### Arithmetic (R188, R189) -/

/-- ADD, SUB, AND, OR, XOR and CMP (Table TZ-7, Table BERTH-2): the result, and Z, N and C. LDI, MOV, SHL and SHR (Table
TZ-7): LDI and MOV leave C; a shift by 64 or more gives 0 and C = 0, one by 1 to 63 the last bit shifted out. -/
def Obligations.ArithmeticResults : Prop :=
  (∀ (s : State) (b : BerthId) (q : QInstr), s.mayRun b q →
     let x := s.berth b
     let a := x.reg q.srcA
     let sx := operandB x q .signed
     let zx := operandB x q .zero
     let put := fun (v : W64) (c : Bool) (w : Bool) => Host.Outcome.next
       ((((s.takeTurn b q).modBerth b fun x => { x with z := v == 0, n := v.msb, c := c }).finish b q .ok 0 none
         (if w then some v else none)).wakeAll 512)
     (q.bFieldsOk true = true →
       (q.op = 0x12 → exec (.add b) s = put (a + sx) (decide (2 ^ 64 ≤ a.toNat + sx.toNat)) true) ∧
       (q.op = 0x13 → exec (.sub b) s = put (a - sx) (decide (a.toNat < sx.toNat)) true) ∧
       (q.op = 0x14 → exec (.and b) s = put (a &&& zx) false true) ∧
       (q.op = 0x15 → exec (.or b) s = put (a ||| zx) false true) ∧
       (q.op = 0x16 → exec (.xor b) s = put (a ^^^ zx) false true)) ∧
     (q.bFieldsOk false = true → q.op = 0x19 → exec (.cmp b) s = put (a - sx) (decide (a.toNat < sx.toNat)) false)) ∧
  (∀ (s : State) (b : BerthId) (q : QInstr), s.mayRun b q →
     let x := s.berth b
     let a := x.reg q.srcA
     let n := shiftCount x q
     let put := fun (v : W64) (c : Bool) => Host.Outcome.next
       ((((s.takeTurn b q).modBerth b fun x => { x with z := v == 0, n := v.msb, c := c }).finish b q .ok 0 none (some v)).wakeAll 512)
     (q.op = 0x10 → q.mode ≤ 1 → q.only [fDst, fSrcB, (0, 40)] = true →
       exec (.ldi b) s = put (if q.mode = 0 then (q.word.setWidth 40).setWidth 64 else (q.word.setWidth 40).signExtend 64) x.c) ∧
     (q.op = 0x10 → q.mode = 2 → q.only [fDst, fSrcB, (0, 24)] = true →
       exec (.ldi b) s = put ((q.word.setWidth 24).setWidth 64 <<< 40 ||| ((x.reg q.dst).setWidth 40).setWidth 64) x.c) ∧
     (q.op = 0x11 → q.only [fDst, fSrcA] = true → exec (.mov b) s = put a x.c) ∧
     (q.op = 0x17 → q.bFieldsOk true = true → exec (.shl b) s =
       if 64 ≤ n then put 0 false else put (a <<< n) (decide (0 < n) && a.getLsbD (64 - n))) ∧
     (q.op = 0x18 → q.bFieldsOk true = true → exec (.shr b) s =
       if 64 ≤ n then put 0 false else put (a >>> n) (decide (0 < n) && a.getLsbD (n - 1))))

/-- The frame of the arithmetic family: memory, every other berth, and the special registers of the blocks stay; of its own
berth only V[DST], the flags and what a completion moves. -/
def Obligations.ArithmeticFrame : Prop :=
  ∀ (s : State) (b : BerthId) (q : QInstr) (r : Alu) (w : Bool), s.lnk.mode = .narrow → (s.berth b).stopErr = false →
    (s.berth b).stopDue = false → q.op ≠ 1 → ((s.berth b).kind = true → (s.berth b).pc.toNat + q.words < (s.berth b).poolWords ∧ s.quiesces b = false) →
    let u := s.arith b q r w
    u.pool = s.pool ∧ u.scratch = s.scratch ∧ u.store = s.store ∧ u.tim = s.tim ∧ u.lnk = { s.lnk with wakeLow := u.lnk.wakeLow } ∧
    u.log = s.log ∧ u.ctr = s.ctr ∧ u.rgn = s.rgn ∧ u.rings = s.rings ∧ u.hup = s.hup ∧ u.pmu = s.pmu ∧ u.flt = s.flt ∧
    (∀ b', b' ≠ b → u.berth b' = s.berth b') ∧
    (∀ i, i < 16 → i ≠ q.dst → (u.berth b).reg i = (s.berth b).reg i) ∧
    (w = false → (u.berth b).reg q.dst = (s.berth b).reg q.dst) ∧
    (u.berth b).session = (s.berth b).session ∧ (u.berth b).stack = (s.berth b).stack ∧ (u.berth b).inbox = (s.berth b).inbox

/-- LDC and STC (R189, R211), and an opcode outside Table TZ-5 (R182). STC writes a register as Table TZ-11 says; of a CPL
register it looks at both halves of V[SRCA]: they disagree, BAD_FIELD and the mismatch source; they agree, WRONG_STATE, since
APPLY alone changes it. An STC that stops its own berth completes first. -/
def Obligations.ControlSpaceInstructions : Prop :=
  ∀ (s : State) (b : BerthId) (q : QInstr), s.mayRun b q →
    let s' := s.takeTurn b q
    let a := q.imm 0 16
    let lo : W32 := ((s.berth b).reg q.srcA).setWidth 32
    let hi : W32 := ((s.berth b).reg q.srcA).extractLsb' 32 32
    (q.op = 0x1A → q.only [fDst, (0, 16)] = true → q.imm 0 2 = 0 →
      let r := s'.ctlRead (some b) a
      let v : W64 := r.1.setWidth 64
      exec (.ldc b) s = .next (s.close
        ((r.2.modBerth b fun x => { x with z := v == 0, n := v.msb }).finish b q .ok 0 none (some v)))) ∧
    (q.op = 0x1A → q.only [fDst, (0, 16)] = true → q.imm 0 2 ≠ 0 → exec (.ldc b) s = .next (s.close (s'.finish b q .badField))) ∧
    (q.op = 0x69 → q.only [fSrcA, (0, 16)] = true → s.stopsItself b a lo = false →
      (settingAt a = none →
        let w := s'.ctlWrite b a lo
        exec (.stc b) s = .next (s.close (w.2.finish b q w.1))) ∧
      (∀ x, settingAt a = some x → hi = ~~~lo → exec (.stc b) s = .next (s.close (s'.finish b q .wrongState))) ∧
      (∀ x, settingAt a = some x → hi ≠ ~~~lo → exec (.stc b) s = .next (s.close ((x.mismatch s').finish b q .badField)))) ∧
    (q.op = 0x69 → q.only [fSrcA, (0, 16)] = true → s.stopsItself b a lo = true →
      ∃ u : State, exec (.stc b) s = .next (s.close u) ∧ (u.berth b).state = .stopped) ∧
    (knownOp q.op = false → exec (.unknownOp b) s = .next ((s'.finish b q .unknownOp).wakeAll 512))

/-! ### Data and regions (06, 07, 08) -/

/-- READ and VERIFY (R26, R178, R190, R192, R195, Table ARCH-3): an access that a row of Table COMB-2 refuses takes its status;
one of no blocks completes at once; one whose parts are all denied is DENIED. Of blocks that the write share holds or that are
unmapped, VERIFY finds no weak block, and READ sends the blocks up in parcels no larger than the payload maximum while staging
has room, or puts them in scratch; both complete with DONE = LEN. -/
def Obligations.ReadCompletes : Prop :=
  ∀ (s : State) (b : BerthId) (q : QInstr) (f : Form), s.mayRun b q → (q.op = 0x20 ∨ q.op = 0x24) →
    let s' := s.takeTurn b q
    q.form (s'.berth b) 1 (q.op == 0x20) = some f →
    let r := f.region
    let d := s'.runData r f.start f.len
    let parts := s'.partsOf (s'.berth b) r f.start f.len
    let ask : Ask := { region := r, types := [.ring, .general, .compat], write := false, start := f.start, len := f.len,
                       ranged := true, misfit := (s'.berth b).misfit f.scratch (f.len * s'.blockSize r) }
    let ends := fun (u : State) => (q.op = 0x20 → exec (.read b) s = .next (s.close u)) ∧
      (q.op = 0x24 → exec (.verify b) s = .next (s.close u))
    (∀ st, s'.gated r = false → s'.entryOk r → s'.refusal ask = some st → ends (s'.refuse b q st)) ∧
    (s'.opensFor ask → f.len = 0 → ends (s'.finish b q .ok 0 none (some 0))) ∧
    (s'.opensFor ask → 0 < f.len → parts.all (fun p => !p.ok) = true →
      ends ((s'.denyParts (deniedCount parts)).refuse b q .denied (some 0))) ∧
    (s'.opensFor ask → 0 < f.len → s'.single → s'.allowed b r f.start f.len → s'.inShare r f.start f.len →
      s'.later { region := r, write := false, lost := false, media := false, doms := s'.dataDoms r } = .go →
      s'.readClash f parts = false →
      (q.op = 0x24 → exec (.verify b) s = .next (s.close (s'.finish b q .ok f.len none (some 0)))) ∧
      (q.op = 0x20 → f.scratch = none → 0 < s'.lnk.pay →
        s'.stagedBytes + d.length + s'.lnk.pay + s'.mapShare ≤ s'.workShare →
        exec (.read b) s = .next (s.close ((State.sendAll b q.tag (splitData d.length s'.lnk.pay d) s').finish b q .ok f.len none
          (some (BitVec.ofNat 64 f.len))))) ∧
      (∀ off, q.op = 0x20 → f.scratch = some off → (s'.scratchPlace b off d.length).1 = .ok →
        exec (.read b) s = .next (s.close ((s'.scratchWrite (s'.scratchPlace b off d.length).2 d).finish b q .ok f.len none
          (some (BitVec.ofNat 64 f.len))))))

/-- WRITE, APPEND and COPY of one piece that the ledger covers and that is the newest admission of its units (R21, R24, R190,
R193, R194, R249, R325, Tables ARCH-2 and HUP-4): the blocks read the new data, no other unit changes, the ledger holds the
piece's cost, and the instruction completes with its blocks done, an APPEND with its position; the ring's tail moves past the
unit. A WRITE that a row of Table COMB-2 refuses takes its status. -/
def Obligations.WritesComplete : Prop :=
  (∀ (s : State) (b : BerthId) (q : QInstr) (f : Form) (d : List Byte), s.mayRun b q → s.goesOn b q →
    let s' := s.takeTurn b q
    q.form (s'.berth b) 1 true = some f → 0 < f.len → d.length = f.len * s'.blockSize f.region →
    let ask := fun (append : Bool) => ({
      region := f.region, types := if append then [.ring] else [.general, .compat], write := true, start := f.start,
      len := f.len, ranged := true, append := append, misfit := (s'.berth b).misfit f.scratch d.length } : Ask)
    (∀ st, s'.gated f.region = false → s'.entryOk f.region →
      (q.op = 0x21 → s'.refusal (ask false) = some st → exec (.write b) s = .next (s.close (s'.refuse b q st))) ∧
      (q.op = 0x22 → f.len % 64 = 0 → s'.refusal (ask true) = some st →
        exec (.append b) s = .next (s.close (s'.refuse b q st)))) ∧
    (s'.single → s'.dataFor b q f.scratch d → (s'.berth b).has (s'.region f.region).colour = true →
      s'.hup.answerItem (dataCost d.length) = .admitted →
      (q.op = 0x21 → d.length ≤ 1048576 → s'.isLocal f.region f.start f.len → s'.newest f.region f.start f.len →
        (∀ i, i < f.len → (s'.unitData (s'.blockKey f.region (f.start + i))).length = 4096) →
        s'.opensFor (ask false) → s'.pagesFor b f.region f.start f.len →
        s'.later { region := f.region, write := true, lost := false, media := true, doms := s'.dataDoms f.region } = .go →
        s'.writeClash f.region f.start f.len = false →
        ∃ u : State, exec (.write b) s = .next (s.close u) ∧ s'.landed u b q f.region f.start f.len d f.len) ∧
      (q.op = 0x22 → f.len = 64 →
        let x := s'.ring f.region
        s'.isLocal f.region x.tailPos 64 → s'.appendPos f.region = x.tailPos → x.tailPos % 64 = 0 →
        x.tailPos + 64 < 2 ^ 56 → x.segs.contains (x.tailPos / segSize) = true → x.taken = [] →
        (∀ v ∈ x.units, v.no < x.tailPos / 64) → s'.newest f.region x.tailPos 64 →
        s'.shareRoom f.region = true → s'.appendWaits f.region = false → s'.tailLeaving f.region = false →
        s'.opensFor (ask true) → s'.pagesFor b f.region x.tailPos 64 →
        s'.later { region := f.region, write := true, lost := false, media := false, doms := s'.dataDoms f.region } = .go →
        s'.writeClash f.region x.tailPos 64 = false →
        ∃ u : State, exec (.append b) s = .next (s.close u) ∧ s'.landed u b q f.region x.tailPos 64 d x.tailPos ∧
          (u.ring f.region).tailPos = x.tailPos + 64 ∧
          ((u.ring f.region).units.getLast?.map (·.no)) = some (x.tailPos / 64)))) ∧
  (∀ (s : State) (b : BerthId) (q : QInstr) (f : Form), s.mayRun b q → s.goesOn b q → q.op = 0x23 →
    let s' := s.takeTurn b q
    q.form (s'.berth b) 2 false = some f → s'.single → 0 < f.len →
    let d := s'.runData f.region f.start f.len
    let parts := s'.partsOf (s'.berth b) f.region f.start f.len
    let src : Ask := { region := f.region, types := [.ring, .general, .compat], write := false, start := f.start,
                       len := f.len, ranged := true }
    let dst : Ask := { region := f.region2, types := [.general, .compat], write := true, start := f.start2, len := f.len,
                       ranged := true }
    s'.gated f.region = false → s'.gated f.region2 = false → s'.entryOk f.region → s'.entryOk f.region2 →
    s'.rtype f.region ≠ .ring → s'.blockSize f.region = s'.blockSize f.region2 → s'.refusal2 src dst = none →
    s'.allowed b f.region f.start f.len → s'.inShare f.region f.start f.len →
    (s'.berth b).has (s'.region f.region2).colour = true → s'.pathFenced f.region false = false →
    s'.later { region := f.region2, write := true, lost := false, media := true,
               doms := (s'.dataDoms f.region ++ s'.dataDoms f.region2).dedup } = .go →
    s'.readClash f parts = false → s'.writeClash f.region2 f.start2 f.len = false →
    d.length ≤ 1048576 → s'.isLocal f.region2 f.start2 f.len → s'.newest f.region2 f.start2 f.len →
    s'.pagesFor b f.region2 f.start2 f.len →
    (∀ i, i < f.len → (s'.unitData (s'.blockKey f.region2 (f.start2 + i))).length = 4096) →
    s'.hup.answerItem (dataCost d.length) = .admitted →
    ∃ u : State, exec (.copy b) s = .next (s.close u) ∧ s'.landed u b q f.region2 f.start2 f.len d f.len)

/-- TRIM and WEED that the ledger covers (R197, R303, R316): every block of the range reads zeros at once, no unit outside
it changes, and the instruction waits for the unmap, WEED for its record as well. WEED of a ring takes whole segments out of
their slots. -/
def Obligations.UnmapCompletes : Prop :=
  ∀ (s : State) (b : BerthId) (q : QInstr) (f : Form), s.mayRun b q → (q.op = 0x30 ∨ q.op = 0x31) →
    let s' := s.takeTurn b q
    q.form (s'.berth b) 1 false = some f → s'.single → 0 < f.len →
    (s'.berth b).has (s'.region f.region).colour = true → s'.hup.answerItem commitCost = .admitted →
    s'.later { region := f.region, write := false, lost := false, media := false, doms := commitDomains } = .go →
    let ring := q.op == 0x31 && s'.rtype f.region == .ring
    s'.opensFor { region := f.region, types := if q.op == 0x31 then [.general, .compat, .ring] else [.general, .compat],
                  write := true, start := f.start, len := f.len, ranged := !ring,
                  misfit := ring && (f.start % segSize != 0 || f.len % segSize != 0) } →
    let unmapped := fun (u : State) =>
      (∀ i, i < f.len → u.blockData f.region (f.start + i) = zeros (s'.blockSize f.region)) ∧
      (∀ k, (∀ i, i < f.len → s'.blockKey f.region (f.start + i) ≠ k) → u.unitOf k = s'.unitOf k) ∧
      u.hup.d = s'.hup.d + commitCost
    (ring = false → s'.newest f.region f.start f.len →
      (∀ i, i < f.len → (s'.unitData (s'.blockKey f.region (f.start + i))).length = 4096) →
      (q.op = 0x30 → ∃ u : State, exec (.trim b) s = .next (s.close u) ∧ unmapped u ∧
        u.waitsDurable b 1 (some (BitVec.ofNat 64 f.len))) ∧
      (q.op = 0x31 → ∃ u : State, exec (.weed b) s = .next (s.close u) ∧ unmapped u ∧
        u.waitsDurable b 2 (some (BitVec.ofNat 64 f.len)))) ∧
    (ring = true → f.start + f.len ≤ ((s'.ring f.region).tailPos / segSize + 1) * segSize →
      let gone := (s'.modBerth b fun x => { x with cur := none }).weedSegs f.region f.start f.len
      ∃ u : State, exec (.weed b) s = .next (s.close u) ∧
        (u.ring f.region).segs = (s'.ring f.region).segs.filter (fun g => !gone.contains g) ∧
        u.waitsDurable b 2 (some (BitVec.ofNat 64 (gone.length * segSize))))

/-- HOLD, RELEASE and HARVEST that the ledger covers, and RINGPOS (R198 to R201, R253 to R257): HOLD freezes its segments at
once under the lowest free id; RELEASE and HARVEST mark their hold and take effect when they are durable. -/
def Obligations.HoldsComplete : Prop :=
  ∀ (s : State) (b : BerthId) (q : QInstr), s.mayRun b q →
    let s' := s.takeTurn b q
    let w := q.extWord 0
    let r := bits w 0 6
    let t := ((s'.berth b).reg q.srcA).toNat
    let ask := fun (n : Nat) => ({ region := n, types := [.ring], write := false, start := 0, len := 0, ranged := false } : Ask)
    (s'.hup.answerItem commitCost = .admitted → s'.flashReady →
      (∀ segs, q.op = 0x32 → q.only [fDst, fSrcA, (40, 1), fXc, (0, 37)] = true → q.xc = 1 → bits w 6 2 = 0 →
        ¬(q.modeBit 0 = true ∧ (bits w 8 56 % segSize ≠ 0 ∨ q.imm 0 32 = 0)) → s'.opensFor (ask r) →
        s'.holdSegs r (q.modeBit 0) (bits w 8 56) (q.imm 0 32) t = some segs →
        (((s'.region r).colour :: (q.holdColour.map BitVec.toNat).toList).all (s'.berth b).has) = true →
        s'.holdRefusal r segs = none →
        ∃ (u : State) (h : Hold), exec (.hold b) s = .next (s.close u) ∧ u.holds = s'.holds ++ [h] ∧ h.id = s'.freeHold ∧
          h.region = r ∧ h.segs = segs ∧ h.colour = q.holdColour ∧ h.leaving = false ∧
          u.waitsDurable b 1 (some (BitVec.ofNat 64 s'.freeHold))) ∧
      (∀ h, q.op = 0x33 → q.only [(0, 8)] = true → s'.holdsFor b (q.imm 0 8) h → s'.opensFor (ask h.region) →
        ∃ u : State, exec (.release b) s = .next (s.close u) ∧ u.holds = (s'.markLeaving (q.imm 0 8)).holds ∧
          u.waitsDurable b 1 none) ∧
      (∀ h, q.op = 0x34 → q.only [fDst, fXc, (0, 8)] = true → q.xc = 1 → bits w 6 58 = 0 → s'.findHold (q.imm 0 8) = some h →
        s'.gated r = false → s'.rtype r = .undefined → s'.harvestInto r = false → s'.opensFor (ask h.region) →
        (s'.harvestColours h).all (s'.berth b).has = true → s'.harvestBlocked h = false →
        ∃ u : State, exec (.harvest b) s = .next (s.close u) ∧ u.holds = (s'.markLeaving (q.imm 0 8)).holds ∧
          u.waitsDurable b 1 (some (BitVec.ofNat 64 (h.segs.length * segSize))))) ∧
    (q.op = 0x33 → s'.findHold (q.imm 0 8) = none → exec (.release b) s = .next (s.close (s'.finish b q .badField))) ∧
    (q.op = 0x34 → s'.findHold (q.imm 0 8) = none → exec (.harvest b) s = .next (s.close (s'.finish b q .badField))) ∧
    (q.op = 0x35 → q.only [fDst, fSrcA, (40, 2), fXc] = true → q.xc = 1 → bits w 6 58 = 0 → s'.opensFor (ask r) →
      (∀ p, s'.ringPosition r (q.mode % 4) t = some p → (s'.berth b).has (s'.region r).colour = true →
        exec (.ringpos b) s = .next (s.close (s'.finish b q .ok 0 none (some (BitVec.ofNat 64 p))))) ∧
      (s'.ringPosition r (q.mode % 4) t = none → exec (.ringpos b) s = .next (s.close (s'.finish b q .range))))

/-- What a map commit does when it is durable (R181, R198, R237, R256): a HOLD takes the time, a released hold ends, the
lock takes its state, and the instruction that waits for it completes. -/
def Obligations.CommitEffects : Prop :=
  (∀ (s : State) (id : Nat), ∃ t : W64,
    (s.runAfter (.hold id)).holds = s.holds.map fun h => if h.id = id then { h with time := t } else h) ∧
  (∀ (s : State) (id : Nat), ∀ h ∈ (s.runAfter (.release id)).holds, h.id ≠ id) ∧
  (∀ (s : State) (b : BerthId) (st : BitVec 2),
    bits (s.runAfter (.lock b st .keep)).grd.lock.val 0 2 = st.toNat ∧ (s.runAfter (.lock b st .keep)).grd.lock.ok = true ∧
    (s.runAfter (.lock b st .keep)).grd.password = s.grd.password) ∧
  (∀ (s : State) (b : BerthId) (c : Cur), (s.berth b).cur = some c → c.phase = .durable →
    (c.open_ ≤ 1 → s.itemDurable b = s.finish b c.ins c.status c.done c.first c.result) ∧
    (1 < c.open_ → ((s.itemDurable b).berth b).cur = some { c with open_ := c.open_ - 1 }))

/-! ### Records, counters and time (09, 06) -/

/-- SEAL, CHECKPT, CTRINC and LOGREAD that may run and that the ledger covers (R203 to R205, R277 to R282, R285, R286, R294): a
record takes the next number and the hash of the record before, and both copies go to the dies while blocks are left; CHECKPT
notes the newest record and starts the signature; CTRINC programs the new value into every live mirror, held at 2^64 - 1, and
is SATURATED at that value; LOGREAD reads the dies, or asks the member that holds the records. -/
def Obligations.RecordsComplete : Prop :=
  ∀ (s : State) (b : BerthId) (q : QInstr), s.mayRun b q →
    let s' := s.takeTurn b q
    (s'.recordsReady → s'.hup.answerItem sealCost = .admitted →
      (∀ d, q.op = 0x40 → q.only [fDst, fSrcA, (42, 1), fXc, (18, 20), (0, 12)] = true → q.sealLen ≤ 2048 →
        bit q.sealType 15 = true → s'.log.fenced = false → s'.log.full = false →
        (s'.berth b).has q.sealColour.toNat = true → d.length = q.sealLen →
        (q.modeBit 2 = true ∧ q.xc = 0 ∧ q.sealLen ≤ 8 * (16 - q.srcA) ∧ d = regsPayload (s'.berth b) q ∨
         q.modeBit 2 = false ∧ q.xc = 0 ∧ (q.sealLen = 0 ∨ s'.dataFor b q none d) ∨
         q.modeBit 2 = false ∧ q.xc = 1 ∧ scratchWordOk (q.extWord 0) = true ∧
           (s'.berth b).misfit (some (bits (q.extWord 0) 0 18)) q.sealLen = false ∧
           s'.dataFor b q (some (bits (q.extWord 0) 0 18)) d) →
        ∃ (u : State) (x : LogRec), exec (.seal b) s = .next (s.close u) ∧ u.log.recs = s'.log.recs ++ [x] ∧
          u.log.next = s'.log.next + 1 ∧ x.typ = q.sealType ∧ x.colour = q.sealColour ∧ x.payload = d ∧
          x.seq = s'.ownSeq s'.log.next ∧ x.prev = s'.log.prevHash ∧ x.card = false ∧
          (u.dies.drop s'.dies.length).map (·.kind) =
            (if x.durA then [] else [.logCopy x.seq false]) ++ (if x.durB then [] else [.logCopy x.seq true]) ∧
          ((∃ g : Fin 8, s'.dieUsable s'.log.copyA.opens[g].die = true) → 0 < s'.log.copyA.free → x.durA = false) ∧
          ((∃ g : Fin 8, s'.dieUsable s'.log.copyB.opens[g].die = true) → 0 < s'.log.copyB.free → x.durB = false) ∧
          u.hup.d = s'.hup.d + sealCost ∧ u.waitsDurable b 1 (some x.seq)) ∧
      (q.op = 0x42 → q.only [fDst] = true → s'.log.fenced = false → s'.log.full = false →
        ∃ (u : State) (c : CpSigning), exec (.checkpt b) s = .next (s.close u) ∧ u.log.signing = s'.log.signing ++ [c] ∧
          c.through = s'.log.next - 1 ∧ c.head = s'.log.prevHash ∧ c.owner = some b ∧ c.cost = sealCost ∧
          c.asked = s'.tim.counter ∧ u.log.recs = s'.log.recs ∧ u.waitsDurable b 1 none) ∧
      (q.op = 0x48 → q.only [fDst, fSrcA, (40, 1), (0, 5), (6, 33)] = true →
        let n := q.counter
        let amount := ctrAmount (s'.berth b) q
        let old := s'.steppedValue n
        0 < amount → amount ≤ 2 ^ 32 → bit s'.ctr.fence n = false →
        (s'.counter n).value.isSome = true → badPair (s'.counter n).a = false → badPair (s'.counter n).b = false →
        (ctrBound (s'.counter n).cfg.val = true → (s'.berth b).has (ctrColour (s'.counter n).cfg.val) = true) →
        (old = BitVec.allOnes 64 → ∃ u : State, exec (.ctrinc b) s = .next (s.close u) ∧ u.dies = s'.dies ∧
          (u.berth b).reg q.dst = old ∧ (u.berth b).lastStat = .saturated) ∧
        (old ≠ BitVec.allOnes 64 →
          let new := BitVec.ofNat 64 (min (old.toNat + amount) (2 ^ 64 - 1))
          let ms := (if s'.ctr.liveA then [DieKind.ctrMirror n new false (some b) sealCost] else []) ++
            (if s'.ctr.liveB then [DieKind.ctrMirror n new true (some b) sealCost] else [])
          ∃ (u : State) (c : Cur), exec (.ctrinc b) s = .next (s.close u) ∧
            ((u.dies.drop s'.dies.length).map (·.kind)).take ms.length = ms ∧
            (u.berth b).cur = some c ∧ c.phase = .durable ∧ c.result = some new ∧
            c.open_ = ms.length + (if ctrLogs (s'.counter n).cfg.val && !s'.log.exhausted then 1 else 0) ∧
            c.status = if 2 ^ 64 ≤ old.toNat + amount then .saturated else .ok))) ∧
    (q.op = 0x41 → q.only [fDst, fSrcA, fXc, (0, 32)] = true → q.xc ≤ 1 → (q.xc = 1 → scratchWordOk (q.extWord 0) = true) →
      s'.gated 0 = false →
      let first := (s'.berth b).reg q.srcA
      let n := q.imm 0 32
      let p := bits first 62 2
      let off := if q.xc = 1 then some (bits (q.extWord 0) 0 18) else none
      let size := ((seqRange first n).map fun x => match s'.log.find x with
        | some r => (80 + r.payload.length + 15) / 16 * 16
        | none => 80).sum
      let fits := fun (k : Nat) => (s'.berth b).misfit off k = false ∧ ∀ o, off = some o → (s'.scratchPlace b o k).1 = .ok
      (n = 0 → exec (.logread b) s = .next (s.close (s'.finish b q .ok 0 none (some 0)))) ∧
      (n ≠ 0 → (p = s'.position ∧ (first.toNat < (s'.ownSeq s'.log.old).toNat ∨
          (s'.ownSeq s'.log.next).toNat < first.toNat + n)) ∨
          (p ≠ s'.position ∧ (bit s'.quy.present p = false ∨ bit s'.quy.lost p = true)) →
        exec (.logread b) s = .next (s.close (s'.refuse b q .range))) ∧
      (n ≠ 0 → p = s'.position → (s'.ownSeq s'.log.old).toNat ≤ first.toNat →
        first.toNat + n ≤ (s'.ownSeq s'.log.next).toNat → (s'.berth b).has (s'.region 0).colour = true → fits size →
        s'.flashReady →
        ∃ u : State, exec (.logread b) s = .next (s.close u) ∧ (u.dies.drop s'.dies.length).map (·.kind) = [.read b] ∧
          (u.berth b).state = .waiting ∧ u.log = s'.log) ∧
      (n ≠ 0 → p ≠ s'.position → bit s'.quy.present p = true → bit s'.quy.lost p = false →
        (s'.berth b).has (s'.region 0).colour = true → fits 0 → s'.flashReady →
        ∃ u : State, exec (.logread b) s = .next (s.close u) ∧ (u.berth b).state = .waiting ∧
          (u.quy.out.drop s'.quy.out.length).map (fun o => (o.berth, o.position.val)) = [(b, p)]))

/-- CTRREAD, TIMERD and ALARM (R205, R206): V[DST] takes the counter's value, Z and N with it; the time, the quality in
V[SRCA]; ALARM arms the one wake alarm, or disarms it with 0. -/
def Obligations.FiguresComplete : Prop :=
  ∀ (s : State) (b : BerthId) (q : QInstr), s.mayRun b q →
    let s' := s.takeTurn b q
    (∀ v, q.op = 0x49 → q.only [fDst, (0, 5)] = true → bit s'.ctr.fence q.counter = false →
      (s'.counter q.counter).value = some v → badPair (s'.counter q.counter).a = false →
      badPair (s'.counter q.counter).b = false →
      exec (.ctrread b) s = .next (s.close
        ((s'.modBerth b fun x => { x with z := v == 0, n := v.msb }).finish b q .ok 0 none (some v)))) ∧
    (q.op = 0x50 → q.only [fDst, fSrcA] = true →
      let t := s'.elapse
      exec (.timerd b) s = .next (s.close ((t.modBerth b fun x => { x with
        z := t.tim.counter == 0, n := t.tim.counter.msb, v := x.v.setIfInBounds q.srcA (t.tim.qual.setWidth 64) }).finish
          b q .ok 0 none (some t.tim.counter)))) ∧
    (q.op = 0x51 → q.only [fSrcA] = true →
      let v := (s'.berth b).reg q.srcA
      ∃ u : State, exec (.alarm b) s = .next (s.close (u.finish b q .ok)) ∧ u.tim.alarm = Pair.mk' v ∧
        u.tim.armed = decide (v ≠ 0) ∧ u = { s' with tim := u.tim })

/-! ### Administration (06, 07, 17) -/

/-- SESSION (R208, R220 to R223): a right password or response opens its colour and a wrong one is counted, until five wrong
passwords block entry; a response spends the challenge and needs one; a colour without a password or a provisioned key is never
opened (that a response for such a colour starts no pause is log 146); a challenge is given at once, or after the pause that a
wrong response brings; MODE 2 and 3 close colours but never colour 0. -/
def Obligations.SessionsComplete : Prop :=
  (∀ (s : State) (b : BerthId) (q : QInstr), s.mayRun b q →
    let s' := s.takeTurn b q
    q.op = 0x60 →
    let k := q.imm 0 4
    let done := fun (u : State) (st : Status) => exec (.session b) s = .next (s.close (u.finish b q st))
    let fs := [fSrcB, fXc, (0, 4)]
    (q.mode = 0 → q.only fs = true → k = 0 → q.xc = 0 → done s' .ok) ∧
    (∀ p, q.mode = 0 → q.only fs = true → 1 ≤ k → k ≤ 7 → q.xc = 2 → s'.grd.colourPw.getD k none = some p → s'.grd.tries < 5 →
      (Config.passwordMac p.salt q.key = p.mac → done (({ s' with grd := { s'.grd with tries := 0 } }).modBerth b fun x =>
        { x with session := { x.session with set := setBit x.session.set k } }) .ok) ∧
      (Config.passwordMac p.salt q.key ≠ p.mac → s'.grd.tries < 4 →
        done { s' with grd := { s'.grd with tries := s'.grd.tries + 1 } } .badPassword) ∧
      (Config.passwordMac p.salt q.key ≠ p.mac → s'.grd.tries = 4 → ∃ u : State, exec (.session b) s = .next (s.close u) ∧
        u.grd.tries = 5 ∧ (u.berth b).lastStat = .badPassword ∧ (u.berth b).session = (s'.berth b).session)) ∧
    (q.mode = 0 → q.only fs = true → 1 ≤ k → k ≤ 7 → q.xc = 2 →
      (s'.grd.colourPw.getD k none = none → done s' .badPassword) ∧
      (s'.grd.colourPw.getD k none ≠ none → 5 ≤ s'.grd.tries → done s' .entryBlocked)) ∧
    (∀ ch d, q.mode = 0 → q.only fs = true → 8 ≤ k → (s'.berth b).session.chal = some ch → d.length = 32 →
      (q.xc = 0 ∧ s'.dataFor b q none d ∨
       q.xc = 1 ∧ scratchWordOk (q.extWord 0) = true ∧ (s'.berth b).misfit (some (bits (q.extWord 0) 0 18)) 32 = false ∧
         s'.dataFor b q (some (bits (q.extWord 0) 0 18)) d) →
      ∃ u : State, exec (.session b) s = .next (s.close u) ∧
        (colourKeyed k = true → (u.berth b).session.chal = none ∧
          (d = hmac (Config.colourKey k) (responseText ch k) → (u.berth b).lastStat = .ok ∧
            (u.berth b).session.set = setBit (s'.berth b).session.set k) ∧
          (d ≠ hmac (Config.colourKey k) (responseText ch k) → (u.berth b).lastStat = .badPassword ∧
            (u.berth b).session.set = (s'.berth b).session.set ∧ (u.berth b).session.pause = 64 ∧
            u.grd.hmacFail = satInc s'.grd.hmacFail)) ∧
        (colourKeyed k = false → (u.berth b).lastStat = .badPassword ∧
          (u.berth b).session = { (s'.berth b).session with chal := none })) ∧
    (q.mode = 0 → q.only fs = true → 8 ≤ k → (s'.berth b).session.chal = none →
      (q.xc = 0 ∧ (s'.berth b).kind = false ∨
       q.xc = 1 ∧ scratchWordOk (q.extWord 0) = true ∧ (s'.berth b).misfit (some (bits (q.extWord 0) 0 18)) 32 = false) →
      done s' .wrongState) ∧
    (q.mode = 1 → q.only (fs ++ [fDst]) = true → q.xc = 0 →
      ((s'.berth b).session.pause = 0 → ∃ (u : State) (c : W64), exec (.session b) s = .next (s.close u) ∧
        (u.berth b).session.chal = some c ∧ (u.berth b).reg q.dst = c ∧ (u.berth b).lastStat = .ok) ∧
      ((s'.berth b).session.pause ≠ 0 →
        exec (.session b) s = .next (s.close (s'.waitFor b .waitt (Cur.init q .challenge))))) ∧
    (2 ≤ q.mode → q.mode ≤ 3 → q.only fs = true → q.xc = 0 →
      done (s'.modBerth b fun x => { x with session := { x.session with
        set := if q.mode = 3 then 1 else clearBit x.session.set k ||| 1 } }) .ok)) ∧
  (∀ (s : State) (b : BerthId) (c : Cur), (s.berth b).cur = some c → c.phase = .challenge → (s.berth b).session.pause = 0 →
    ∃ (u : State) (v : W64), exec (.challengePauseEnd b) s = .next (s.close u) ∧ (u.berth b).session.chal = some v ∧
      (u.berth b).reg c.ins.dst = v ∧ (u.berth b).cur = none)

/-- GUARD closes the gate for its region, and the drain installs the new colour and read-only bit and nothing else of the
region (R228 to R231); one tide later an undrained gate fails with GATE_TIMEOUT and the old rules stay. -/
def Obligations.GuardCompletes : Prop :=
  (∀ (s : State) (b : BerthId) (q : QInstr), s.mayRun b q →
    let s' := s.takeTurn b q
    q.op = 0x61 → q.only [fXc] = true → q.xc = 1 →
    bits (q.extWord 0) 6 2 = 0 → bits (q.extWord 0) 13 51 = 0 → s'.entryOk (guardRegion q) → s'.guardRefusal b q = none →
    s'.flashReady → s'.hup.answerItem commitCost = .admitted → s'.grd.gate = none →
    ∃ u : State, exec (.guard b) s = .next (s.close u) ∧
      u.grd.gate = some { regions := BitVec.ofNat 64 (2 ^ guardRegion q), owner := b, tidesLeft := 1 } ∧
      (u.berth b).state = .running ∧ ((u.berth b).cur.map (·.phase)) = some .drain ∧ u.rgn = s'.rgn ∧
      u.hup.d = s'.hup.d + commitCost) ∧
  (∀ (s : State) (b : BerthId) (c : Cur), c.ins.op = 0x61 → c.writeThrough = false → c.status = .ok →
    s.guardRefusal b c.ins = none →
    let r := guardRegion c.ins
    let u := s.guardInstall b c
    let old := (s.region r).cfg.val
    let new := (u.region r).cfg.val
    (u.region r).cfg.ok = true ∧ bits new 4 4 = guardColour c.ins ∧ bit new 3 = guardRo c.ins ∧
    new &&& ~~~(0xF8 : W32) = old &&& ~~~(0xF8 : W32) ∧ (∀ n, n < 64 → n ≠ r → u.region n = s.region n) ∧
    (s.ownsGate b = true → u.grd.gate = none) ∧ (u.berth b).lastStat = .ok ∧ (u.berth b).cur = none) ∧
  (∀ (s : State) (g : Gate) (c : Cur), s.grd.gate = some g → g.tidesLeft = 0 → (s.berth g.owner).cur = some c →
    c.phase = .drain → (c.ins.op = 0x61 ∨ c.ins.op = 0x67) →
    ∃ u : State, exec .gateTimeout s = .next (s.close u) ∧ u.grd.gate = none ∧ u.grd.timeouts = satInc s.grd.timeouts ∧
      (u.berth g.owner).lastStat = .gateTimeout ∧ (u.berth g.owner).cur = none ∧ u.rgn = s.rgn)

/-- LOCK, UNLOCK and FERASE that the ledger covers (R236 to R241, Table REGION-6): the change of the lock waits for its
durability, with a fresh password where none is set; a right key clears the count of tries and a wrong one adds to it; a forced erase locks
the card out at once and closes every session, and its end on a controller that waits for no member leaves it unlocked, without
a password, and empty. -/
def Obligations.LockAndErase : Prop :=
  (∀ (s : State) (b : BerthId) (q : QInstr), s.mayRun b q →
    let s' := s.takeTurn b q
    s'.flashReady → s'.hup.answerItem commitCost = .admitted →
    let st := bits s'.grd.lock.val 0 2
    let waits := fun (u : State) (l : BitVec 2) (pw : PwChange) =>
      u.ftl.changes = s'.ftl.changes ++ [commitOf (some b) true [] [.lock b l pw]] ∧ u.waitsDurable b 1 none ∧
      u.grd.lock = s'.grd.lock ∧ u.grd.password = s'.grd.password
    let keyed := q.only [fXc] = true ∧ q.xc = 2 ∧ q.key.all (· == 0) = false ∧ s'.grd.tries < 5
    (q.op = 0x62 → keyed → st = 0 → s'.grd.password = none →
      ∃ (u : State) (p : Password), exec (.lock b) s = .next (s.close u) ∧ p.mac = Config.passwordMac p.salt q.key ∧
        waits u 1 (.store p)) ∧
    (∀ p, q.op = 0x62 → keyed → st = 0 → s'.grd.password = some p → Config.passwordMac p.salt q.key = p.mac →
      ∃ u : State, exec (.lock b) s = .next (s.close u) ∧ waits u 1 .keep ∧ u.grd.tries = 0) ∧
    (∀ p, q.op = 0x63 → keyed → st ≤ 1 → s'.grd.password = some p → Config.passwordMac p.salt q.key = p.mac →
      ∃ u : State, exec (.unlock b) s = .next (s.close u) ∧ waits u 0 (if st = 1 then .keep else .remove) ∧
        u.grd.tries = 0) ∧
    (∀ p, keyed → s'.grd.password = some p → Config.passwordMac p.salt q.key ≠ p.mac → s'.grd.tries < 4 →
      (q.op = 0x62 → st = 0 → ∃ u : State, exec (.lock b) s = .next (s.close u) ∧ u.grd.tries = s'.grd.tries + 1 ∧
        u.grd.lock = s'.grd.lock ∧ (u.berth b).lastStat = .badPassword) ∧
      (q.op = 0x63 → st ≤ 1 → ∃ u : State, exec (.unlock b) s = .next (s.close u) ∧ u.grd.tries = s'.grd.tries + 1 ∧
        u.grd.lock = s'.grd.lock ∧ (u.berth b).lastStat = .badPassword)) ∧
    (q.op = 0x64 → q.only [fXc] = true → q.xc = 1 → q.extWord 0 = 0x46455241 → s'.scr.active = false →
      s'.scr.draining = false → st ≠ 2 →
      ∃ u : State, exec (.ferase b) s = .next (s.close u) ∧ bits u.grd.lock.val 0 2 = 2 ∧ u.grd.erasePct = 0 ∧
        (∀ x, (u.berth x).session.set = 1) ∧ (u.berth b).state = .waiting ∧
        ((u.berth b).cur.map (·.phase)) = some .erase)) ∧
  (∀ (s : State) (n : W32), bits s.grd.lock.val 0 2 = 2 → s.grd.eraseKeysDone = true → s.flt.halted = false →
    s.alive = true → s.grd.erasePct ≠ 100 → s.position = 0 → (s.quy.out.any fun o => s.erasePart o) = false →
    ∃ u : State, exec (.feraseEraseDone n) s = .next (s.close u) ∧ bits u.grd.lock.val 0 2 = 0 ∧ u.grd.password = none ∧
      u.grd.erasePct = 100 ∧ u.store = [] ∧ ∀ r ∈ u.ftl.rows, r.cls ≠ .tlc ∧ r.cls ≠ .seedbed)

/-- QUIESCE and its deadline, APPLY, RESUME, PATCH, HEALTH and HALTCTL (R209 to R212, R327, R437, R466): QUIESCE drains its
functions and is then in force; a set that nothing refuses closes the gate for the regions that it names and is installed
whole; RESUME ends the stop; out of their state QUIESCE, APPLY, RESUME and PATCH are WRONG_STATE; a good blob is applied and stored;
HEALTH gives a header and one block of 256 bytes with its CRC; HALTCTL names the last halt record or halts. -/
def Obligations.StopChangeRestart : Prop :=
  (∀ (s : State) (b : BerthId) (q : QInstr), s.mayRun b q →
    let s' := s.takeTurn b q
    (q.op = 0x66 → q.only [(0, 4), (8, 16)] = true → s'.scr.active = false → s'.scr.draining = false →
      ∃ u : State, exec (.quiesce b) s = .next (s.close u) ∧
        u.scr = { bits := BitVec.ofNat 8 (q.imm 0 4), active := false, draining := true, owner := b,
                  tidesLeft := if q.imm 8 16 = 0 then 64 else q.imm 8 16 } ∧ (u.berth b).state = .running) ∧
    (q.op = 0x66 → q.only [(0, 4), (8, 16)] = true → (s'.scr.active = true ∨ s'.scr.draining = true) →
      exec (.quiesce b) s = .next (s.close (s'.finish b q .wrongState))) ∧
    (q.op = 0x68 → q.only [] = true → s'.scr.active = false →
      exec (.resume b) s = .next (s.close (s'.finish b q .wrongState))) ∧
    (q.op = 0x67 → q.only [fDst, fXc, (0, 9)] = true → q.xc = 0 → 1 ≤ q.imm 0 9 → q.imm 0 9 ≤ 256 → s'.scr.active = false →
      exec (.apply b) s = .next (s.close (s'.finish b q .wrongState))) ∧
    (q.op = 0x6A → q.only [fXc, (0, 20)] = true → q.xc = 0 → 0 < q.imm 0 20 → q.imm 0 20 ≤ 8192 →
      (s'.scr.active && bit s'.scr.bits 1) = false → exec (.patch b) s = .next (s.close (s'.finish b q .wrongState))) ∧
    (q.op = 0x68 → q.only [] = true → s'.scr.active = true →
      ∃ u : State, exec (.resume b) s = .next (s.close u) ∧ u.scr = Scr.init ∧
        (s'.hup.pressLatched = true → u.hup.release = .pending)) ∧
    (∀ d, q.op = 0x67 → q.only [fDst, fXc, (0, 9)] = true → 1 ≤ q.imm 0 9 → q.imm 0 9 ≤ 256 → s'.scr.active = true →
      d.length = 12 * q.imm 0 9 →
      (q.xc = 0 ∧ s'.dataFor b q none d ∨
       q.xc = 1 ∧ scratchWordOk (q.extWord 0) = true ∧
         (s'.berth b).misfit (some (bits (q.extWord 0) 0 18)) d.length = false ∧
         s'.dataFor b q (some (bits (q.extWord 0) 0 18)) d) →
      let c := { Cur.init q .data with len := d.length, acc := d }
      let rs := ((c.entries.filterMap fun e => settingAt e.addr).filterMap Setting.region).dedup
      (s'.berth b).cur = none → s'.applyRefusal b c = none → rs ≠ [] → s'.flashReady →
      s'.hup.answerItem commitCost = .admitted → s'.grd.gate = none →
      ∃ u : State, exec (.apply b) s = .next (s.close u) ∧
        u.grd.gate = some { regions := BitVec.ofNat 64 (rs.map fun r => 2 ^ r).sum, owner := b, tidesLeft := 1 } ∧
        (u.berth b).state = .running ∧ u.rgn = s'.rgn) ∧
    (∀ d, q.op = 0x6A → q.only [fXc, (0, 20)] = true → 0 < q.imm 0 20 → q.imm 0 20 ≤ 8192 → s'.scr.active = true →
      bit s'.scr.bits 1 = true → d.length = q.imm 0 20 →
      (q.xc = 0 ∧ s'.dataFor b q none d ∨
       q.xc = 1 ∧ scratchWordOk (q.extWord 0) = true ∧
         (s'.berth b).misfit (some (bits (q.extWord 0) 0 18)) d.length = false ∧
         s'.dataFor b q (some (bits (q.extWord 0) 0 18)) d) →
      ∃ u : State, exec (.patch b) s = .next (s.close u) ∧
        (patchOk d = true → u.ucs.patchState = 1 ∧ u.ucs.patchId = Config.patchIdentity d ∧ u.ucs.stored = some d ∧
          u.ucs.patchRam = ((Config.patchWords d).take 256).map MicroWord.of ∧ (u.berth b).lastStat = .ok) ∧
        (patchOk d = false → u.ucs = s'.ucs ∧ (u.berth b).lastStat = .badSignature)) ∧
    (q.op = 0x65 → q.only [fDst, fXc] = true → q.xc = 0 → s'.healthPositions = [s'.position] → s'.stagingRoom = true →
      272 ≤ s'.lnk.pay → s'.lnk.mode = .narrow →
      ∃ (u : State) (d : List Byte) (r : List UpParcel), exec (.health b) s = .next (s.close u) ∧
        u.nar.up = s'.nar.up ++ ⟨BitVec.ofNat 16 b.val, q.tag, .data d true⟩ :: r ∧ d.length = 272 ∧
        d.take 4 = [1, 1, 0x10, 0x01] ∧ d.drop 270 = leBytes 2 (crc16 ((d.drop 16).take 254)).toNat ∧
        (u.berth b).reg q.dst = 272) ∧
    (q.op = 0x6B → q.modeBit 0 = false → q.only [fDst] = true →
      exec (.haltctl b) s = .next (s.close (s'.finish b q .ok 0 none (some (match s'.flt.haltSeq with
        | some n => s'.ownSeq n
        | none => BitVec.allOnes 64))))) ∧
    (q.op = 0x6B → q.modeBit 0 = true → q.only [(40, 1), (0, 32)] = true → q.imm 0 32 = 0x48414C54 →
      ∃ u : State, exec (.haltctl b) s = .next (s.close u) ∧ u.flt.halted = true)) ∧
  (∀ s : State, s.scr.draining = true → s.scr.tidesLeft = 0 →
    ∃ u : State, exec .quiesceDeadline s = .next (s.close u) ∧ u.scr.active = true ∧ u.scr.draining = false) ∧
  (∀ (s : State) (b : BerthId) (c : Cur), s.applyRefusal b c = none → c.status = .ok →
    (s.applyInstall b c).waitsDurable b 1 (some (BitVec.ofNat 64 c.entries.length)))

/-! ### Ledger, media and logbook events (09, 10, 12) -/

/-- The ledger's wait ends uncovered (R358, R359); a die operation succeeds, is decoded, or fails (R21, R307, R318 to R323); the
map's root is written (R308); checkpoints by count and their signature, or none while the pool is spent (R280, R281, Table LOG-5);
a full counter journal moves (R296); ARCHGO, and its wait for the ledger (R291; how it waits is log 155). -/
def Obligations.MediaEvents : Prop :=
  (∀ (s : State) (b : BerthId) (i : WaitItem), (s.hup.queue.find? fun i => i.berth == b) = some i → i.tidesLeft = 0 →
    exec (.ledgerWaitExpiry b) s = .next (s.close ((s.leaveLedger b).proceed b false))) ∧
  (∀ (s : State) (id : Nat) (o : DieOp), s.rst.power = .on → s.rst.phase ≠ .held →
    (s.dies.find? fun o => o.id == id) = some o → o.run = true → o.suspended = false →
    let t := { s with dies := s.dies.filter fun o => o.id != id }
    let ends := fun (r : DieResult) (u : State) => exec (.dieOperationDone id r) s = .next (s.close u)
    (∀ c, o.kind = .program c → ends .ok (t.addChange c)) ∧
    (∀ n cs, o.kind = .journal n cs → ends .ok ((cs.foldl State.commitChange t).enter n cs (cs.flatMap t.itemsOf))) ∧
    (∀ n cb, o.kind = .logCopy n cb → ends .ok (t.logCopyDone n cb)) ∧
    (∀ r, o.kind = .eraseRow r → ends .ok (t.freeRow r)) ∧
    ((∀ b, o.kind ≠ .read b) → (∀ i, o.kind ≠ .memberLog i) → (∀ i, o.kind ≠ .memberRead i) →
      o.kind ≠ .patrol → ends .ok (t.dieOk o.kind)) ∧
    (∀ b c bs m, o.kind = .read b → (s.berth b).cur = some c → c.ins.op ≠ 0x41 → ends (.decoded bs m) (t.readDies b bs m)) ∧
    (∀ b c fs, o.kind = .read b → (s.berth b).cur = some c → c.ins.op = 0x41 → ends (.logDecoded fs) (t.logReadDone b fs)) ∧
    (∀ i bs m, o.kind = .memberRead i → ends (.decoded bs m) (t.memberServed i bs m)) ∧
    (∀ d x, o.kind.programs = true → ends (.programFail d x) (s.programFailed o d x)) ∧
    (∀ d, ends (.dieDead d) ((s.dieDied d).avoidDie false d)) ∧
    (∀ d, o.kind.erases = true → ends (.eraseFail d) ((t.eraseFailed o.kind d).opOk o.kind))) ∧
  (∀ s : State, s.alive = true → 1024 ≤ s.ftl.since →
    ∃ u : State, exec .rootWrite s = .next u ∧ u.ftl.since = 0 ∧ u.ftl.rootSlot = !s.ftl.rootSlot ∧
      u.ftl.root.map Root.seq = some (Pair.mk' s.ftl.jSeq) ∧ u.log.unsealedKept = s.log.unsealed) ∧
  (∀ s : State, s.alive = true → s.log.cpDue = true → s.log.fenced = false → s.position = 0 → s.flt.halted = false →
    ∃ u : State, exec .autoCheckpoint s = .next (s.close u) ∧
      u.log = { s.log with signing := s.log.signing ++ [{
        through := s.log.next - 1, head := s.log.prevHash, owner := none, cost := 0, asked := s.tim.counter
        heads := Vector.replicate 4 none }] } ∧
      u.quy.orders = s.quy.orders ++ (if s.quy.map.val = 0 then [] else [.checkpointFetch])) ∧
  (∀ (s : State) (c : CpSigning) (r : List CpSigning), s.log.signing = c :: r → s.log.exhausted = false →
    ∃ (u : State) (x : LogRec), exec .checkpointSigned s = .next (s.close u) ∧ u.log.recs = s.log.recs ++ [x] ∧
      x.typ = 2 ∧ x.card = true ∧ x.seq = s.ownSeq s.log.next ∧ x.prev = s.log.prevHash ∧
      x.payload.take 8 = leBytes 8 c.through.toNat ∧ u.log.signing = r ∧ u.log.lastCp = s.log.next ∧
      u.log.signatures = s.log.signatures + 1) ∧
  (∀ (s : State) (c : CpSigning) (r : List CpSigning), s.log.signing = c :: r → s.log.exhausted = true →
    ∃ u : State, exec .checkpointSigned s = .next (s.close u) ∧ u.log.recs = s.log.recs ∧ u.log.signing = r ∧
      u.log.unsealed = satInc s.log.unsealed) ∧
  (∀ s : State, s.alive = true →
    (s.ctr.liveA = true → 12288 ≤ s.ctr.usedA → ∃ u : State, exec (.counterJournalSwitch false) s = .next (s.close u) ∧
      u.ctr.usedA = 32 ∧ ∀ n v, (s.counter n).value = some v → (u.counter n).a = some (Pair.mk' v)) ∧
    (s.ctr.liveB = true → 12288 ≤ s.ctr.usedB → ∃ u : State, exec (.counterJournalSwitch true) s = .next (s.close u) ∧
      u.ctr.usedB = 32 ∧ ∀ n v, (s.counter n).value = some v → (u.counter n).b = some (Pair.mk' v))) ∧
  (∀ s : State, s.alive = true →
    let v := s.log.archSetH ++ s.log.archSetL
    (∀ c r, c ∈ s.log.cps → c.through = v → s.log.find (s.ownSeq c.seq) = some r → r.durable = true →
      s.log.arch.toNat < v.toNat →
      (s.hup.answerItem sealCost ≠ .wait → ∃ u : State, exec .logArchgo s = .next (s.close u) ∧ u.log.arch = v) ∧
      (s.hup.answerItem sealCost = .wait →
        exec .logArchgo s = .next (s.close { s with log := { s.log with archWait := some (v, s.hup.waitTides) } }))) ∧
    (v.toNat ≤ s.log.arch.toNat → exec .logArchgo s = .next (s.close s)))

/-! ### Registers (R14 to R16, R57, R84) -/

/-- The commands that read or write one register (R57, R270, R293, R347, R374, R414, Tables LOG-9, MEM-5 and LANE-8):
snapshots latch, clears clear, the flip-mask arms, the backup pair is committed only whole, a write that no register takes
changes nothing, and the TAP takes its instruction. -/
def Obligations.RegisterCommands : Prop :=
  ∀ s : State, s.alive = true →
    (exec .logCertdatRead s = .next { s with log := { s.log with
      certDat := BitVec.ofNat 32 (ofLe (slice Config.certificate (4 * bits s.log.certOff 2 8) 4)),
      certOff := BitVec.ofNat 32 ((bits s.log.certOff 2 8 + 1) % 256 * 4) } }) ∧
    (∀ v, bit s.ctr.fence (bits s.ctr.sel 0 5) = false → (s.counter (Fin.ofNat 32 (bits s.ctr.sel 0 5))).value = some v →
      badPair (s.counter (Fin.ofNat 32 (bits s.ctr.sel 0 5))).a = false →
      badPair (s.counter (Fin.ofNat 32 (bits s.ctr.sel 0 5))).b = false →
      exec .ctrVallRead s = .next (s.close { s with ctr := { s.ctr with snap := Pair.mk' v } })) ∧
    (exec .ringTaillRead s = .next { s with rng := { s.rng with tailSnap := (s.ring (bits s.rng.sel 0 6)).tail } }) ∧
    (s.hup.pairsOk = true →
      exec .hupEuRead s = .next (s.close { s with hup := { s.hup with snapEu := s.hup.eu, snapDebit := s.hup.debit } })) ∧
    (exec .codPeakClr s = .next { s with cod := { s.cod with peakBits := 0, peakCode := 0 } }) ∧
    (∃ u : State, exec .lnkClr s = .next u ∧ u.nar.tokCrc = 0 ∧ u.nar.timeout = 0 ∧ u.lnk.hcrc = 0 ∧ u.lnk.pcrc = 0 ∧
      u.lnk.format = 0 ∧ u.lnk.seqGap = 0 ∧ u.lnk.noCredit = 0 ∧ u.lnk.retrainCount = 0 ∧ u.lnk.mode = s.lnk.mode ∧
      u.nar.up = s.nar.up) ∧
    (∀ m, s.memSel = some m → bits (s.memOf m).flipMask 0 8 ≠ 0 → m.val ≠ 7 → m.val ≠ 8 →
      (m.val = 0 → writeShareWords ≤ (s.memOf m).flipAddr.toNat) →
      exec .memFlipctlArm s = .next (s.setMem m { s.memOf m with flipArmed := true })) ∧
    (∀ m, s.memSel = some m → (m.val = 7 ∨ m.val = 8) → exec .memFlipctlArm s = .next s) ∧
    (∀ (a : W16) (v : W32), (a.toNat % 4 ≠ 0 ∨ 0x8000 ≤ a.toNat) → exec (.registerWrite a v) s = .next (s.close s)) ∧
    (4 ≤ s.rst.bkSel.toNat → s.rst.bkch ++ s.rst.bkcl = ~~~(s.rst.bkh ++ s.rst.bkl) →
      ∃ u : State, exec .rstBkcmdWrite s = .next (s.close u) ∧ u.rst.bk[s.bkIndex] = Pair.mk' (s.rst.bkh ++ s.rst.bkl) ∧
        bit u.rst.bkValid s.rst.bkSel.toNat = true) ∧
    ((s.rst.bk[s.bkIndex]).ok = true →
      exec .rstBklRead s = .next (s.close { s with rst := { s.rst with bkSnap := s.rst.bk[s.bkIndex] } })) ∧
    (∀ op, exec (.tapInstruction op) { s with rst := { s.rst with power := .boardTest } } =
      .next { s with rst := { s.rst with power := .boardTest }, tap := op })

/-- A write to TIM_SERVO, TIM_STEPTHR, TIM_SYNCAGE or TIM_HOLDMAX takes effect at the next tide boundary (R71). -/
def Obligations.PacedRegisters : Prop :=
  (∀ (s : State) (v : W32), s.alive = true →
    exec (.registerWrite 0x2028 v) s = .next (s.close { s with tim := { s.tim with servo := v &&& 0xFFFF } }) ∧
    exec (.registerWrite 0x202C v) s = .next (s.close { s with tim := { s.tim with stepThr := v &&& 0xFFFFFF } }) ∧
    exec (.registerWrite 0x2030 v) s = .next (s.close { s with tim := { s.tim with syncAge := v &&& 0xFFFF } }) ∧
    exec (.registerWrite 0x2034 v) s = .next (s.close { s with tim := { s.tim with holdMax := v &&& 0x3FFF } })) ∧
  (∀ (s : State) (m : Measure), s.alive = true →
    ∃ u : State, exec (.tideBoundary m) s = .next (s.close u) ∧ u.tim.servoNow = s.tim.servo ∧
      u.tim.stepThrNow = s.tim.stepThr ∧ u.tim.syncAgeNow = s.tim.syncAge ∧ u.tim.holdMaxNow = s.tim.holdMax)

/-! ### Memories and codes (11) -/

/-- A byte written to pool or scratch reads back, every other byte stays, and the canonical form is kept (R175, R232).
Memory errors as they arise (R342 to R346, Table MEM-2): each is counted with its address and raises its source, one
that recurs is remapped, or its page withdrawn when every entry is used; an uncorrectable one in the retained SRAM unsets what
of R414 lies in its page (where each lies is log 158), one in DRAM whose entries are used up loses a device, and one in buffer, pool or scratch has its consequence for
the requester; a scrub counts the pages that it drops. -/
def Obligations.Memories : Prop :=
  (∀ (m : List Host.Cell) (a : Nat) (v : Byte), Memory.wf m = true →
     Memory.wf (Memory.write m a v) = true ∧ Memory.read (Memory.write m a v) a = v ∧
     (∀ x, x ≠ a → Memory.read (Memory.write m a v) x = Memory.read m x) ∧
     (∀ n x, Memory.wf (Memory.clear m a n) = true ∧
       Memory.read (Memory.clear m a n) x = if a ≤ x ∧ x < a + n then 0 else Memory.read m x)) ∧
  (∀ s : State, s.alive = true →
     (∀ (m : Fin 10) (a : W32), exec (.memoryCorrected m a false) s = .next (s.close
       ((s.setMem m { s.memOf m with ce := satInc (s.memOf m).ce, lastCe := a }).raise (ceSource m) .note))) ∧
     (∀ (m : Fin 10) (a : W32), exec (.memoryCorrected m a true) s = .next (s.close
       (((s.setMem m { s.memOf m with ce := satInc (s.memOf m).ce, lastCe := a }).raise (ceSource m) .note).remap m a))) ∧
     (∀ (m : Fin 10) (a : W32), 3 ≤ m.val → m.val ≤ 7 →
       exec (.memoryUncorrectable m a) s = .next (s.close
         (((s.setMem m { s.memOf m with ue := satInc (s.memOf m).ue, lastUe := a }).raise (ueSource m).1 (ueSource m).2
           (ueUnit m)).remap m a))) ∧
     (∀ (m : Fin 10) (a : W32), exec (.memoryUncorrectable m a) s =
       .next (s.close ((s.memUe m a).requesterLost m a))) ∧
     (∀ a : W32, exec (.memoryUncorrectable 8 a) s = .next (s.close
       ((((s.setMem 8 { s.memOf 8 with ue := satInc (s.memOf 8).ue, lastUe := a }).raise (ueSource 8).1 (ueSource 8).2
         (ueUnit 8)).remap 8 a).unsetPage (memPage 8 a.toNat)))) ∧
     (∀ p : Nat,
       (Config.retainedPage 0 = p → (s.unsetPage p).rst.cause = 0) ∧ (Config.retainedPage 1 = p → (s.unsetPage p).grd.tries = 0) ∧
       (Config.retainedPage 2 = p → (s.unsetPage p).log.unsealed = s.log.unsealedKept) ∧
       (Config.retainedPage 4 = p → (s.unsetPage p).rst.strapFaults = 0 ∧ (s.unsetPage p).rst.trimTries = 0) ∧
       (s.unsetPage p).rst.bk = s.rst.bk ∧ (s.unsetPage p).store = s.store) ∧
     (∀ a : W32,
       let t := ((s.setMem 9 { s.memOf 9 with ue := satInc (s.memOf 9).ue, lastUe := a }).raise 49 .degrade).remap 9 a
       exec (.memoryUncorrectable 9 a) s = .next (s.close (if 16 ≤ (s.memOf 9).remap.length then
         t.draw.2.raise 50 .degrade (.dram t.dramDevice) else t))) ∧
     (∀ (m : Fin 10) (a : W32), (s.memOf m).remap.contains a = false →
       ((s.memOf m).remap.length < 16 → ((s.remap m a).memOf m).remap = (s.memOf m).remap ++ [a]) ∧
       (16 ≤ (s.memOf m).remap.length → (s.memOf m).withdrawn.contains (memPage m a.toNat) = false → s.remap m a =
         (s.setMem m { s.memOf m with withdrawn := (s.memOf m).withdrawn ++ [memPage m a.toNat] }).raise 38 .degrade)) ∧
     (∀ ps : List Nat, s.dom 12 = .on → s.dramLost = false →
       exec (.dramScrub ps) s = .next (s.close ((List.range ps.length).foldl (fun s _ => s.raise 49 .degrade)
         { s with mem := { s.mem with crcFail := satNat 16 (s.mem.crcFail.toNat + ps.length) } }))))

/-! ### Hold-up, removal, release (12) -/

/-- The capacitance test (R351 to R353) and the release sequence (R240, R369, Table HUP-7): a test debits and ends with C
measured or, after one bad figure, with another try; a press that counts asks the host, and the card closes once the host
has finished or two seconds have passed: step 4 ends when berths 8-511 are at rest or after 64 tides, and step 5 leaves the card
safe; a press of 8 s while locked does nothing. -/
def Obligations.HoldUpEvents : Prop :=
  ∀ s : State, s.alive = true →
    (let n := capCost s.hup.bankMv.toNat
     s.capReady = true → s.hup.pairsOk = true → s.hup.capFrom.toNat + 3600000000000 ≤ s.tim.counter.toNat →
     ∃ u : State, exec .capTestStart s = .next (s.close u) ∧ u.hup.capTest = some n ∧ u.hup.capFrom = s.tim.counter ∧
       u.hup.charging = false ∧ u.hup.capReq = false ∧ u.hup.debit = Pair.mk' (s.hup.debit.val + BitVec.ofNat 24 n)) ∧
    (exec .hupCaptestGo s = .next { s with hup := { s.hup with capReq := true } }) ∧
    (∀ n mv, s.hup.capTest = some n → 50 ≤ mv → mv ≤ 5000 → 1000000 % mv = 0 →
      ∃ u : State, exec (.capTestEnd mv) s = .next (s.close u) ∧ u.hup.capUf = satNat 16 (1000000 / mv) ∧
        u.hup.capGood = true ∧ u.hup.capFails = 0 ∧ u.hup.capTest = none ∧ u.hup.charging = true) ∧
    (∀ n mv, s.hup.capTest = some n → (mv < 50 ∨ 5000 < mv) → s.hup.capFails = 0 →
      ∃ u : State, exec (.capTestEnd mv) s = .next (s.close u) ∧ u.hup.capUf = s.hup.capUf ∧ u.hup.capLast = 2 ∧
        u.hup.capFails = 1 ∧ u.hup.capReq = true ∧ u.hup.capTest = none) ∧
    (∀ ms, s.pressCounts ms = true →
      ∃ u : State, exec (.btnPress ms) s = .next (s.close u) ∧ bit u.pmu.wakeSrc 3 = true ∧ u.grd = s.grd ∧
        (if s.scr.active || s.scr.draining then u.hup.pressLatched = true ∧ u.hup.release = s.hup.release
         else u.hup.release = .pending)) ∧
    (∀ ms, bits s.grd.lock.val 0 2 = 1 → 8000 ≤ ms → exec (.btnPress ms) s = .next s) ∧
    (s.hup.release = .pending →
      (∃ u : State, exec .hupRelDone s = .next (s.close u) ∧ u.hup.release = .closing ∧ u.hup.relLeft = 64) ∧
      (∃ u : State, exec .releaseTimeout s = .next (s.close u) ∧ u.hup.release = .closing ∧ u.hup.relLeft = 64)) ∧
    (s.hup.release = .closing → s.flt.halted = false →
      (s.hup.relLeft = 0 → s.releaseDue.hup.release = .safe) ∧
      (s.hup.relLeft ≠ 0 → (s.hup.relLeft = 1 ∨ ∀ b : BerthId, 8 ≤ b.val → (s.berth b).cur = none) →
        s.releaseDue.hup.release = .closing ∧ s.releaseDue.hup.relLeft = 0)) ∧
    (s.hup.release ≠ .pending → exec .hupRelDone s = .next (s.close s))

/-- The removal sequence (R362 to R365, R404, R459): its source is noted and whether it is clean, intake ends, and SB0 is low
with cause 2; with the bank's yield at or above the debit it is clean where the card is ready, not halted and not on a bench; a
second event changes nothing. At the boundary that ends it (log 14), and at once in a reset, the power goes off without VIN, which
ends HALT; with VIN back a Total reset follows, whose last source is released after 10 ms. -/
def Obligations.RemovalCompletes : Prop :=
  (∀ (s : State) (y : Nat) (back : Bool), s.rst.power = .on → s.hup.removing = false →
    let begun := fun (u : State) => u.hup.removing = true ∧ u.hup.onBank = true ∧ u.hup.rmvClean = s.removalClean y ∧
      u.hup.rmvBack = back ∧ u.rst.power = .on ∧ u.busyCause 2 = true ∧
      (s.flt.halted = false → u.hup.queue = [] ∧ ∀ b, (u.berth b).cur = none)
    (s.rst.phase ≠ .held →
      (∃ u : State, exec (.detFall y back) s = .next u ∧ begun u ∧ u.hup.rmvSrc = 1) ∧
      (∃ u : State, exec (.vinCollapse y back) s = .next u ∧ begun u ∧ u.hup.rmvSrc = 2) ∧
      (s.isMember = true → ∃ u : State, exec (.quayRemovalFrame y back) s = .next u ∧ begun u)) ∧
    (s.rst.phase = .held →
      (∃ u : State, exec (.detFall y false) s = .next u ∧ u.rst.power = .off ∧ u.hup.removing = false) ∧
      (∃ u : State, exec (.vinCollapse y false) s = .next u ∧ u.rst.power = .off ∧ u.hup.removing = false))) ∧
  (∀ (s : State) (y : Nat) (back : Bool), s.rst.power = .on → s.hup.removing = true →
    exec (.detFall y back) s = .next s ∧ exec (.vinCollapse y back) s = .next s) ∧
  (∀ (s : State) (m : Measure), s.rst.power = .on → s.hup.removing = true →
    (s.hup.rmvBack = false → ∃ u : State, exec (.tideBoundary m) s = .next u ∧ u.rst.power = .off ∧ u.rst.phase = .held ∧
      u.flt.halted = false ∧ u.hup.removing = false ∧ u.hup.onBank = false) ∧
    (s.hup.rmvBack = true → ∃ u : State, exec (.tideBoundary m) s = .next u ∧ u.rst.power = .on ∧ u.rst.phase = .held ∧
      u.rst.widest = .total ∧ u.rst.asserted = 0x1000 ∧ u.flt.halted = false ∧ u.hup.removing = false ∧
      exec .pmuRestartTimeout u = .next { u with rst := { u.rst with asserted := 0 } })) ∧
  (∀ (s : State) (y : Nat), s.rst.phase ≠ .held → s.rst.level = .ready → s.flt.halted = false → s.hup.ledger ≠ .bench →
    s.removalClean y = decide (s.hup.d ≤ y))

/-! ### Power and clocks (13) -/

/-- The handshake of a domain (R376, R380 to R382), wakes (R387), rails (R396) and clocks (R392, R397, R398, R74). -/
def Obligations.PowerAndClocks : Prop :=
  ∀ s : State, s.alive = true →
    (∀ v, s.pmu.pend = false → bits v 4 2 = 3 → exec (.pmuReqGo v) s = .next (s.close s)) ∧
    (∀ v, s.pmu.pend = false → (bits v 4 2 = 1 ∨ bits v 4 2 = 2) →
      ∃ u : State, exec (.pmuReqGo v) s = .next (s.close u) ∧ u.pmu.pend = true ∧ u.pmu.answer = 0 ∧
        u.pmu.req = v &&& 0x3F ∧ u.pmu.dom = s.pmu.dom ∧ u.pmu.change = s.pmu.change) ∧
    (∀ v, s.pmu.pend = false → bits v 4 2 = 0 → s.dom (Fin.ofNat 16 (bits v 0 4)) ≠ .failed →
      ∃ u : State, exec (.pmuReqGo v) s = .next (s.close u) ∧ u.pmu.answer = 1 ∧
        (s.dom (Fin.ofNat 16 (bits v 0 4)) ≠ .on → u.pmu.change.contains (Fin.ofNat 16 (bits v 0 4), Dom.on) = true)) ∧
    (let d : Fin 16 := Fin.ofNat 16 (bits s.pmu.req 0 4)
     let off := bits s.pmu.req 4 2 == 2
     s.pmu.pend = true →
       (∀ rs r, s.pmu.answer ≠ 2 → s.lowerRefusal d off = some r →
         exec (.pmuAnswer rs) s = .next (s.close (s.answerRefuse r))) ∧
       (s.pmu.answer ≠ 2 → s.lowerRefusal d off = none → exec (.pmuAnswer [.accept]) s =
         .next (s.close (s.answerAccept d (if off then .off else .retention)))) ∧
       (∀ n, s.pmu.answer ≠ 2 → s.lowerRefusal d off = none → 0 < n → s.pmu.delayN ≠ 4 →
         ∃ u : State, exec (.pmuAnswer [.delay n]) s = .next (s.close u) ∧ u.pmu.answer = 2 ∧ u.pmu.pend = true ∧
           u.pmu.delayLeft = n ∧ u.pmu.dom = s.pmu.dom) ∧
       (∀ rs, s.pmu.answer = 2 → s.pmu.delayLeft ≠ 0 → exec (.pmuDelayEnd rs) s = .next s) ∧
       (s.pmu.answer = 2 → s.pmu.delayLeft = 0 → s.lowerRefusal d off = none → exec (.pmuDelayEnd [.accept]) s =
         .next (s.close (s.answerAccept d (if off then .off else .retention)))) ∧
       (∀ n, s.pmu.answer = 2 → s.pmu.delayLeft = 0 → s.lowerRefusal d off = none → 0 < n → s.pmu.delayN = 4 →
         exec (.pmuDelayEnd [.delay n]) s = .next (s.close (s.answerRefuse 2)))) ∧
    (∀ d : Fin 16, bit s.pmu.waking d.val = true → d ≠ 12 → exec (.domainWakeDone d) s =
      .next (s.close { s with pmu := { s.pmu with waking := clearBit s.pmu.waking d.val } })) ∧
    (bit s.pmu.waking 12 = true → exec (.domainWakeDone 12) s = .next (s.close { s with pmu := { s.pmu with
      waking := clearBit s.pmu.waking 12, pgood := s.pmu.pgood ||| (0x0C &&& ~~~s.pmu.railFailed), vdd2In := none } })) ∧
    (∀ k : Fin 6, bit s.pmu.railFailed k.val = false →
      (bit s.pmu.retried k.val = false → exec (.railPgoodTimeout (.rail k)) s = .next { s with pmu := { s.pmu with
        retried := setBit s.pmu.retried k.val, pgood := clearBit s.pmu.pgood k.val } }) ∧
      (bit s.pmu.retried k.val = true → k.val ≤ 1 → ∃ u : State, exec (.railPgoodTimeout (.rail k)) s = .next (s.close u) ∧
        u.rst.power = .railFault ∧ bit u.pmu.railFailed k.val = true)) ∧
    (∀ d : Fin 16, s.dom d ≠ .failed → bit s.pmu.switchRetried d.val = true →
      exec (.railPgoodTimeout (.switch d)) s = .next (s.close (s.domainLost d))) ∧
    (s.pmu.rcOnly = false → s.pmu.pll = false →
      exec .pllReady s = .next { s with pmu := { s.pmu with pll := true, xtal := true, locks := 0xF } } ∧
      ∃ xtal locks, exec .pllReadyTimeout s = .next (s.close (s.draw.2.fallToRc xtal locks))) ∧
    (∀ c, s.pmu.pll = true →
      let t := match c with
        | .crystal => s.fallToRc false 0
        | .pll k => s.fallToRc s.pmu.xtal (clearBit s.pmu.locks k.val)
      t.lnk.mode = .narrow → exec (.clockLost c) s = .next (s.close t)) ∧
    (∃ u : State, exec (.rcOscFail true) s = .next u ∧ u.rst.power = .noClock ∧ u.rst.phase = .held) ∧
    (∃ u : State, exec (.rcOscFail false) s = .next u ∧ bit u.rst.cause 4 = true ∧ u.rst.phase = .deferring) ∧
    (s.lnk.mode = .narrow → exec .hrefLost s = .next { s with lnk := { s.lnk with hrefOk := false } }) ∧
    (s.lnk.mode = .lane → s.lnk.hrefOk = true →
      exec .hrefLost s = .next (s.close ({ s with lnk := { s.lnk with hrefOk := false } }.raise 31 .degrade))) ∧
    (exec .hrefStable s = .next { s with lnk := { s.lnk with hrefOk := true } })

/-! ### Reset (14) -/

/-- Every source sets its bit in RST_CAUSE and begins a deferral where the card runs (R400, R405, Table RST-1); a Total source
waits for nothing, and without VAON the power is gone. -/
def Obligations.ResetSources : Prop :=
  ∀ s : State, s.alive = true →
    let defers := fun (c : Instr) (i : Nat) => ∃ u : State, exec c s = .next u ∧ bit u.rst.cause i = true ∧
      u.rst.phase = .deferring ∧ u.rst.power = .on
    defers .aonWatchdog 4 ∧ defers .coreWatchdog 9 ∧ defers .firmwareResetRequest 10 ∧
    (s.isMember = true → defers .quayWarmResetFrame 10 ∧ defers .mrstFall 3) ∧
    (∃ u : State, exec .brownOut s = .next u ∧ u.rst.cause = 2 ∧ u.rst.phase = .held ∧ u.rst.widest = .total ∧
      u.rst.uncleanLast = true) ∧
    (∃ u : State, exec .vaonFail s = .next u ∧ u.rst.power = .off ∧ u.rst.phase = .held) ∧
    (∀ t : State, exec .mrstRise t = .next { t with rst := { t.rst with
      mrstLow := false, asserted := clearBit t.rst.asserted 3 } })

/-- HRST# (R401): a low shorter than 2 us is ignored; after 2 us it is a warm source; still low after 1 ms it is a cold
source, and bit 2 replaces bit 7. -/
def Obligations.HrstLadder : Prop :=
  ∀ s : State, s.alive = true → s.position = 0 → s.rst.hrst = .high →
    ∃ t : State, exec .hrstFall s = .next t ∧
      (∃ u : State, exec .hrstRelease t = .next u ∧ u.rst.cause = s.rst.cause ∧ u.rst.phase = s.rst.phase ∧
        u.rst.hrst = .high ∧ u = { s with rst := u.rst }) ∧
      ∃ w : State, exec .hrstWarmSource t = .next w ∧ bit w.rst.cause 7 = true ∧ w.rst.widest = .warm ∧
        w.rst.phase = .deferring ∧
        ∃ c : State, exec .hrstColdSource w = .next c ∧ bit c.rst.cause 2 = true ∧ c.rst.widest = .cold ∧
          bit c.rst.cause 7 = bit s.rst.cause 7

/-- Resets end (R403, R405, R406, R408 to R413, Tables RST-2 and RST-5): the deferral makes what was admitted durable and commits
the status blocks; the exit clears the berths and the link, reads strap and trims where the reach is cold or wider, and starts
the cores; recovery ends at ready level 2; an idle domain takes its block reset. -/
def Obligations.ResetEnds : Prop :=
  (∀ (s : State) (n : W16), s.rst.power = .on → s.rst.phase = .deferring →
    ∃ u : State, exec (.resetDeferralEnd n) s = .next u ∧ u.rst.phase = .held ∧
      u.rst.deferUs = BitVec.ofNat 16 (min n.toNat 8000) ∧ ∀ b, (u.berth b).saved = (u.berth b).image) ∧
  (∀ (s : State) (ds : List (Fin 128)), s.rst.power = .on → s.rst.phase = .deferring →
    ∃ u : State, exec (.deferralFenceTimeout ds) s = .next u ∧ u.rst.deferFenced = BitVec.ofNat 8 (min 255 ds.length)) ∧
  (∀ (s : State) (x : ExitReading), s.rst.power = .on → s.rst.phase = .held → s.rst.asserted = 0 →
    let started := fun (u : State) (last : BitVec 2) => u.rst.phase = .running ∧ u.rst.last = last ∧
      u.rst.level ≠ .ready ∧ u.lnk.mode = .narrow ∧ u.lnk.agreed.val = 0 ∧ u.tim.period = 1 ∧ u.pool = [] ∧ u.scratch = [] ∧
      u.pending = s.pending ∧
      ∀ b, (u.berth b).state = .empty ∧ (u.berth b).kind = false ∧ (u.berth b).session.set = 1 ∧
        (u.berth b).cseq = (s.berth b).cseq
    (s.rst.widest = .warm → ∃ u : State, exec (.resetExit x) s = .next u ∧ started u 2) ∧
    (∀ code, strapCodeOf x.strapOhms = some code → x.trimFail = none → x.tmode = false → x.hot = false →
      (s.rst.widest = .total → ∃ u : State, exec (.resetExit x) s = .next u ∧ started u 0 ∧ u.rst.strapCode = code ∧
        u.rst.count = 0 ∧ u.tim.counter = 0) ∧
      (s.rst.widest = .cold → s.rst.strapOld = some code → ∃ u : State, exec (.resetExit x) s = .next u ∧ started u 1 ∧
        u.rst.strapCode = code ∧ u.rst.count = satInc s.rst.count ∧ u.tim.counter = s.tim.counter)) ∧
    (s.rst.widest = .total → strapCodeOf x.strapOhms = none → s.rst.strapFaults = 2 →
      ∃ u : State, exec (.resetExit x) s = .next u ∧ u.rst.power = .strapFault ∧ u.rst.phase = .held)) ∧
  (∀ (s : State) (x : ExitReading) (code : BitVec 4), s.rst.power = .off → s.rst.hrst = .high → s.rst.mrstLow = false →
    strapCodeOf x.strapOhms = some code → x.trimFail = none → x.tmode = false → x.hot = false →
    ∃ u : State, exec (.vinRise x) s = .next u ∧ u.rst.power = .on ∧ u.rst.phase = .running ∧ u.rst.cause = 1 ∧
      u.rst.last = 0 ∧ u.rst.strapCode = code) ∧
  (∀ (s : State) (ms k : W16), s.alive = true → s.rst.level ≠ .ready → s.flt.halted = false →
    ∃ u : State, exec (.recoveryComplete ms k) s = .next (s.close u) ∧ u.rst.level = .ready ∧
      bit u.pmu.waking 12 = false) ∧
  (∀ (s : State) (v : W32), s.alive = true →
    let d : Fin 16 := Fin.ofNat 16 (bits v 0 4)
    (d.val < 2 → exec (.rstBlkGo v) s = .next (s.close s)) ∧
    (2 ≤ d.val → s.rst.blkResult ≠ 3 → s.dom d ≠ .failed → s.domIdle d.val = true →
      ∃ u : State, exec (.rstBlkGo v) s = .next (s.close u) ∧ u.rst.blkResult = 3 ∧ bit u.rst.cause 11 = true ∧
        u.dom d = (if neverLower d.val true then .retention else .off) ∧ bit u.pmu.waking d.val = true) ∧
    (2 ≤ d.val → s.rst.blkResult ≠ 3 → s.dom d ≠ .failed → s.domIdle d.val = false →
      ∃ u : State, exec (.rstBlkGo v) s = .next (s.close u) ∧ u.rst.blkResult = 2 ∧ u.pmu = s.pmu))

/-- The values after reset that the manual gives (R35, R67, R143, R220, R354, Tables TIDE-9, POWER-8 and MEDIA-9), with pool
and scratch empty and in canonical form and nothing waiting. -/
def Obligations.ResetState : Prop :=
  let s := State.reset
  s.pending = [] ∧ s.memWf = true ∧ s.pool = [] ∧ s.scratch = [] ∧
  s.tim.period = 1 ∧ s.tim.quality = .freeRunning ∧ s.tim.servo = 0xC863 ∧ s.tim.stepThr = 1000 ∧ s.tim.syncAge = 2000 ∧
  s.tim.holdMax = 3600 ∧ s.pmu.auto = 0xFFFE ∧ (∀ d : Fin 16, s.dom d = .on) ∧ s.hup.debit = Pair.mk' 480 ∧
  s.hup.queue = [] ∧ s.lnk.mode = .narrow ∧ s.nar.last = none ∧ s.flt.halted = false ∧ s.scr = Scr.init ∧
  s.ftl.prune = 0x0418 ∧ s.ftl.patrol = 72 ∧ s.ftl.refresh = 60 ∧ s.rtype 0 = .logbook ∧
  ∀ b, (s.berth b).state = .empty ∧ (s.berth b).session.set = 1 ∧ (s.berth b).session.chal = none ∧ (s.berth b).cseq = 0 ∧
    ∀ i, (s.berth b).reg i = 0

/-! ### Faults (15) -/

/-- No reset clears HALT, and only a power cycle ends it: the power is off, or the VIN that comes back after a removal
starts the controller anew; a halted controller that is out of reset answers the manifest with ready level 3 (field 0x0C)
and keeps SB0 low with cause 3 (R404). -/
def Obligations.HaltLasts : Prop :=
  (∀ s t : State, s.flt.halted = true → step s = .next t →
    t.flt.halted = true ∨ t.rst.power = .off ∨ (t.rst.widest = .total ∧ bit t.rst.asserted 12 = true)) ∧
  (∀ s : State, s.alive = true → s.flt.halted = true →
    s.readyLevel = 3 ∧ (s.manifestFields.drop 69).take 3 = [0x0C, 1, 3] ∧ s.busy = true ∧ s.busyCode = 3)

/-- A fault event below HALT (R417, Tables FLT-1 and FLT-6): its source is sticky, counted, and named by the last-event
registers with the class that R417 settles. A HALT-class event halts the controller (R419). -/
def Obligations.FaultCapture : Prop :=
  ∀ (s : State) (i : Fin 64) (k : Cls) (u : FUnit) (f : Bool),
    let t := s.capture i k u f
    let c := (s.settleClass i k u).1
    (c ≠ .halt → t.flt.src[i].sticky = true ∧ t.flt.src[i].count = satInc s.flt.src[i].count ∧
      t.flt.lastSrc = BitVec.ofNat 6 i.val ∧ t.flt.lastCls = c ∧ t.flt.lastForced = f ∧
      (∀ j : Fin 64, j ≠ i → t.flt.src[j] = s.flt.src[j])) ∧
    (c = .halt → t.flt.halted = true)

/-- Acknowledgement and force bits (R425 to R427), factory mode (R428), self-test slices (R429), thermal events (R421) and
parity errors (R435). -/
def Obligations.FaultEvents : Prop :=
  ∀ s : State, s.alive = true →
    (∀ (b : Fin 16) (v : BitVec 4),
      exec (.fltAck b v) s = .next (s.close ((blockSources b v).foldl State.ackSource s))) ∧
    (∀ i : Fin 64, s.flt.src[i].sticky = true → s.flt.src[i].cls = .halt → s.ackSource i = s) ∧
    (∀ i : Fin 64, s.flt.src[i].cls ≠ .halt → s.condition i.val = none →
      (s.ackSource i).flt.src[i].sticky = false ∧ (s.ackSource i).flt.src[i].count = 0) ∧
    (∀ (b : Fin 16) (v : BitVec 4), s.forceInert = true → exec (.fltForce b v) s = .next (s.close s)) ∧
    (∀ i : Fin 64, s.forceInert = false → reservedSource i = false → forceUnit i.val s.flt.funit.toNat = some .none →
      exec (.fltForce (Fin.ofNat 16 (i.val / 4)) (BitVec.ofNat 4 (2 ^ (i.val % 4)))) s =
        .next (s.close (s.raise i (baseClass i) .none true))) ∧
    (∃ u : State, exec .factoryModeEntry s = .next (s.close u) ∧ u.flt.factory = true) ∧
    (s.flt.halted = false → bit s.mon.stctl 0 = true → s.dom 15 = .on → s.sliceDue = true →
      let p := Machine.sliceAt s.mon.pos sliceCounts
      let next' := fun (u : State) => u.mon.pos = (if s.mon.pos = 53 then 0 else s.mon.pos + 1) ∧
        u.mon.cycles = (if s.mon.pos = 53 then satInc s.mon.cycles else s.mon.cycles) ∧ u.mon.sliceAt = some s.tim.counter
      (s.sliceSkips p.1 p.2 = true → ∀ r, ∃ u : State, exec (.selftestSlice r) s = .next (s.close u) ∧
        u = { s with mon := u.mon } ∧ next' u ∧ u.mon.result = 2) ∧
      (s.sliceSkips p.1 p.2 = false → s.sliceFits (s.sliceRes p.1 p.2) = true →
        ∃ u : State, exec (.selftestSlice .pass) s = .next (s.close u) ∧
          u = { s with mon := u.mon, sched := s.sched.bookSlice (s.sliceRes p.1 p.2), lnk := u.lnk } ∧
          (p.1 ≠ 0 → u.lnk = s.lnk) ∧ next' u ∧ u.mon.result = 0) ∧
      (s.sliceSkips p.1 p.2 = false → s.sliceFits (s.sliceRes p.1 p.2) = false →
        ∀ r, exec (.selftestSlice r) s = .next s)) ∧
    (∀ a b : W16, let t := s.noteTemp a b
      exec (.thermalThrottle a b) s = .next (s.close ({ t with mon := { t.mon with throttle := true } }.raise 61 .degrade)) ∧
      exec (.sensorDisagree a b) s = .next (s.close ({ t with mon := { t.mon with disagree := true } }.raise 61 .degrade)) ∧
      (s.mon.shut = false → exec (.thermalShutdown a b) s =
        .next (s.close (t.keepPromises.abortHigh.keepPromises.writeRoot.commitBlocks.shutFlash)))) ∧
    (exec .throttleEnd s = .next { s with mon := { s.mon with throttle := false } }) ∧
    (∃ t : State, exec .engineParityError s = .next (s.close (t.raise 24 .fence)) ∧ t.ucs.perr = satInc s.ucs.perr ∧
      t.ucs.restarts = satInc s.ucs.restarts) ∧
    (∀ c : Fin 16, exec (.sequencerParityError c) s = .next (s.close
      ({ s with ucs := { s.ucs with seqPerr := setBit s.ucs.seqPerr c.val } }.raise (if c.val < 8 then 52 else 56) .fence
        (.channel c))))

/-! ### Cascade (16) -/

/-- A member's commands: parts of instructions (R450 to R453), time and strobe (R448, R449), the master's silence (R458) and
the cartridge's orders (R459, Table CASC-6). -/
def Obligations.MemberCommands : Prop :=
  ∀ s : State, s.alive = true → s.isMember = true →
    (∀ i : SubInstr, s.quy.holding = false → s.flt.halted = false →
      let k := unitKey i.region.val i.unit
      let t := s.heard 0
      (i.records = none → i.write = false → exec (.quaySubInstruction i) s = .next (s.close (
        if (s.unitOf k).lost then (t.countDecode .strong .lost).answerSub i.id .mediaLost false []
        else if (s.copyOf k).isSome then t.addDie (.memberRead i) else t.answerSub i.id .ok false (s.unitData k)))) ∧
      (∀ n, i.records = some n → exec (.quaySubInstruction i) s = .next (s.close (
        if i.unit < (s.ownSeq s.log.old).toNat ∨ (s.ownSeq s.log.next).toNat < i.unit + n then
          t.answerSub i.id .range false [] else t.addDie (.memberLog i)))) ∧
      (i.records = none → i.write = true → i.payload.length = 4096 → s.hup.answerItem 1 = .admitted →
        (∀ v ∈ (s.unitOf k).fresh, v.stamp < s.ftl.stamp) →
        ∃ u : State, exec (.quaySubInstruction i) s = .next (s.close u) ∧
          u.quy.answers = s.quy.answers ++ [{ id := i.id, status := 0, writeThrough := false, payload := [], first := none }] ∧
          u.unitData (unitKey i.region.val i.unit) = i.payload ∧ u.hup.d = s.hup.d + 1 ∧
          (i.split = true → u.dies = s.dies))) ∧
    (∀ (t : W64) (p : BitVec 2) (q : W16), ∃ u : State, exec (.quayTimeFrame t p q) s = .next u ∧
      u.quy.frame = some (t, p, q) ∧ u.tim.newPeriod = (if p = s.tim.period then none else some p) ∧
      (bits q 14 2 = 2 → u.tim.quality = .freeRunning)) ∧
    (∀ o : Int, (o - Config.quayDelay.toNat).natAbs ≤ 1000 → ∃ u : State, exec (.tideioEdge o) s = .next (s.close u) ∧
      u.tim = s.tim.steer (o - Config.quayDelay.toNat) ∧ u.quy.strobe = true ∧ u.quy.missed = 0) ∧
    (s.quy.strobe = true → 4 ≤ s.quy.missed → s.tim.quality = .freeRunning → exec .tideStrobeLost s = .next (s.close
      ({ s with quy := { s.quy with strobe := false } }.raise 21 .degrade))) ∧
    (s.quy.holding = false → s.flt.halted = false → s.silentFor 0 = true → ∃ u : State, exec .masterSilent s = .next u ∧ u.quy.holding = true) ∧
    (s.flt.halted = false →
      (∃ u : State, exec (.quayCartridgeEventFrame .masterHalt) s = .next (s.close u) ∧ u.quy.holding = true) ∧
      (∃ u : State, exec (.quayCartridgeEventFrame .forcedErase) s = .next (s.close u) ∧ u.store = [] ∧ u.holds = [] ∧
        (∀ r, 1 ≤ r → r < 64 → (u.region r).key = none) ∧ u.grd.eraseKeysDone = true ∧ u.grd.erasePct = 0) ∧
      (∀ ds, ∃ u : State, exec (.quayCartridgeEventFrame (.quayWake ds)) s = .next (s.close u) ∧
        bit u.pmu.wakeSrc 6 = true) ∧
      (∃ (u : State) (a : SubAnswer), exec (.quayCartridgeEventFrame .checkpointFetch) s = .next (s.close u) ∧
        u.quy.answers = s.quy.answers ++ [a] ∧ a.status = 0))

/-- The master's commands: answers (R450, R452), ports (R442, R443) and the start and loss of members (R445 to R447, R456). -/
def Obligations.MasterCommands : Prop :=
  ∀ s : State, s.alive = true → s.isMember = false →
    (∀ (a : SubAnswer) (o : SubOut) (c : Cur), (s.quy.out.find? fun o => o.id == a.id) = some o →
      (s.berth o.berth).cur = some c → (c.ins.op = 0x30 ∨ c.ins.op = 0x31) → bits s.grd.lock.val 0 2 ≠ 2 →
      a.status ≠ Status.halted.code →
      let t := s.heard o.position
      exec (.quaySubAnswer a) s = .next (s.close
        ({ t with quy := { t.quy with out := s.quy.out.filter fun x => x.id != a.id } }.itemDurable o.berth))) ∧
    (∀ (a : SubAnswer) (o : SubOut), (s.quy.out.find? fun o => o.id == a.id) = some o → a.status = Status.halted.code →
      exec (.quaySubAnswer a) s = .next (s.close ((s.heard o.position).loseMember o.position))) ∧
    (∀ p : Fin 3, s.runsPort p = true →
      ((s.quy.ports[p]).state = .training → exec (.quayPortTrainingEnd p true) s =
        .next (s.setPort p { s.quy.ports[p] with state := .up, slow := s.slowClock, headReplays := 0 }) ∧
        exec (.quayPortTrainingEnd p false) s = .next (s.close (s.losePort p false))) ∧
      ((s.quy.ports[p]).state = .up → (s.quy.ports[p]).headReplays < 4 → exec (.quayReplayTimeout p) s =
        .next (s.close (s.setPort p { s.quy.ports[p] with
          headReplays := (s.quy.ports[p]).headReplays + 1, replays := satInc (s.quy.ports[p]).replays })))) ∧
    (∀ (p : Fin 3) (r : MemberReport), bit s.quy.map.val (p.val + 1) = true → bit s.quy.lost (p.val + 1) = false →
      r.position = Fin.ofNat 4 (p.val + 1) → r.strapMaster = false → r.readyLevel ≠ 3 →
      r.bankAbsent = bit s.rst.strapCode 3 →
      ∃ u : State, exec (.memberManifestReport p r) s = .next (s.close u) ∧ bit u.quy.present (p.val + 1) = true ∧
        u.quy.reports[Fin.ofNat 4 (p.val + 1)] = some r) ∧
    (let missing := fun (c : Fin 4 → Bool) =>
        [1, 2, 3].filter fun (p : Fin 4) => bit s.quy.map.val p.val && !bit s.quy.lost p.val && c p
     exec .memberJoinTimeout s = .next (s.close ((missing fun p => !bit s.quy.present p.val).foldl State.lateMember s)) ∧
     exec .memberReadyTimeout s = .next (s.close ((missing fun p => bit s.quy.present p.val && (match s.quy.reports[p] with
       | some r => r.readyLevel.toNat < 2
       | none => true)).foldl State.lateMember s))) ∧
    (∀ p : Fin 4, bit s.quy.present p.val = true → bit s.quy.lost p.val = false → s.silentFor p = true →
      exec (.memberSilent p) s = .next (s.close (s.loseMember p)))

/-! ### Berth commands (05) -/

/-- The commands of the berth in BTH_SEL (R143 to R151, R224, Table BERTH-5): ALLOC takes zeroed pool words and pages of its
colour; LOAD, START, STOP, FREE and RESTART; ALLOC on a ready berth is WRONG_STATE and does nothing else. STOP ends the
instruction in progress unless a record or a counter step of it can no longer be taken back (log 63). BTH_CFG with berth 0's
session (R149, R225, R234), reservations (R53, R159, R160) and UNREPCLR (R165). -/
def Obligations.BerthCommands : Prop :=
  (∀ s : State, s.alive = true →
     let b := s.selected
     let x := s.berth b
     let ok := fun (u : State) => (u.berth b).win.cmdSt = .ok ∧ ∀ b', b' ≠ b → (u.berth b').session = (s.berth b').session
     (∀ p g, x.state = .unallocated → x.win.units ≠ 0 → x.win.units ≤ 1024 → x.win.pages ≤ 64 →
       firstFit s.unitFree x.win.units 1024 = some p →
       (if x.win.pages = 0 then some 0 else firstFit s.pageFree x.win.pages 64) = some g →
       ∃ u : State, exec .alloc s = .next (s.close u) ∧ ok u ∧ (u.berth b).state = .loading ∧ (u.berth b).poolBase = p ∧
         (u.berth b).poolUnits = x.win.units ∧ (u.berth b).scrBase = g ∧ (u.berth b).scrPages = x.win.pages ∧
         (u.berth b).loadPtr = 0 ∧ u.pool = Memory.clear s.pool (512 * p) (512 * x.win.units) ∧
         u.scratch = Memory.clear s.scratch (4096 * g) (4096 * x.win.pages) ∧
         ∀ i : Fin 64, u.scrTags[i] = if g ≤ i.val ∧ i.val < g + x.win.pages then x.scolour else s.scrTags[i]) ∧
     ((x.state = .loaded ∨ x.state = .stopped ∧ x.kind = true) →
       ∃ u : State, exec .load s = .next (s.close u) ∧ ok u ∧ (u.berth b).state = .loading ∧ (u.berth b).loadPtr = 0 ∧
         u.pool = s.pool) ∧
     ((x.state = .loading ∨ x.state = .loaded) → x.kind = true → s.quiesces b = false →
       ∃ u : State, exec .start s = .next (s.close u) ∧ ok u ∧ (u.berth b).state = .ready ∧ (u.berth b).pc = 0 ∧
         (∀ i, (u.berth b).reg i = 0) ∧ (u.berth b).stack = [] ∧ (u.berth b).inbox = [] ∧ (u.berth b).e = false ∧
         (u.berth b).lastStat = .ok) ∧
     (x.state ≠ .empty → x.state ≠ .unallocated → x.state ≠ .stopped → (∀ c, x.cur = some c → s.takesBack b c = true) →
       ∃ u : State, exec .stop s = .next (s.close u) ∧ ok u ∧ (u.berth b).state = .stopped ∧ (u.berth b).cur = none) ∧
     (∀ c, x.cur = some c → x.state ≠ .empty → x.state ≠ .unallocated → x.state ≠ .stopped → s.takesBack b c = false →
       ∃ u : State, exec .stop s = .next (s.close u) ∧ ok u ∧ (u.berth b).stopDue = true ∧ (u.berth b).cur = some c ∧
         (u.berth b).state = x.state) ∧
     ((x.state = .unallocated ∨ x.state = .loading ∨ x.state = .loaded ∨ x.state = .stopped ∧ x.kind = true) →
       ∃ u : State, exec .free s = .next (s.close u) ∧ ok u ∧ (u.berth b).state = .empty ∧ (u.berth b).kind = false ∧
         (u.berth b).poolUnits = 0 ∧ (u.berth b).scrPages = 0 ∧ (u.berth b).session.set = 1) ∧
     (x.state = .stopped →
       ∃ u : State, exec .restart s = .next (s.close u) ∧ ok u ∧ (u.berth b).session.set = 1 ∧
         (u.berth b).state = (if x.kind then .loaded else .empty)) ∧
     (x.state = .ready → ∃ u : State, exec .alloc s = .next (s.close u) ∧ (u.berth b).win.cmdSt = .wrongState ∧
       (u.berth b).state = .ready ∧ u.pool = s.pool)) ∧
  (∀ s : State, s.alive = true →
     let b := s.selected
     let x := s.berth b
     (∀ v, (x.state = .empty ∨ x.state = .unallocated) → bit (s.berth 0).session.set (bits v 4 4) = true →
       ∃ u : State, exec (.bthCfgWrite v) s = .next (s.close u) ∧ (u.berth b).kind = bit v 0 ∧
         (u.berth b).stopErr = bit v 1 ∧ (u.berth b).rcomp = bit v 2 ∧ (u.berth b).scolour.toNat = bits v 4 4 ∧
         (u.berth b).state = (if bit v 0 then .unallocated else .empty)) ∧
     (∀ v, bit (s.berth 0).session.set (bits v 4 4) = false → exec (.bthCfgWrite v) s = .next (s.close s)) ∧
     (∀ v, x.state = .ready → exec (.bthCfgWrite v) s = .next (s.close s)) ∧
     (∀ v, bits v 0 16 = 0 → ∃ u : State, exec (.bthResvRequest v) s = .next (s.close u) ∧ (u.berth b).resv = none ∧
       u.bth.resvSt = .ok) ∧
     (∀ v, bits v 0 16 ≠ 0 → x.win.regions = 0 → ∃ u : State, exec (.bthResvRequest v) s = .next (s.close u) ∧
       (u.berth b).resv = x.resv ∧ u.bth.resvSt = .badRegion) ∧
     (∀ v, bits v 0 16 ≠ 0 → x.win.regions ≠ 0 → (∀ n, n < 64 → bit x.win.regions n = true → s.reservable n = true) →
       let r : Resv := { rate := v.setWidth 16, up := bit v 16, regions := x.win.regions, stamp := s.bth.stamp }
       let others := (s.berths.toList.zip allBerths).filterMap fun p => if p.2 = b then none else p.1.resv
       ∃ u : State, exec (.bthResvRequest v) s = .next (s.close u) ∧
         (others.length < 64 ∧ s.limitsHold s.lnk.agreed.val (others ++ [r]) = true →
           (u.berth b).resv = some r ∧ u.bth.resvSt = .ok) ∧
         (64 ≤ others.length ∨ s.limitsHold s.lnk.agreed.val (others ++ [r]) = false →
           (u.berth b).resv = x.resv ∧ u.bth.resvSt = .overReserved)) ∧
     (∃ u : State, exec .bthUnrepclr s = .next (u.wakeAll 512) ∧ u.bth.unrep = 0 ∧
       ∀ b', (u.berth b').rseq = (s.berth b').cseq ∧ (u.berth b').badStat = 0))

/-- SIGNAL sends an event parcel to the host, carrying the berth's own number, and sets bit 1 in the pending set of every
berth, its own included (R186). -/
def Obligations.SignalReachesAll : Prop :=
  ∀ (s : State) (b : BerthId) (q : QInstr), s.mayRun b q →
    let s' := s.takeTurn b q
    q.op = 9 → q.only [fSrcA, (40, 1), (0, 32)] = true →
    s'.lnk.mode = .narrow →
    ∃ (v : State) (e : EventRec), exec (.signal b) s = .next ((v.finish b q .ok).wakeAll 512) ∧
      v.nar.up = s'.nar.up ++ [⟨BitVec.ofNat 16 b.val, 0, .event e⟩] ∧ e.code = 1 ∧ ∀ b', bit (v.berth b').pend 1 = true

/-- CRC-16 (R76): polynomial 0x1021, initial value 0xFFFF, no reflection, no final XOR, and the check value. -/
def Obligations.CrcOfBus : Prop :=
  crc16 [] = 0xFFFF ∧
  (∀ (d : List Byte) (v : Byte), crc16 (d ++ [v]) = Nat.rec (crc16 d ^^^ (v.setWidth 16 <<< 8))
    (fun _ (c : W16) => if c.msb then (c <<< 1) ^^^ 0x1021 else c <<< 1) 8) ∧
  crc16 [0x31, 0x32, 0x33, 0x34, 0x35, 0x36, 0x37, 0x38, 0x39] = 0x29B1

/-- What follows a command when nothing waits, no die operation is left, and no ring has an unheld segment before its rolling window:
nothing (log 22, log 121). -/
def Obligations.CloseQuiet : Prop :=
  ∀ s u : State, (∀ b, (u.berth b).cur = none) →
    u.wakeAll 512 = u ∧
    ((∀ r g, g ∈ (u.ring r).segs → g < (u.ring r).head → u.heldSeg r g = true) → u.log.full = s.log.full →
      u.log.exhausted = s.log.exhausted → u.hup.debit.ok = true → u.hup.queue = [] → u.grd.gate = none →
      u.scr.draining = false → u.lnk.withheld = 0 → u.dies = [] → s.close u = u)
end

