-- ==== Sys2Proof/Laws/Memory.lean ====
section
/-! SUPPORT. Program pool and scratch: every operation keeps the canonical form, and what a read after it gives. -/

namespace Sys2Proof.Machine

/-! ### The canonical form -/

@[simp] theorem Memory.above_nil (lo : Nat) : Memory.above lo [] = true := rfl

@[simp] theorem Memory.above_cons (lo : Nat) (c : Host.Cell) (r : List Host.Cell) :
    Memory.above lo (c :: r) = true ↔ lo ≤ c.1 ∧ c.2 ≠ 0 ∧ Memory.above (c.1 + 1) r = true := by
  obtain ⟨k, v⟩ := c
  simp [Memory.above, and_assoc]

theorem Memory.above_mono {lo lo' : Nat} {m : List Host.Cell} (h : Memory.above lo m = true) (hl : lo' ≤ lo) :
    Memory.above lo' m = true := by
  cases m with
  | nil => rfl
  | cons c r =>
    rw [Memory.above_cons] at h ⊢
    exact ⟨hl.trans h.1, h.2⟩

theorem Memory.above_write {lo : Nat} {m : List Host.Cell} {a : Nat} (v : Byte) (h : Memory.above lo m = true)
    (ha : lo ≤ a) : Memory.above lo (Memory.write m a v) = true := by
  induction m generalizing lo with
  | nil =>
    rw [Memory.write]
    split_ifs with hv
    · rfl
    · exact (Memory.above_cons _ _ _).2 ⟨ha, hv, rfl⟩
  | cons c r ih =>
    obtain ⟨k, w⟩ := c
    obtain ⟨hk, hw, hr⟩ := (Memory.above_cons lo (k, w) r).1 h
    simp only [Memory.write]
    split_ifs with h1 h2 h3 h4
    · exact h
    · exact (Memory.above_cons _ _ _).2 ⟨ha, h2, (Memory.above_cons _ _ _).2 ⟨Nat.succ_le_of_lt h1, hw, hr⟩⟩
    · exact Memory.above_mono hr (by simp at hk ⊢; omega)
    · rw [Memory.above_cons]
      exact ⟨ha, h4, by simpa [h3] using hr⟩
    · rw [Memory.above_cons]
      exact ⟨hk, hw, ih hr (by simp; omega)⟩

theorem Memory.above_filter {lo : Nat} {m : List Host.Cell} (p : Host.Cell → Bool) (h : Memory.above lo m = true) :
    Memory.above lo (m.filter p) = true := by
  induction m generalizing lo with
  | nil => rfl
  | cons c r ih =>
    obtain ⟨hk, hw, hr⟩ := (Memory.above_cons lo c r).1 h
    rw [List.filter_cons]
    split
    · exact (Memory.above_cons _ _ _).2 ⟨hk, hw, ih hr⟩
    · exact Memory.above_mono (ih hr) (by omega)

theorem Memory.wf_write {m : List Host.Cell} (a : Nat) (v : Byte) (h : Memory.wf m = true) :
    Memory.wf (Memory.write m a v) = true := Memory.above_write v h (Nat.zero_le a)

theorem Memory.wf_writeN {m : List Host.Cell} (a : Nat) (d : List Byte) (h : Memory.wf m = true) :
    Memory.wf (Memory.writeN m a d) = true := by
  induction d generalizing m a with
  | nil => exact h
  | cons b r ih => exact ih (a + 1) (Memory.wf_write a b h)

theorem Memory.wf_clear {m : List Host.Cell} (a n : Nat) (h : Memory.wf m = true) :
    Memory.wf (Memory.clear m a n) = true := Memory.above_filter _ h

@[simp] theorem Memory.wf_nil : Memory.wf [] = true := rfl

/-- Pool and scratch after reset are in canonical form. -/
theorem State.reset_memWf : State.reset.memWf = true := rfl

/-! ### Reads -/

/-- Below the first listed address everything reads as 0. -/
theorem Memory.read_below {lo a : Nat} {m : List Host.Cell} (h : Memory.above lo m = true) (ha : a < lo) :
    Memory.read m a = 0 := by
  cases m with
  | nil => rfl
  | cons c r =>
    obtain ⟨hk, -, -⟩ := (Memory.above_cons lo c r).1 h
    obtain ⟨k, v⟩ := c
    simp only at hk
    simp [Memory.read, show k ≠ a by omega, show a < k by omega]

theorem Memory.read_write_same {lo : Nat} {m : List Host.Cell} (a : Nat) (v : Byte) (h : Memory.above lo m = true) :
    Memory.read (Memory.write m a v) a = v := by
  induction m generalizing lo with
  | nil =>
    rw [Memory.write]
    split_ifs with hv
    · exact hv.symm
    · simp [Memory.read]
  | cons c r ih =>
    obtain ⟨k, w⟩ := c
    obtain ⟨-, -, hr⟩ := (Memory.above_cons lo (k, w) r).1 h
    simp only [Memory.write]
    split_ifs with h1 h2 h3 h4
    · subst h2
      simp [Memory.read, show k ≠ a by omega, h1]
    · simp [Memory.read]
    · subst h4
      subst h3
      exact Memory.read_below hr (by simp)
    · simp [Memory.read]
    · simp [Memory.read, show k ≠ a by omega, h1, ih hr]

theorem Memory.read_write_other {lo : Nat} {m : List Host.Cell} {a x : Nat} (v : Byte) (h : Memory.above lo m = true)
    (hx : x ≠ a) : Memory.read (Memory.write m a v) x = Memory.read m x := by
  induction m generalizing lo with
  | nil =>
    rw [Memory.write]
    split_ifs with hv
    · rfl
    · simp [Memory.read, hx.symm]
  | cons c r ih =>
    obtain ⟨k, w⟩ := c
    obtain ⟨-, -, hr⟩ := (Memory.above_cons lo (k, w) r).1 h
    simp only [Memory.write]
    split_ifs with h1 h2 h3 h4
    · rfl
    · by_cases hxa : x < a
      · simp [Memory.read, hx.symm, hxa, show k ≠ x by omega, show x < k by omega]
      · simp [Memory.read, hx.symm, hxa]
    · subst h3
      by_cases hxk : x < a
      · rw [Memory.read_below hr (by simp; omega)]
        simp [Memory.read, hx.symm, hxk]
      · simp [Memory.read, hx.symm, hxk]
    · subst h3
      simp [Memory.read, hx.symm]
    · simp [Memory.read, ih hr]

/-! ### Words through their check -/

/-- A read of words that no injury touches changes nothing. -/
theorem State.memRead_clean {s : State} {m : Fin 10} {w n : Nat}
    (h : ((List.range n).all fun i => s.memHit m (w + i) == .clean) = true) : s.memRead m w n = (false, s) := by
  induction n generalizing w with
  | zero => rfl
  | succ n ih =>
    have h0 : s.memHit m w = .clean := by
      have := List.all_eq_true.1 h 0 (by simp)
      simpa using this
    have hr : ((List.range n).all fun i => s.memHit m (w + 1 + i) == .clean) = true := by
      rw [List.all_eq_true]
      intro i hi
      have := List.all_eq_true.1 h (i + 1) (by simp at hi ⊢; omega)
      simpa [Nat.add_assoc, Nat.add_comm 1 i] using this
    rw [State.memRead, h0]
    exact ih hr

/-- No byte of a memory differs from what was written: every read is clean. -/
theorem State.memHit_clean {s : State} {m : Fin 10} (h : (s.memOf m).flipped = []) (w : Nat) : s.memHit m w = .clean := by
  simp [State.memHit, h]

end Sys2Proof.Machine
end

