-- ==== Sys2Proof/Laws/State.lean ====
section
/-! SUPPORT. What each named update of State leaves alone, one lemma for each field, and what the updated part reads as. -/

namespace Sys2Proof.Machine

/-! ### The field that changes -/

@[simp] theorem State.berth_setBerth (s : State) (b : BerthId) (x : Berth) : (s.setBerth b x).berth b = x := by
  simp [State.berth, State.setBerth]

@[simp] theorem State.berth_setBerth_other (s : State) {b c : BerthId} (x : Berth) (h : c ≠ b) :
    (s.setBerth b x).berth c = s.berth c := by
  simpa [State.berth, State.setBerth] using Vector.getElem_set_ne b.isLt c.isLt (fun e => h (Fin.ext e.symm))

@[simp] theorem State.berth_modBerth (s : State) (b : BerthId) (f : Berth → Berth) :
    (s.modBerth b f).berth b = f (s.berth b) := s.berth_setBerth b _

@[simp] theorem State.berth_modBerth_other (s : State) {b c : BerthId} (f : Berth → Berth) (h : c ≠ b) :
    (s.modBerth b f).berth c = s.berth c := s.berth_setBerth_other _ h

@[simp] theorem State.memOf_setMem (s : State) (m : Fin 10) (x : Mem) : (s.setMem m x).memOf m = x := by
  simp [State.memOf, State.setMem]

@[simp] theorem State.memOf_setMem_other (s : State) {m n : Fin 10} (x : Mem) (h : n ≠ m) :
    (s.setMem m x).memOf n = s.memOf n := by
  simpa [State.memOf, State.setMem] using Vector.getElem_set_ne m.isLt n.isLt (fun e => h (Fin.ext e.symm))

@[simp] theorem State.region_setRegion (s : State) (r : Nat) (x : Region) : (s.setRegion r x).region r = x := by
  simp [State.region, State.setRegion]

theorem State.region_setRegion_other (s : State) {r n : Nat} (x : Region) (h : Fin.ofNat 64 n ≠ Fin.ofNat 64 r) :
    (s.setRegion r x).region n = s.region n := by
  simpa [State.region, State.setRegion] using
    Vector.getElem_set_ne (Fin.ofNat 64 r).isLt (Fin.ofNat 64 n).isLt (fun e => h (Fin.ext e.symm))

@[simp] theorem State.ring_setRing (s : State) (r : Nat) (x : Ring) : (s.setRing r x).ring r = x := by
  simp [State.ring, State.setRing]

theorem State.ring_setRing_other (s : State) {r n : Nat} (x : Ring) (h : Fin.ofNat 64 n ≠ Fin.ofNat 64 r) :
    (s.setRing r x).ring n = s.ring n := by
  simpa [State.ring, State.setRing] using
    Vector.getElem_set_ne (Fin.ofNat 64 r).isLt (Fin.ofNat 64 n).isLt (fun e => h (Fin.ext e.symm))

@[simp] theorem State.src_setSource (s : State) (i : Fin 64) (x : Source) : (s.setSource i x).flt.src[i] = x := by
  simp [State.setSource]

theorem State.src_setSource_other (s : State) {i j : Fin 64} (x : Source) (h : j ≠ i) :
    (s.setSource i x).flt.src[j] = s.flt.src[j] := by
  simpa [State.setSource] using Vector.getElem_set_ne i.isLt j.isLt (fun e => h (Fin.ext e.symm))

@[simp] theorem State.counter_setCounter (s : State) (n : Fin 32) (x : Counter) : (s.setCounter n x).counter n = x := by
  simp [State.counter, State.setCounter]

theorem State.counter_setCounter_other (s : State) {n m : Fin 32} (x : Counter) (h : m ≠ n) :
    (s.setCounter n x).counter m = s.counter m := by
  simpa [State.counter, State.setCounter] using Vector.getElem_set_ne n.isLt m.isLt (fun e => h (Fin.ext e.symm))

@[simp] theorem State.ports_setPort (s : State) (p : Fin 3) (x : Port) : (s.setPort p x).quy.ports[p] = x := by
  simp [State.setPort]

@[simp] theorem Pair.ok_mk (w : Nat) (v : BitVec w) : (Pair.mk' v).ok = true := by simp [Pair.mk', Pair.ok]

@[simp] theorem Pair.val_mk (w : Nat) (v : BitVec w) : (Pair.mk' v).val = v := rfl

/-! ### The fields that stay -/

@[simp] theorem State.pending_setBerth (s : State) (b : BerthId) (x : Berth) : (s.setBerth b x).pending = s.pending := rfl
@[simp] theorem State.tim_setBerth (s : State) (b : BerthId) (x : Berth) : (s.setBerth b x).tim = s.tim := rfl
@[simp] theorem State.nar_setBerth (s : State) (b : BerthId) (x : Berth) : (s.setBerth b x).nar = s.nar := rfl
@[simp] theorem State.lnk_setBerth (s : State) (b : BerthId) (x : Berth) : (s.setBerth b x).lnk = s.lnk := rfl
@[simp] theorem State.bth_setBerth (s : State) (b : BerthId) (x : Berth) : (s.setBerth b x).bth = s.bth := rfl
@[simp] theorem State.pool_setBerth (s : State) (b : BerthId) (x : Berth) : (s.setBerth b x).pool = s.pool := rfl
@[simp] theorem State.scratch_setBerth (s : State) (b : BerthId) (x : Berth) : (s.setBerth b x).scratch = s.scratch := rfl
@[simp] theorem State.scrTags_setBerth (s : State) (b : BerthId) (x : Berth) : (s.setBerth b x).scrTags = s.scrTags := rfl
@[simp] theorem State.rgn_setBerth (s : State) (b : BerthId) (x : Berth) : (s.setBerth b x).rgn = s.rgn := rfl
@[simp] theorem State.grd_setBerth (s : State) (b : BerthId) (x : Berth) : (s.setBerth b x).grd = s.grd := rfl
@[simp] theorem State.rings_setBerth (s : State) (b : BerthId) (x : Berth) : (s.setBerth b x).rings = s.rings := rfl
@[simp] theorem State.holds_setBerth (s : State) (b : BerthId) (x : Berth) : (s.setBerth b x).holds = s.holds := rfl
@[simp] theorem State.rng_setBerth (s : State) (b : BerthId) (x : Berth) : (s.setBerth b x).rng = s.rng := rfl
@[simp] theorem State.store_setBerth (s : State) (b : BerthId) (x : Berth) : (s.setBerth b x).store = s.store := rfl
@[simp] theorem State.log_setBerth (s : State) (b : BerthId) (x : Berth) : (s.setBerth b x).log = s.log := rfl
@[simp] theorem State.ctr_setBerth (s : State) (b : BerthId) (x : Berth) : (s.setBerth b x).ctr = s.ctr := rfl
@[simp] theorem State.ftl_setBerth (s : State) (b : BerthId) (x : Berth) : (s.setBerth b x).ftl = s.ftl := rfl
@[simp] theorem State.dies_setBerth (s : State) (b : BerthId) (x : Berth) : (s.setBerth b x).dies = s.dies := rfl
@[simp] theorem State.nextOp_setBerth (s : State) (b : BerthId) (x : Berth) : (s.setBerth b x).nextOp = s.nextOp := rfl
@[simp] theorem State.cod_setBerth (s : State) (b : BerthId) (x : Berth) : (s.setBerth b x).cod = s.cod := rfl
@[simp] theorem State.mems_setBerth (s : State) (b : BerthId) (x : Berth) : (s.setBerth b x).mems = s.mems := rfl
@[simp] theorem State.mem_setBerth (s : State) (b : BerthId) (x : Berth) : (s.setBerth b x).mem = s.mem := rfl
@[simp] theorem State.hup_setBerth (s : State) (b : BerthId) (x : Berth) : (s.setBerth b x).hup = s.hup := rfl
@[simp] theorem State.pmu_setBerth (s : State) (b : BerthId) (x : Berth) : (s.setBerth b x).pmu = s.pmu := rfl
@[simp] theorem State.rst_setBerth (s : State) (b : BerthId) (x : Berth) : (s.setBerth b x).rst = s.rst := rfl
@[simp] theorem State.flt_setBerth (s : State) (b : BerthId) (x : Berth) : (s.setBerth b x).flt = s.flt := rfl
@[simp] theorem State.mon_setBerth (s : State) (b : BerthId) (x : Berth) : (s.setBerth b x).mon = s.mon := rfl
@[simp] theorem State.ucs_setBerth (s : State) (b : BerthId) (x : Berth) : (s.setBerth b x).ucs = s.ucs := rfl
@[simp] theorem State.quy_setBerth (s : State) (b : BerthId) (x : Berth) : (s.setBerth b x).quy = s.quy := rfl
@[simp] theorem State.scr_setBerth (s : State) (b : BerthId) (x : Berth) : (s.setBerth b x).scr = s.scr := rfl
@[simp] theorem State.sched_setBerth (s : State) (b : BerthId) (x : Berth) : (s.setBerth b x).sched = s.sched := rfl
@[simp] theorem State.tap_setBerth (s : State) (b : BerthId) (x : Berth) : (s.setBerth b x).tap = s.tap := rfl
@[simp] theorem State.freeCtr_setBerth (s : State) (b : BerthId) (x : Berth) : (s.setBerth b x).freeCtr = s.freeCtr := rfl

@[simp] theorem State.pending_modBerth (s : State) (b : BerthId) (f : Berth → Berth) : (s.modBerth b f).pending = s.pending := rfl
@[simp] theorem State.tim_modBerth (s : State) (b : BerthId) (f : Berth → Berth) : (s.modBerth b f).tim = s.tim := rfl
@[simp] theorem State.nar_modBerth (s : State) (b : BerthId) (f : Berth → Berth) : (s.modBerth b f).nar = s.nar := rfl
@[simp] theorem State.lnk_modBerth (s : State) (b : BerthId) (f : Berth → Berth) : (s.modBerth b f).lnk = s.lnk := rfl
@[simp] theorem State.bth_modBerth (s : State) (b : BerthId) (f : Berth → Berth) : (s.modBerth b f).bth = s.bth := rfl
@[simp] theorem State.pool_modBerth (s : State) (b : BerthId) (f : Berth → Berth) : (s.modBerth b f).pool = s.pool := rfl
@[simp] theorem State.scratch_modBerth (s : State) (b : BerthId) (f : Berth → Berth) : (s.modBerth b f).scratch = s.scratch := rfl
@[simp] theorem State.scrTags_modBerth (s : State) (b : BerthId) (f : Berth → Berth) : (s.modBerth b f).scrTags = s.scrTags := rfl
@[simp] theorem State.rgn_modBerth (s : State) (b : BerthId) (f : Berth → Berth) : (s.modBerth b f).rgn = s.rgn := rfl
@[simp] theorem State.grd_modBerth (s : State) (b : BerthId) (f : Berth → Berth) : (s.modBerth b f).grd = s.grd := rfl
@[simp] theorem State.rings_modBerth (s : State) (b : BerthId) (f : Berth → Berth) : (s.modBerth b f).rings = s.rings := rfl
@[simp] theorem State.holds_modBerth (s : State) (b : BerthId) (f : Berth → Berth) : (s.modBerth b f).holds = s.holds := rfl
@[simp] theorem State.rng_modBerth (s : State) (b : BerthId) (f : Berth → Berth) : (s.modBerth b f).rng = s.rng := rfl
@[simp] theorem State.store_modBerth (s : State) (b : BerthId) (f : Berth → Berth) : (s.modBerth b f).store = s.store := rfl
@[simp] theorem State.log_modBerth (s : State) (b : BerthId) (f : Berth → Berth) : (s.modBerth b f).log = s.log := rfl
@[simp] theorem State.ctr_modBerth (s : State) (b : BerthId) (f : Berth → Berth) : (s.modBerth b f).ctr = s.ctr := rfl
@[simp] theorem State.ftl_modBerth (s : State) (b : BerthId) (f : Berth → Berth) : (s.modBerth b f).ftl = s.ftl := rfl
@[simp] theorem State.dies_modBerth (s : State) (b : BerthId) (f : Berth → Berth) : (s.modBerth b f).dies = s.dies := rfl
@[simp] theorem State.nextOp_modBerth (s : State) (b : BerthId) (f : Berth → Berth) : (s.modBerth b f).nextOp = s.nextOp := rfl
@[simp] theorem State.cod_modBerth (s : State) (b : BerthId) (f : Berth → Berth) : (s.modBerth b f).cod = s.cod := rfl
@[simp] theorem State.mems_modBerth (s : State) (b : BerthId) (f : Berth → Berth) : (s.modBerth b f).mems = s.mems := rfl
@[simp] theorem State.mem_modBerth (s : State) (b : BerthId) (f : Berth → Berth) : (s.modBerth b f).mem = s.mem := rfl
@[simp] theorem State.hup_modBerth (s : State) (b : BerthId) (f : Berth → Berth) : (s.modBerth b f).hup = s.hup := rfl
@[simp] theorem State.pmu_modBerth (s : State) (b : BerthId) (f : Berth → Berth) : (s.modBerth b f).pmu = s.pmu := rfl
@[simp] theorem State.rst_modBerth (s : State) (b : BerthId) (f : Berth → Berth) : (s.modBerth b f).rst = s.rst := rfl
@[simp] theorem State.flt_modBerth (s : State) (b : BerthId) (f : Berth → Berth) : (s.modBerth b f).flt = s.flt := rfl
@[simp] theorem State.mon_modBerth (s : State) (b : BerthId) (f : Berth → Berth) : (s.modBerth b f).mon = s.mon := rfl
@[simp] theorem State.ucs_modBerth (s : State) (b : BerthId) (f : Berth → Berth) : (s.modBerth b f).ucs = s.ucs := rfl
@[simp] theorem State.quy_modBerth (s : State) (b : BerthId) (f : Berth → Berth) : (s.modBerth b f).quy = s.quy := rfl
@[simp] theorem State.scr_modBerth (s : State) (b : BerthId) (f : Berth → Berth) : (s.modBerth b f).scr = s.scr := rfl
@[simp] theorem State.sched_modBerth (s : State) (b : BerthId) (f : Berth → Berth) : (s.modBerth b f).sched = s.sched := rfl
@[simp] theorem State.tap_modBerth (s : State) (b : BerthId) (f : Berth → Berth) : (s.modBerth b f).tap = s.tap := rfl
@[simp] theorem State.freeCtr_modBerth (s : State) (b : BerthId) (f : Berth → Berth) : (s.modBerth b f).freeCtr = s.freeCtr := rfl

@[simp] theorem State.pending_modCur (s : State) (b : BerthId) (f : Cur → Cur) : (s.modCur b f).pending = s.pending := rfl
@[simp] theorem State.tim_modCur (s : State) (b : BerthId) (f : Cur → Cur) : (s.modCur b f).tim = s.tim := rfl
@[simp] theorem State.nar_modCur (s : State) (b : BerthId) (f : Cur → Cur) : (s.modCur b f).nar = s.nar := rfl
@[simp] theorem State.lnk_modCur (s : State) (b : BerthId) (f : Cur → Cur) : (s.modCur b f).lnk = s.lnk := rfl
@[simp] theorem State.bth_modCur (s : State) (b : BerthId) (f : Cur → Cur) : (s.modCur b f).bth = s.bth := rfl
@[simp] theorem State.pool_modCur (s : State) (b : BerthId) (f : Cur → Cur) : (s.modCur b f).pool = s.pool := rfl
@[simp] theorem State.scratch_modCur (s : State) (b : BerthId) (f : Cur → Cur) : (s.modCur b f).scratch = s.scratch := rfl
@[simp] theorem State.scrTags_modCur (s : State) (b : BerthId) (f : Cur → Cur) : (s.modCur b f).scrTags = s.scrTags := rfl
@[simp] theorem State.rgn_modCur (s : State) (b : BerthId) (f : Cur → Cur) : (s.modCur b f).rgn = s.rgn := rfl
@[simp] theorem State.grd_modCur (s : State) (b : BerthId) (f : Cur → Cur) : (s.modCur b f).grd = s.grd := rfl
@[simp] theorem State.rings_modCur (s : State) (b : BerthId) (f : Cur → Cur) : (s.modCur b f).rings = s.rings := rfl
@[simp] theorem State.holds_modCur (s : State) (b : BerthId) (f : Cur → Cur) : (s.modCur b f).holds = s.holds := rfl
@[simp] theorem State.rng_modCur (s : State) (b : BerthId) (f : Cur → Cur) : (s.modCur b f).rng = s.rng := rfl
@[simp] theorem State.store_modCur (s : State) (b : BerthId) (f : Cur → Cur) : (s.modCur b f).store = s.store := rfl
@[simp] theorem State.log_modCur (s : State) (b : BerthId) (f : Cur → Cur) : (s.modCur b f).log = s.log := rfl
@[simp] theorem State.ctr_modCur (s : State) (b : BerthId) (f : Cur → Cur) : (s.modCur b f).ctr = s.ctr := rfl
@[simp] theorem State.ftl_modCur (s : State) (b : BerthId) (f : Cur → Cur) : (s.modCur b f).ftl = s.ftl := rfl
@[simp] theorem State.dies_modCur (s : State) (b : BerthId) (f : Cur → Cur) : (s.modCur b f).dies = s.dies := rfl
@[simp] theorem State.nextOp_modCur (s : State) (b : BerthId) (f : Cur → Cur) : (s.modCur b f).nextOp = s.nextOp := rfl
@[simp] theorem State.cod_modCur (s : State) (b : BerthId) (f : Cur → Cur) : (s.modCur b f).cod = s.cod := rfl
@[simp] theorem State.mems_modCur (s : State) (b : BerthId) (f : Cur → Cur) : (s.modCur b f).mems = s.mems := rfl
@[simp] theorem State.mem_modCur (s : State) (b : BerthId) (f : Cur → Cur) : (s.modCur b f).mem = s.mem := rfl
@[simp] theorem State.hup_modCur (s : State) (b : BerthId) (f : Cur → Cur) : (s.modCur b f).hup = s.hup := rfl
@[simp] theorem State.pmu_modCur (s : State) (b : BerthId) (f : Cur → Cur) : (s.modCur b f).pmu = s.pmu := rfl
@[simp] theorem State.rst_modCur (s : State) (b : BerthId) (f : Cur → Cur) : (s.modCur b f).rst = s.rst := rfl
@[simp] theorem State.flt_modCur (s : State) (b : BerthId) (f : Cur → Cur) : (s.modCur b f).flt = s.flt := rfl
@[simp] theorem State.mon_modCur (s : State) (b : BerthId) (f : Cur → Cur) : (s.modCur b f).mon = s.mon := rfl
@[simp] theorem State.ucs_modCur (s : State) (b : BerthId) (f : Cur → Cur) : (s.modCur b f).ucs = s.ucs := rfl
@[simp] theorem State.quy_modCur (s : State) (b : BerthId) (f : Cur → Cur) : (s.modCur b f).quy = s.quy := rfl
@[simp] theorem State.scr_modCur (s : State) (b : BerthId) (f : Cur → Cur) : (s.modCur b f).scr = s.scr := rfl
@[simp] theorem State.sched_modCur (s : State) (b : BerthId) (f : Cur → Cur) : (s.modCur b f).sched = s.sched := rfl
@[simp] theorem State.tap_modCur (s : State) (b : BerthId) (f : Cur → Cur) : (s.modCur b f).tap = s.tap := rfl
@[simp] theorem State.freeCtr_modCur (s : State) (b : BerthId) (f : Cur → Cur) : (s.modCur b f).freeCtr = s.freeCtr := rfl

@[simp] theorem State.pending_modWindow (s : State) (f : BthWindow → BthWindow) : (s.modWindow f).pending = s.pending := rfl
@[simp] theorem State.tim_modWindow (s : State) (f : BthWindow → BthWindow) : (s.modWindow f).tim = s.tim := rfl
@[simp] theorem State.nar_modWindow (s : State) (f : BthWindow → BthWindow) : (s.modWindow f).nar = s.nar := rfl
@[simp] theorem State.lnk_modWindow (s : State) (f : BthWindow → BthWindow) : (s.modWindow f).lnk = s.lnk := rfl
@[simp] theorem State.bth_modWindow (s : State) (f : BthWindow → BthWindow) : (s.modWindow f).bth = s.bth := rfl
@[simp] theorem State.pool_modWindow (s : State) (f : BthWindow → BthWindow) : (s.modWindow f).pool = s.pool := rfl
@[simp] theorem State.scratch_modWindow (s : State) (f : BthWindow → BthWindow) : (s.modWindow f).scratch = s.scratch := rfl
@[simp] theorem State.scrTags_modWindow (s : State) (f : BthWindow → BthWindow) : (s.modWindow f).scrTags = s.scrTags := rfl
@[simp] theorem State.rgn_modWindow (s : State) (f : BthWindow → BthWindow) : (s.modWindow f).rgn = s.rgn := rfl
@[simp] theorem State.grd_modWindow (s : State) (f : BthWindow → BthWindow) : (s.modWindow f).grd = s.grd := rfl
@[simp] theorem State.rings_modWindow (s : State) (f : BthWindow → BthWindow) : (s.modWindow f).rings = s.rings := rfl
@[simp] theorem State.holds_modWindow (s : State) (f : BthWindow → BthWindow) : (s.modWindow f).holds = s.holds := rfl
@[simp] theorem State.rng_modWindow (s : State) (f : BthWindow → BthWindow) : (s.modWindow f).rng = s.rng := rfl
@[simp] theorem State.store_modWindow (s : State) (f : BthWindow → BthWindow) : (s.modWindow f).store = s.store := rfl
@[simp] theorem State.log_modWindow (s : State) (f : BthWindow → BthWindow) : (s.modWindow f).log = s.log := rfl
@[simp] theorem State.ctr_modWindow (s : State) (f : BthWindow → BthWindow) : (s.modWindow f).ctr = s.ctr := rfl
@[simp] theorem State.ftl_modWindow (s : State) (f : BthWindow → BthWindow) : (s.modWindow f).ftl = s.ftl := rfl
@[simp] theorem State.dies_modWindow (s : State) (f : BthWindow → BthWindow) : (s.modWindow f).dies = s.dies := rfl
@[simp] theorem State.nextOp_modWindow (s : State) (f : BthWindow → BthWindow) : (s.modWindow f).nextOp = s.nextOp := rfl
@[simp] theorem State.cod_modWindow (s : State) (f : BthWindow → BthWindow) : (s.modWindow f).cod = s.cod := rfl
@[simp] theorem State.mems_modWindow (s : State) (f : BthWindow → BthWindow) : (s.modWindow f).mems = s.mems := rfl
@[simp] theorem State.mem_modWindow (s : State) (f : BthWindow → BthWindow) : (s.modWindow f).mem = s.mem := rfl
@[simp] theorem State.hup_modWindow (s : State) (f : BthWindow → BthWindow) : (s.modWindow f).hup = s.hup := rfl
@[simp] theorem State.pmu_modWindow (s : State) (f : BthWindow → BthWindow) : (s.modWindow f).pmu = s.pmu := rfl
@[simp] theorem State.rst_modWindow (s : State) (f : BthWindow → BthWindow) : (s.modWindow f).rst = s.rst := rfl
@[simp] theorem State.flt_modWindow (s : State) (f : BthWindow → BthWindow) : (s.modWindow f).flt = s.flt := rfl
@[simp] theorem State.mon_modWindow (s : State) (f : BthWindow → BthWindow) : (s.modWindow f).mon = s.mon := rfl
@[simp] theorem State.ucs_modWindow (s : State) (f : BthWindow → BthWindow) : (s.modWindow f).ucs = s.ucs := rfl
@[simp] theorem State.quy_modWindow (s : State) (f : BthWindow → BthWindow) : (s.modWindow f).quy = s.quy := rfl
@[simp] theorem State.scr_modWindow (s : State) (f : BthWindow → BthWindow) : (s.modWindow f).scr = s.scr := rfl
@[simp] theorem State.sched_modWindow (s : State) (f : BthWindow → BthWindow) : (s.modWindow f).sched = s.sched := rfl
@[simp] theorem State.tap_modWindow (s : State) (f : BthWindow → BthWindow) : (s.modWindow f).tap = s.tap := rfl
@[simp] theorem State.freeCtr_modWindow (s : State) (f : BthWindow → BthWindow) : (s.modWindow f).freeCtr = s.freeCtr := rfl

@[simp] theorem State.pending_setMem (s : State) (m : Fin 10) (x : Mem) : (s.setMem m x).pending = s.pending := rfl
@[simp] theorem State.tim_setMem (s : State) (m : Fin 10) (x : Mem) : (s.setMem m x).tim = s.tim := rfl
@[simp] theorem State.nar_setMem (s : State) (m : Fin 10) (x : Mem) : (s.setMem m x).nar = s.nar := rfl
@[simp] theorem State.lnk_setMem (s : State) (m : Fin 10) (x : Mem) : (s.setMem m x).lnk = s.lnk := rfl
@[simp] theorem State.berths_setMem (s : State) (m : Fin 10) (x : Mem) : (s.setMem m x).berths = s.berths := rfl
@[simp] theorem State.bth_setMem (s : State) (m : Fin 10) (x : Mem) : (s.setMem m x).bth = s.bth := rfl
@[simp] theorem State.pool_setMem (s : State) (m : Fin 10) (x : Mem) : (s.setMem m x).pool = s.pool := rfl
@[simp] theorem State.scratch_setMem (s : State) (m : Fin 10) (x : Mem) : (s.setMem m x).scratch = s.scratch := rfl
@[simp] theorem State.scrTags_setMem (s : State) (m : Fin 10) (x : Mem) : (s.setMem m x).scrTags = s.scrTags := rfl
@[simp] theorem State.rgn_setMem (s : State) (m : Fin 10) (x : Mem) : (s.setMem m x).rgn = s.rgn := rfl
@[simp] theorem State.grd_setMem (s : State) (m : Fin 10) (x : Mem) : (s.setMem m x).grd = s.grd := rfl
@[simp] theorem State.rings_setMem (s : State) (m : Fin 10) (x : Mem) : (s.setMem m x).rings = s.rings := rfl
@[simp] theorem State.holds_setMem (s : State) (m : Fin 10) (x : Mem) : (s.setMem m x).holds = s.holds := rfl
@[simp] theorem State.rng_setMem (s : State) (m : Fin 10) (x : Mem) : (s.setMem m x).rng = s.rng := rfl
@[simp] theorem State.store_setMem (s : State) (m : Fin 10) (x : Mem) : (s.setMem m x).store = s.store := rfl
@[simp] theorem State.log_setMem (s : State) (m : Fin 10) (x : Mem) : (s.setMem m x).log = s.log := rfl
@[simp] theorem State.ctr_setMem (s : State) (m : Fin 10) (x : Mem) : (s.setMem m x).ctr = s.ctr := rfl
@[simp] theorem State.ftl_setMem (s : State) (m : Fin 10) (x : Mem) : (s.setMem m x).ftl = s.ftl := rfl
@[simp] theorem State.dies_setMem (s : State) (m : Fin 10) (x : Mem) : (s.setMem m x).dies = s.dies := rfl
@[simp] theorem State.nextOp_setMem (s : State) (m : Fin 10) (x : Mem) : (s.setMem m x).nextOp = s.nextOp := rfl
@[simp] theorem State.cod_setMem (s : State) (m : Fin 10) (x : Mem) : (s.setMem m x).cod = s.cod := rfl
@[simp] theorem State.mem_setMem (s : State) (m : Fin 10) (x : Mem) : (s.setMem m x).mem = s.mem := rfl
@[simp] theorem State.hup_setMem (s : State) (m : Fin 10) (x : Mem) : (s.setMem m x).hup = s.hup := rfl
@[simp] theorem State.pmu_setMem (s : State) (m : Fin 10) (x : Mem) : (s.setMem m x).pmu = s.pmu := rfl
@[simp] theorem State.rst_setMem (s : State) (m : Fin 10) (x : Mem) : (s.setMem m x).rst = s.rst := rfl
@[simp] theorem State.flt_setMem (s : State) (m : Fin 10) (x : Mem) : (s.setMem m x).flt = s.flt := rfl
@[simp] theorem State.mon_setMem (s : State) (m : Fin 10) (x : Mem) : (s.setMem m x).mon = s.mon := rfl
@[simp] theorem State.ucs_setMem (s : State) (m : Fin 10) (x : Mem) : (s.setMem m x).ucs = s.ucs := rfl
@[simp] theorem State.quy_setMem (s : State) (m : Fin 10) (x : Mem) : (s.setMem m x).quy = s.quy := rfl
@[simp] theorem State.scr_setMem (s : State) (m : Fin 10) (x : Mem) : (s.setMem m x).scr = s.scr := rfl
@[simp] theorem State.sched_setMem (s : State) (m : Fin 10) (x : Mem) : (s.setMem m x).sched = s.sched := rfl
@[simp] theorem State.tap_setMem (s : State) (m : Fin 10) (x : Mem) : (s.setMem m x).tap = s.tap := rfl
@[simp] theorem State.freeCtr_setMem (s : State) (m : Fin 10) (x : Mem) : (s.setMem m x).freeCtr = s.freeCtr := rfl

@[simp] theorem State.pending_setRegion (s : State) (r : Nat) (x : Region) : (s.setRegion r x).pending = s.pending := rfl
@[simp] theorem State.tim_setRegion (s : State) (r : Nat) (x : Region) : (s.setRegion r x).tim = s.tim := rfl
@[simp] theorem State.nar_setRegion (s : State) (r : Nat) (x : Region) : (s.setRegion r x).nar = s.nar := rfl
@[simp] theorem State.lnk_setRegion (s : State) (r : Nat) (x : Region) : (s.setRegion r x).lnk = s.lnk := rfl
@[simp] theorem State.berths_setRegion (s : State) (r : Nat) (x : Region) : (s.setRegion r x).berths = s.berths := rfl
@[simp] theorem State.bth_setRegion (s : State) (r : Nat) (x : Region) : (s.setRegion r x).bth = s.bth := rfl
@[simp] theorem State.pool_setRegion (s : State) (r : Nat) (x : Region) : (s.setRegion r x).pool = s.pool := rfl
@[simp] theorem State.scratch_setRegion (s : State) (r : Nat) (x : Region) : (s.setRegion r x).scratch = s.scratch := rfl
@[simp] theorem State.scrTags_setRegion (s : State) (r : Nat) (x : Region) : (s.setRegion r x).scrTags = s.scrTags := rfl
@[simp] theorem State.grd_setRegion (s : State) (r : Nat) (x : Region) : (s.setRegion r x).grd = s.grd := rfl
@[simp] theorem State.rings_setRegion (s : State) (r : Nat) (x : Region) : (s.setRegion r x).rings = s.rings := rfl
@[simp] theorem State.holds_setRegion (s : State) (r : Nat) (x : Region) : (s.setRegion r x).holds = s.holds := rfl
@[simp] theorem State.rng_setRegion (s : State) (r : Nat) (x : Region) : (s.setRegion r x).rng = s.rng := rfl
@[simp] theorem State.store_setRegion (s : State) (r : Nat) (x : Region) : (s.setRegion r x).store = s.store := rfl
@[simp] theorem State.log_setRegion (s : State) (r : Nat) (x : Region) : (s.setRegion r x).log = s.log := rfl
@[simp] theorem State.ctr_setRegion (s : State) (r : Nat) (x : Region) : (s.setRegion r x).ctr = s.ctr := rfl
@[simp] theorem State.ftl_setRegion (s : State) (r : Nat) (x : Region) : (s.setRegion r x).ftl = s.ftl := rfl
@[simp] theorem State.dies_setRegion (s : State) (r : Nat) (x : Region) : (s.setRegion r x).dies = s.dies := rfl
@[simp] theorem State.nextOp_setRegion (s : State) (r : Nat) (x : Region) : (s.setRegion r x).nextOp = s.nextOp := rfl
@[simp] theorem State.cod_setRegion (s : State) (r : Nat) (x : Region) : (s.setRegion r x).cod = s.cod := rfl
@[simp] theorem State.mems_setRegion (s : State) (r : Nat) (x : Region) : (s.setRegion r x).mems = s.mems := rfl
@[simp] theorem State.mem_setRegion (s : State) (r : Nat) (x : Region) : (s.setRegion r x).mem = s.mem := rfl
@[simp] theorem State.hup_setRegion (s : State) (r : Nat) (x : Region) : (s.setRegion r x).hup = s.hup := rfl
@[simp] theorem State.pmu_setRegion (s : State) (r : Nat) (x : Region) : (s.setRegion r x).pmu = s.pmu := rfl
@[simp] theorem State.rst_setRegion (s : State) (r : Nat) (x : Region) : (s.setRegion r x).rst = s.rst := rfl
@[simp] theorem State.flt_setRegion (s : State) (r : Nat) (x : Region) : (s.setRegion r x).flt = s.flt := rfl
@[simp] theorem State.mon_setRegion (s : State) (r : Nat) (x : Region) : (s.setRegion r x).mon = s.mon := rfl
@[simp] theorem State.ucs_setRegion (s : State) (r : Nat) (x : Region) : (s.setRegion r x).ucs = s.ucs := rfl
@[simp] theorem State.quy_setRegion (s : State) (r : Nat) (x : Region) : (s.setRegion r x).quy = s.quy := rfl
@[simp] theorem State.scr_setRegion (s : State) (r : Nat) (x : Region) : (s.setRegion r x).scr = s.scr := rfl
@[simp] theorem State.sched_setRegion (s : State) (r : Nat) (x : Region) : (s.setRegion r x).sched = s.sched := rfl
@[simp] theorem State.tap_setRegion (s : State) (r : Nat) (x : Region) : (s.setRegion r x).tap = s.tap := rfl
@[simp] theorem State.freeCtr_setRegion (s : State) (r : Nat) (x : Region) : (s.setRegion r x).freeCtr = s.freeCtr := rfl

@[simp] theorem State.pending_setRing (s : State) (r : Nat) (x : Ring) : (s.setRing r x).pending = s.pending := rfl
@[simp] theorem State.tim_setRing (s : State) (r : Nat) (x : Ring) : (s.setRing r x).tim = s.tim := rfl
@[simp] theorem State.nar_setRing (s : State) (r : Nat) (x : Ring) : (s.setRing r x).nar = s.nar := rfl
@[simp] theorem State.lnk_setRing (s : State) (r : Nat) (x : Ring) : (s.setRing r x).lnk = s.lnk := rfl
@[simp] theorem State.berths_setRing (s : State) (r : Nat) (x : Ring) : (s.setRing r x).berths = s.berths := rfl
@[simp] theorem State.bth_setRing (s : State) (r : Nat) (x : Ring) : (s.setRing r x).bth = s.bth := rfl
@[simp] theorem State.pool_setRing (s : State) (r : Nat) (x : Ring) : (s.setRing r x).pool = s.pool := rfl
@[simp] theorem State.scratch_setRing (s : State) (r : Nat) (x : Ring) : (s.setRing r x).scratch = s.scratch := rfl
@[simp] theorem State.scrTags_setRing (s : State) (r : Nat) (x : Ring) : (s.setRing r x).scrTags = s.scrTags := rfl
@[simp] theorem State.rgn_setRing (s : State) (r : Nat) (x : Ring) : (s.setRing r x).rgn = s.rgn := rfl
@[simp] theorem State.grd_setRing (s : State) (r : Nat) (x : Ring) : (s.setRing r x).grd = s.grd := rfl
@[simp] theorem State.holds_setRing (s : State) (r : Nat) (x : Ring) : (s.setRing r x).holds = s.holds := rfl
@[simp] theorem State.rng_setRing (s : State) (r : Nat) (x : Ring) : (s.setRing r x).rng = s.rng := rfl
@[simp] theorem State.store_setRing (s : State) (r : Nat) (x : Ring) : (s.setRing r x).store = s.store := rfl
@[simp] theorem State.log_setRing (s : State) (r : Nat) (x : Ring) : (s.setRing r x).log = s.log := rfl
@[simp] theorem State.ctr_setRing (s : State) (r : Nat) (x : Ring) : (s.setRing r x).ctr = s.ctr := rfl
@[simp] theorem State.ftl_setRing (s : State) (r : Nat) (x : Ring) : (s.setRing r x).ftl = s.ftl := rfl
@[simp] theorem State.dies_setRing (s : State) (r : Nat) (x : Ring) : (s.setRing r x).dies = s.dies := rfl
@[simp] theorem State.nextOp_setRing (s : State) (r : Nat) (x : Ring) : (s.setRing r x).nextOp = s.nextOp := rfl
@[simp] theorem State.cod_setRing (s : State) (r : Nat) (x : Ring) : (s.setRing r x).cod = s.cod := rfl
@[simp] theorem State.mems_setRing (s : State) (r : Nat) (x : Ring) : (s.setRing r x).mems = s.mems := rfl
@[simp] theorem State.mem_setRing (s : State) (r : Nat) (x : Ring) : (s.setRing r x).mem = s.mem := rfl
@[simp] theorem State.hup_setRing (s : State) (r : Nat) (x : Ring) : (s.setRing r x).hup = s.hup := rfl
@[simp] theorem State.pmu_setRing (s : State) (r : Nat) (x : Ring) : (s.setRing r x).pmu = s.pmu := rfl
@[simp] theorem State.rst_setRing (s : State) (r : Nat) (x : Ring) : (s.setRing r x).rst = s.rst := rfl
@[simp] theorem State.flt_setRing (s : State) (r : Nat) (x : Ring) : (s.setRing r x).flt = s.flt := rfl
@[simp] theorem State.mon_setRing (s : State) (r : Nat) (x : Ring) : (s.setRing r x).mon = s.mon := rfl
@[simp] theorem State.ucs_setRing (s : State) (r : Nat) (x : Ring) : (s.setRing r x).ucs = s.ucs := rfl
@[simp] theorem State.quy_setRing (s : State) (r : Nat) (x : Ring) : (s.setRing r x).quy = s.quy := rfl
@[simp] theorem State.scr_setRing (s : State) (r : Nat) (x : Ring) : (s.setRing r x).scr = s.scr := rfl
@[simp] theorem State.sched_setRing (s : State) (r : Nat) (x : Ring) : (s.setRing r x).sched = s.sched := rfl
@[simp] theorem State.tap_setRing (s : State) (r : Nat) (x : Ring) : (s.setRing r x).tap = s.tap := rfl
@[simp] theorem State.freeCtr_setRing (s : State) (r : Nat) (x : Ring) : (s.setRing r x).freeCtr = s.freeCtr := rfl

@[simp] theorem State.pending_setSource (s : State) (i : Fin 64) (x : Source) : (s.setSource i x).pending = s.pending := rfl
@[simp] theorem State.tim_setSource (s : State) (i : Fin 64) (x : Source) : (s.setSource i x).tim = s.tim := rfl
@[simp] theorem State.nar_setSource (s : State) (i : Fin 64) (x : Source) : (s.setSource i x).nar = s.nar := rfl
@[simp] theorem State.lnk_setSource (s : State) (i : Fin 64) (x : Source) : (s.setSource i x).lnk = s.lnk := rfl
@[simp] theorem State.berths_setSource (s : State) (i : Fin 64) (x : Source) : (s.setSource i x).berths = s.berths := rfl
@[simp] theorem State.bth_setSource (s : State) (i : Fin 64) (x : Source) : (s.setSource i x).bth = s.bth := rfl
@[simp] theorem State.pool_setSource (s : State) (i : Fin 64) (x : Source) : (s.setSource i x).pool = s.pool := rfl
@[simp] theorem State.scratch_setSource (s : State) (i : Fin 64) (x : Source) : (s.setSource i x).scratch = s.scratch := rfl
@[simp] theorem State.scrTags_setSource (s : State) (i : Fin 64) (x : Source) : (s.setSource i x).scrTags = s.scrTags := rfl
@[simp] theorem State.rgn_setSource (s : State) (i : Fin 64) (x : Source) : (s.setSource i x).rgn = s.rgn := rfl
@[simp] theorem State.grd_setSource (s : State) (i : Fin 64) (x : Source) : (s.setSource i x).grd = s.grd := rfl
@[simp] theorem State.rings_setSource (s : State) (i : Fin 64) (x : Source) : (s.setSource i x).rings = s.rings := rfl
@[simp] theorem State.holds_setSource (s : State) (i : Fin 64) (x : Source) : (s.setSource i x).holds = s.holds := rfl
@[simp] theorem State.rng_setSource (s : State) (i : Fin 64) (x : Source) : (s.setSource i x).rng = s.rng := rfl
@[simp] theorem State.store_setSource (s : State) (i : Fin 64) (x : Source) : (s.setSource i x).store = s.store := rfl
@[simp] theorem State.log_setSource (s : State) (i : Fin 64) (x : Source) : (s.setSource i x).log = s.log := rfl
@[simp] theorem State.ctr_setSource (s : State) (i : Fin 64) (x : Source) : (s.setSource i x).ctr = s.ctr := rfl
@[simp] theorem State.ftl_setSource (s : State) (i : Fin 64) (x : Source) : (s.setSource i x).ftl = s.ftl := rfl
@[simp] theorem State.dies_setSource (s : State) (i : Fin 64) (x : Source) : (s.setSource i x).dies = s.dies := rfl
@[simp] theorem State.nextOp_setSource (s : State) (i : Fin 64) (x : Source) : (s.setSource i x).nextOp = s.nextOp := rfl
@[simp] theorem State.cod_setSource (s : State) (i : Fin 64) (x : Source) : (s.setSource i x).cod = s.cod := rfl
@[simp] theorem State.mems_setSource (s : State) (i : Fin 64) (x : Source) : (s.setSource i x).mems = s.mems := rfl
@[simp] theorem State.mem_setSource (s : State) (i : Fin 64) (x : Source) : (s.setSource i x).mem = s.mem := rfl
@[simp] theorem State.hup_setSource (s : State) (i : Fin 64) (x : Source) : (s.setSource i x).hup = s.hup := rfl
@[simp] theorem State.pmu_setSource (s : State) (i : Fin 64) (x : Source) : (s.setSource i x).pmu = s.pmu := rfl
@[simp] theorem State.rst_setSource (s : State) (i : Fin 64) (x : Source) : (s.setSource i x).rst = s.rst := rfl
@[simp] theorem State.mon_setSource (s : State) (i : Fin 64) (x : Source) : (s.setSource i x).mon = s.mon := rfl
@[simp] theorem State.ucs_setSource (s : State) (i : Fin 64) (x : Source) : (s.setSource i x).ucs = s.ucs := rfl
@[simp] theorem State.quy_setSource (s : State) (i : Fin 64) (x : Source) : (s.setSource i x).quy = s.quy := rfl
@[simp] theorem State.scr_setSource (s : State) (i : Fin 64) (x : Source) : (s.setSource i x).scr = s.scr := rfl
@[simp] theorem State.sched_setSource (s : State) (i : Fin 64) (x : Source) : (s.setSource i x).sched = s.sched := rfl
@[simp] theorem State.tap_setSource (s : State) (i : Fin 64) (x : Source) : (s.setSource i x).tap = s.tap := rfl
@[simp] theorem State.freeCtr_setSource (s : State) (i : Fin 64) (x : Source) : (s.setSource i x).freeCtr = s.freeCtr := rfl

@[simp] theorem State.pending_setPort (s : State) (p : Fin 3) (x : Port) : (s.setPort p x).pending = s.pending := rfl
@[simp] theorem State.tim_setPort (s : State) (p : Fin 3) (x : Port) : (s.setPort p x).tim = s.tim := rfl
@[simp] theorem State.nar_setPort (s : State) (p : Fin 3) (x : Port) : (s.setPort p x).nar = s.nar := rfl
@[simp] theorem State.lnk_setPort (s : State) (p : Fin 3) (x : Port) : (s.setPort p x).lnk = s.lnk := rfl
@[simp] theorem State.berths_setPort (s : State) (p : Fin 3) (x : Port) : (s.setPort p x).berths = s.berths := rfl
@[simp] theorem State.bth_setPort (s : State) (p : Fin 3) (x : Port) : (s.setPort p x).bth = s.bth := rfl
@[simp] theorem State.pool_setPort (s : State) (p : Fin 3) (x : Port) : (s.setPort p x).pool = s.pool := rfl
@[simp] theorem State.scratch_setPort (s : State) (p : Fin 3) (x : Port) : (s.setPort p x).scratch = s.scratch := rfl
@[simp] theorem State.scrTags_setPort (s : State) (p : Fin 3) (x : Port) : (s.setPort p x).scrTags = s.scrTags := rfl
@[simp] theorem State.rgn_setPort (s : State) (p : Fin 3) (x : Port) : (s.setPort p x).rgn = s.rgn := rfl
@[simp] theorem State.grd_setPort (s : State) (p : Fin 3) (x : Port) : (s.setPort p x).grd = s.grd := rfl
@[simp] theorem State.rings_setPort (s : State) (p : Fin 3) (x : Port) : (s.setPort p x).rings = s.rings := rfl
@[simp] theorem State.holds_setPort (s : State) (p : Fin 3) (x : Port) : (s.setPort p x).holds = s.holds := rfl
@[simp] theorem State.rng_setPort (s : State) (p : Fin 3) (x : Port) : (s.setPort p x).rng = s.rng := rfl
@[simp] theorem State.store_setPort (s : State) (p : Fin 3) (x : Port) : (s.setPort p x).store = s.store := rfl
@[simp] theorem State.log_setPort (s : State) (p : Fin 3) (x : Port) : (s.setPort p x).log = s.log := rfl
@[simp] theorem State.ctr_setPort (s : State) (p : Fin 3) (x : Port) : (s.setPort p x).ctr = s.ctr := rfl
@[simp] theorem State.ftl_setPort (s : State) (p : Fin 3) (x : Port) : (s.setPort p x).ftl = s.ftl := rfl
@[simp] theorem State.dies_setPort (s : State) (p : Fin 3) (x : Port) : (s.setPort p x).dies = s.dies := rfl
@[simp] theorem State.nextOp_setPort (s : State) (p : Fin 3) (x : Port) : (s.setPort p x).nextOp = s.nextOp := rfl
@[simp] theorem State.cod_setPort (s : State) (p : Fin 3) (x : Port) : (s.setPort p x).cod = s.cod := rfl
@[simp] theorem State.mems_setPort (s : State) (p : Fin 3) (x : Port) : (s.setPort p x).mems = s.mems := rfl
@[simp] theorem State.mem_setPort (s : State) (p : Fin 3) (x : Port) : (s.setPort p x).mem = s.mem := rfl
@[simp] theorem State.hup_setPort (s : State) (p : Fin 3) (x : Port) : (s.setPort p x).hup = s.hup := rfl
@[simp] theorem State.pmu_setPort (s : State) (p : Fin 3) (x : Port) : (s.setPort p x).pmu = s.pmu := rfl
@[simp] theorem State.rst_setPort (s : State) (p : Fin 3) (x : Port) : (s.setPort p x).rst = s.rst := rfl
@[simp] theorem State.flt_setPort (s : State) (p : Fin 3) (x : Port) : (s.setPort p x).flt = s.flt := rfl
@[simp] theorem State.mon_setPort (s : State) (p : Fin 3) (x : Port) : (s.setPort p x).mon = s.mon := rfl
@[simp] theorem State.ucs_setPort (s : State) (p : Fin 3) (x : Port) : (s.setPort p x).ucs = s.ucs := rfl
@[simp] theorem State.scr_setPort (s : State) (p : Fin 3) (x : Port) : (s.setPort p x).scr = s.scr := rfl
@[simp] theorem State.sched_setPort (s : State) (p : Fin 3) (x : Port) : (s.setPort p x).sched = s.sched := rfl
@[simp] theorem State.tap_setPort (s : State) (p : Fin 3) (x : Port) : (s.setPort p x).tap = s.tap := rfl
@[simp] theorem State.freeCtr_setPort (s : State) (p : Fin 3) (x : Port) : (s.setPort p x).freeCtr = s.freeCtr := rfl

@[simp] theorem State.pending_setCounter (s : State) (n : Fin 32) (x : Counter) : (s.setCounter n x).pending = s.pending := rfl
@[simp] theorem State.tim_setCounter (s : State) (n : Fin 32) (x : Counter) : (s.setCounter n x).tim = s.tim := rfl
@[simp] theorem State.nar_setCounter (s : State) (n : Fin 32) (x : Counter) : (s.setCounter n x).nar = s.nar := rfl
@[simp] theorem State.lnk_setCounter (s : State) (n : Fin 32) (x : Counter) : (s.setCounter n x).lnk = s.lnk := rfl
@[simp] theorem State.berths_setCounter (s : State) (n : Fin 32) (x : Counter) : (s.setCounter n x).berths = s.berths := rfl
@[simp] theorem State.bth_setCounter (s : State) (n : Fin 32) (x : Counter) : (s.setCounter n x).bth = s.bth := rfl
@[simp] theorem State.pool_setCounter (s : State) (n : Fin 32) (x : Counter) : (s.setCounter n x).pool = s.pool := rfl
@[simp] theorem State.scratch_setCounter (s : State) (n : Fin 32) (x : Counter) : (s.setCounter n x).scratch = s.scratch := rfl
@[simp] theorem State.scrTags_setCounter (s : State) (n : Fin 32) (x : Counter) : (s.setCounter n x).scrTags = s.scrTags := rfl
@[simp] theorem State.rgn_setCounter (s : State) (n : Fin 32) (x : Counter) : (s.setCounter n x).rgn = s.rgn := rfl
@[simp] theorem State.grd_setCounter (s : State) (n : Fin 32) (x : Counter) : (s.setCounter n x).grd = s.grd := rfl
@[simp] theorem State.rings_setCounter (s : State) (n : Fin 32) (x : Counter) : (s.setCounter n x).rings = s.rings := rfl
@[simp] theorem State.holds_setCounter (s : State) (n : Fin 32) (x : Counter) : (s.setCounter n x).holds = s.holds := rfl
@[simp] theorem State.rng_setCounter (s : State) (n : Fin 32) (x : Counter) : (s.setCounter n x).rng = s.rng := rfl
@[simp] theorem State.store_setCounter (s : State) (n : Fin 32) (x : Counter) : (s.setCounter n x).store = s.store := rfl
@[simp] theorem State.log_setCounter (s : State) (n : Fin 32) (x : Counter) : (s.setCounter n x).log = s.log := rfl
@[simp] theorem State.ftl_setCounter (s : State) (n : Fin 32) (x : Counter) : (s.setCounter n x).ftl = s.ftl := rfl
@[simp] theorem State.dies_setCounter (s : State) (n : Fin 32) (x : Counter) : (s.setCounter n x).dies = s.dies := rfl
@[simp] theorem State.nextOp_setCounter (s : State) (n : Fin 32) (x : Counter) : (s.setCounter n x).nextOp = s.nextOp := rfl
@[simp] theorem State.cod_setCounter (s : State) (n : Fin 32) (x : Counter) : (s.setCounter n x).cod = s.cod := rfl
@[simp] theorem State.mems_setCounter (s : State) (n : Fin 32) (x : Counter) : (s.setCounter n x).mems = s.mems := rfl
@[simp] theorem State.mem_setCounter (s : State) (n : Fin 32) (x : Counter) : (s.setCounter n x).mem = s.mem := rfl
@[simp] theorem State.hup_setCounter (s : State) (n : Fin 32) (x : Counter) : (s.setCounter n x).hup = s.hup := rfl
@[simp] theorem State.pmu_setCounter (s : State) (n : Fin 32) (x : Counter) : (s.setCounter n x).pmu = s.pmu := rfl
@[simp] theorem State.rst_setCounter (s : State) (n : Fin 32) (x : Counter) : (s.setCounter n x).rst = s.rst := rfl
@[simp] theorem State.flt_setCounter (s : State) (n : Fin 32) (x : Counter) : (s.setCounter n x).flt = s.flt := rfl
@[simp] theorem State.mon_setCounter (s : State) (n : Fin 32) (x : Counter) : (s.setCounter n x).mon = s.mon := rfl
@[simp] theorem State.ucs_setCounter (s : State) (n : Fin 32) (x : Counter) : (s.setCounter n x).ucs = s.ucs := rfl
@[simp] theorem State.quy_setCounter (s : State) (n : Fin 32) (x : Counter) : (s.setCounter n x).quy = s.quy := rfl
@[simp] theorem State.scr_setCounter (s : State) (n : Fin 32) (x : Counter) : (s.setCounter n x).scr = s.scr := rfl
@[simp] theorem State.sched_setCounter (s : State) (n : Fin 32) (x : Counter) : (s.setCounter n x).sched = s.sched := rfl
@[simp] theorem State.tap_setCounter (s : State) (n : Fin 32) (x : Counter) : (s.setCounter n x).tap = s.tap := rfl
@[simp] theorem State.freeCtr_setCounter (s : State) (n : Fin 32) (x : Counter) : (s.setCounter n x).freeCtr = s.freeCtr := rfl

@[simp] theorem State.pending_addDie (s : State) (k : DieKind) : (s.addDie k).pending = s.pending := rfl
@[simp] theorem State.tim_addDie (s : State) (k : DieKind) : (s.addDie k).tim = s.tim := rfl
@[simp] theorem State.nar_addDie (s : State) (k : DieKind) : (s.addDie k).nar = s.nar := rfl
@[simp] theorem State.lnk_addDie (s : State) (k : DieKind) : (s.addDie k).lnk = s.lnk := rfl
@[simp] theorem State.berths_addDie (s : State) (k : DieKind) : (s.addDie k).berths = s.berths := rfl
@[simp] theorem State.bth_addDie (s : State) (k : DieKind) : (s.addDie k).bth = s.bth := rfl
@[simp] theorem State.pool_addDie (s : State) (k : DieKind) : (s.addDie k).pool = s.pool := rfl
@[simp] theorem State.scratch_addDie (s : State) (k : DieKind) : (s.addDie k).scratch = s.scratch := rfl
@[simp] theorem State.scrTags_addDie (s : State) (k : DieKind) : (s.addDie k).scrTags = s.scrTags := rfl
@[simp] theorem State.rgn_addDie (s : State) (k : DieKind) : (s.addDie k).rgn = s.rgn := rfl
@[simp] theorem State.grd_addDie (s : State) (k : DieKind) : (s.addDie k).grd = s.grd := rfl
@[simp] theorem State.rings_addDie (s : State) (k : DieKind) : (s.addDie k).rings = s.rings := rfl
@[simp] theorem State.holds_addDie (s : State) (k : DieKind) : (s.addDie k).holds = s.holds := rfl
@[simp] theorem State.rng_addDie (s : State) (k : DieKind) : (s.addDie k).rng = s.rng := rfl
@[simp] theorem State.store_addDie (s : State) (k : DieKind) : (s.addDie k).store = s.store := rfl
@[simp] theorem State.log_addDie (s : State) (k : DieKind) : (s.addDie k).log = s.log := rfl
@[simp] theorem State.ctr_addDie (s : State) (k : DieKind) : (s.addDie k).ctr = s.ctr := rfl
@[simp] theorem State.ftl_addDie (s : State) (k : DieKind) : (s.addDie k).ftl = s.ftl := rfl
@[simp] theorem State.cod_addDie (s : State) (k : DieKind) : (s.addDie k).cod = s.cod := rfl
@[simp] theorem State.mems_addDie (s : State) (k : DieKind) : (s.addDie k).mems = s.mems := rfl
@[simp] theorem State.mem_addDie (s : State) (k : DieKind) : (s.addDie k).mem = s.mem := rfl
@[simp] theorem State.hup_addDie (s : State) (k : DieKind) : (s.addDie k).hup = s.hup := rfl
@[simp] theorem State.pmu_addDie (s : State) (k : DieKind) : (s.addDie k).pmu = s.pmu := rfl
@[simp] theorem State.rst_addDie (s : State) (k : DieKind) : (s.addDie k).rst = s.rst := rfl
@[simp] theorem State.flt_addDie (s : State) (k : DieKind) : (s.addDie k).flt = s.flt := rfl
@[simp] theorem State.mon_addDie (s : State) (k : DieKind) : (s.addDie k).mon = s.mon := rfl
@[simp] theorem State.ucs_addDie (s : State) (k : DieKind) : (s.addDie k).ucs = s.ucs := rfl
@[simp] theorem State.quy_addDie (s : State) (k : DieKind) : (s.addDie k).quy = s.quy := rfl
@[simp] theorem State.scr_addDie (s : State) (k : DieKind) : (s.addDie k).scr = s.scr := rfl
@[simp] theorem State.sched_addDie (s : State) (k : DieKind) : (s.addDie k).sched = s.sched := rfl
@[simp] theorem State.tap_addDie (s : State) (k : DieKind) : (s.addDie k).tap = s.tap := rfl
@[simp] theorem State.freeCtr_addDie (s : State) (k : DieKind) : (s.addDie k).freeCtr = s.freeCtr := rfl

@[simp] theorem State.pending_dropDie (s : State) (id : Nat) : (s.dropDie id).pending = s.pending := rfl
@[simp] theorem State.tim_dropDie (s : State) (id : Nat) : (s.dropDie id).tim = s.tim := rfl
@[simp] theorem State.nar_dropDie (s : State) (id : Nat) : (s.dropDie id).nar = s.nar := rfl
@[simp] theorem State.lnk_dropDie (s : State) (id : Nat) : (s.dropDie id).lnk = s.lnk := rfl
@[simp] theorem State.berths_dropDie (s : State) (id : Nat) : (s.dropDie id).berths = s.berths := rfl
@[simp] theorem State.bth_dropDie (s : State) (id : Nat) : (s.dropDie id).bth = s.bth := rfl
@[simp] theorem State.pool_dropDie (s : State) (id : Nat) : (s.dropDie id).pool = s.pool := rfl
@[simp] theorem State.scratch_dropDie (s : State) (id : Nat) : (s.dropDie id).scratch = s.scratch := rfl
@[simp] theorem State.scrTags_dropDie (s : State) (id : Nat) : (s.dropDie id).scrTags = s.scrTags := rfl
@[simp] theorem State.rgn_dropDie (s : State) (id : Nat) : (s.dropDie id).rgn = s.rgn := rfl
@[simp] theorem State.grd_dropDie (s : State) (id : Nat) : (s.dropDie id).grd = s.grd := rfl
@[simp] theorem State.rings_dropDie (s : State) (id : Nat) : (s.dropDie id).rings = s.rings := rfl
@[simp] theorem State.holds_dropDie (s : State) (id : Nat) : (s.dropDie id).holds = s.holds := rfl
@[simp] theorem State.rng_dropDie (s : State) (id : Nat) : (s.dropDie id).rng = s.rng := rfl
@[simp] theorem State.store_dropDie (s : State) (id : Nat) : (s.dropDie id).store = s.store := rfl
@[simp] theorem State.log_dropDie (s : State) (id : Nat) : (s.dropDie id).log = s.log := rfl
@[simp] theorem State.ctr_dropDie (s : State) (id : Nat) : (s.dropDie id).ctr = s.ctr := rfl
@[simp] theorem State.ftl_dropDie (s : State) (id : Nat) : (s.dropDie id).ftl = s.ftl := rfl
@[simp] theorem State.nextOp_dropDie (s : State) (id : Nat) : (s.dropDie id).nextOp = s.nextOp := rfl
@[simp] theorem State.cod_dropDie (s : State) (id : Nat) : (s.dropDie id).cod = s.cod := rfl
@[simp] theorem State.mems_dropDie (s : State) (id : Nat) : (s.dropDie id).mems = s.mems := rfl
@[simp] theorem State.mem_dropDie (s : State) (id : Nat) : (s.dropDie id).mem = s.mem := rfl
@[simp] theorem State.hup_dropDie (s : State) (id : Nat) : (s.dropDie id).hup = s.hup := rfl
@[simp] theorem State.pmu_dropDie (s : State) (id : Nat) : (s.dropDie id).pmu = s.pmu := rfl
@[simp] theorem State.rst_dropDie (s : State) (id : Nat) : (s.dropDie id).rst = s.rst := rfl
@[simp] theorem State.flt_dropDie (s : State) (id : Nat) : (s.dropDie id).flt = s.flt := rfl
@[simp] theorem State.mon_dropDie (s : State) (id : Nat) : (s.dropDie id).mon = s.mon := rfl
@[simp] theorem State.ucs_dropDie (s : State) (id : Nat) : (s.dropDie id).ucs = s.ucs := rfl
@[simp] theorem State.quy_dropDie (s : State) (id : Nat) : (s.dropDie id).quy = s.quy := rfl
@[simp] theorem State.scr_dropDie (s : State) (id : Nat) : (s.dropDie id).scr = s.scr := rfl
@[simp] theorem State.sched_dropDie (s : State) (id : Nat) : (s.dropDie id).sched = s.sched := rfl
@[simp] theorem State.tap_dropDie (s : State) (id : Nat) : (s.dropDie id).tap = s.tap := rfl
@[simp] theorem State.freeCtr_dropDie (s : State) (id : Nat) : (s.dropDie id).freeCtr = s.freeCtr := rfl

@[simp] theorem State.pending_addChange (s : State) (c : Change) : (s.addChange c).pending = s.pending := rfl
@[simp] theorem State.tim_addChange (s : State) (c : Change) : (s.addChange c).tim = s.tim := rfl
@[simp] theorem State.nar_addChange (s : State) (c : Change) : (s.addChange c).nar = s.nar := rfl
@[simp] theorem State.lnk_addChange (s : State) (c : Change) : (s.addChange c).lnk = s.lnk := rfl
@[simp] theorem State.berths_addChange (s : State) (c : Change) : (s.addChange c).berths = s.berths := rfl
@[simp] theorem State.bth_addChange (s : State) (c : Change) : (s.addChange c).bth = s.bth := rfl
@[simp] theorem State.pool_addChange (s : State) (c : Change) : (s.addChange c).pool = s.pool := rfl
@[simp] theorem State.scratch_addChange (s : State) (c : Change) : (s.addChange c).scratch = s.scratch := rfl
@[simp] theorem State.scrTags_addChange (s : State) (c : Change) : (s.addChange c).scrTags = s.scrTags := rfl
@[simp] theorem State.rgn_addChange (s : State) (c : Change) : (s.addChange c).rgn = s.rgn := rfl
@[simp] theorem State.grd_addChange (s : State) (c : Change) : (s.addChange c).grd = s.grd := rfl
@[simp] theorem State.rings_addChange (s : State) (c : Change) : (s.addChange c).rings = s.rings := rfl
@[simp] theorem State.holds_addChange (s : State) (c : Change) : (s.addChange c).holds = s.holds := rfl
@[simp] theorem State.rng_addChange (s : State) (c : Change) : (s.addChange c).rng = s.rng := rfl
@[simp] theorem State.store_addChange (s : State) (c : Change) : (s.addChange c).store = s.store := rfl
@[simp] theorem State.log_addChange (s : State) (c : Change) : (s.addChange c).log = s.log := rfl
@[simp] theorem State.ctr_addChange (s : State) (c : Change) : (s.addChange c).ctr = s.ctr := rfl
@[simp] theorem State.dies_addChange (s : State) (c : Change) : (s.addChange c).dies = s.dies := rfl
@[simp] theorem State.nextOp_addChange (s : State) (c : Change) : (s.addChange c).nextOp = s.nextOp := rfl
@[simp] theorem State.cod_addChange (s : State) (c : Change) : (s.addChange c).cod = s.cod := rfl
@[simp] theorem State.mems_addChange (s : State) (c : Change) : (s.addChange c).mems = s.mems := rfl
@[simp] theorem State.mem_addChange (s : State) (c : Change) : (s.addChange c).mem = s.mem := rfl
@[simp] theorem State.hup_addChange (s : State) (c : Change) : (s.addChange c).hup = s.hup := rfl
@[simp] theorem State.pmu_addChange (s : State) (c : Change) : (s.addChange c).pmu = s.pmu := rfl
@[simp] theorem State.rst_addChange (s : State) (c : Change) : (s.addChange c).rst = s.rst := rfl
@[simp] theorem State.flt_addChange (s : State) (c : Change) : (s.addChange c).flt = s.flt := rfl
@[simp] theorem State.mon_addChange (s : State) (c : Change) : (s.addChange c).mon = s.mon := rfl
@[simp] theorem State.ucs_addChange (s : State) (c : Change) : (s.addChange c).ucs = s.ucs := rfl
@[simp] theorem State.quy_addChange (s : State) (c : Change) : (s.addChange c).quy = s.quy := rfl
@[simp] theorem State.scr_addChange (s : State) (c : Change) : (s.addChange c).scr = s.scr := rfl
@[simp] theorem State.sched_addChange (s : State) (c : Change) : (s.addChange c).sched = s.sched := rfl
@[simp] theorem State.tap_addChange (s : State) (c : Change) : (s.addChange c).tap = s.tap := rfl
@[simp] theorem State.freeCtr_addChange (s : State) (c : Change) : (s.addChange c).freeCtr = s.freeCtr := rfl

@[simp] theorem State.pending_elapse (s : State) : (s.elapse).pending = s.pending := rfl
@[simp] theorem State.nar_elapse (s : State) : (s.elapse).nar = s.nar := rfl
@[simp] theorem State.lnk_elapse (s : State) : (s.elapse).lnk = s.lnk := rfl
@[simp] theorem State.berths_elapse (s : State) : (s.elapse).berths = s.berths := rfl
@[simp] theorem State.bth_elapse (s : State) : (s.elapse).bth = s.bth := rfl
@[simp] theorem State.pool_elapse (s : State) : (s.elapse).pool = s.pool := rfl
@[simp] theorem State.scratch_elapse (s : State) : (s.elapse).scratch = s.scratch := rfl
@[simp] theorem State.scrTags_elapse (s : State) : (s.elapse).scrTags = s.scrTags := rfl
@[simp] theorem State.rgn_elapse (s : State) : (s.elapse).rgn = s.rgn := rfl
@[simp] theorem State.grd_elapse (s : State) : (s.elapse).grd = s.grd := rfl
@[simp] theorem State.rings_elapse (s : State) : (s.elapse).rings = s.rings := rfl
@[simp] theorem State.holds_elapse (s : State) : (s.elapse).holds = s.holds := rfl
@[simp] theorem State.rng_elapse (s : State) : (s.elapse).rng = s.rng := rfl
@[simp] theorem State.store_elapse (s : State) : (s.elapse).store = s.store := rfl
@[simp] theorem State.log_elapse (s : State) : (s.elapse).log = s.log := rfl
@[simp] theorem State.ctr_elapse (s : State) : (s.elapse).ctr = s.ctr := rfl
@[simp] theorem State.ftl_elapse (s : State) : (s.elapse).ftl = s.ftl := rfl
@[simp] theorem State.dies_elapse (s : State) : (s.elapse).dies = s.dies := rfl
@[simp] theorem State.nextOp_elapse (s : State) : (s.elapse).nextOp = s.nextOp := rfl
@[simp] theorem State.cod_elapse (s : State) : (s.elapse).cod = s.cod := rfl
@[simp] theorem State.mems_elapse (s : State) : (s.elapse).mems = s.mems := rfl
@[simp] theorem State.mem_elapse (s : State) : (s.elapse).mem = s.mem := rfl
@[simp] theorem State.hup_elapse (s : State) : (s.elapse).hup = s.hup := rfl
@[simp] theorem State.pmu_elapse (s : State) : (s.elapse).pmu = s.pmu := rfl
@[simp] theorem State.rst_elapse (s : State) : (s.elapse).rst = s.rst := rfl
@[simp] theorem State.flt_elapse (s : State) : (s.elapse).flt = s.flt := rfl
@[simp] theorem State.mon_elapse (s : State) : (s.elapse).mon = s.mon := rfl
@[simp] theorem State.ucs_elapse (s : State) : (s.elapse).ucs = s.ucs := rfl
@[simp] theorem State.quy_elapse (s : State) : (s.elapse).quy = s.quy := rfl
@[simp] theorem State.scr_elapse (s : State) : (s.elapse).scr = s.scr := rfl
@[simp] theorem State.sched_elapse (s : State) : (s.elapse).sched = s.sched := rfl
@[simp] theorem State.tap_elapse (s : State) : (s.elapse).tap = s.tap := rfl

@[simp] theorem State.pending_draw (s : State) : s.draw.2.pending = s.pending := rfl
@[simp] theorem State.tim_draw (s : State) : s.draw.2.tim = s.tim := rfl
@[simp] theorem State.nar_draw (s : State) : s.draw.2.nar = s.nar := rfl
@[simp] theorem State.lnk_draw (s : State) : s.draw.2.lnk = s.lnk := rfl
@[simp] theorem State.berths_draw (s : State) : s.draw.2.berths = s.berths := rfl
@[simp] theorem State.bth_draw (s : State) : s.draw.2.bth = s.bth := rfl
@[simp] theorem State.pool_draw (s : State) : s.draw.2.pool = s.pool := rfl
@[simp] theorem State.scratch_draw (s : State) : s.draw.2.scratch = s.scratch := rfl
@[simp] theorem State.scrTags_draw (s : State) : s.draw.2.scrTags = s.scrTags := rfl
@[simp] theorem State.rgn_draw (s : State) : s.draw.2.rgn = s.rgn := rfl
@[simp] theorem State.grd_draw (s : State) : s.draw.2.grd = s.grd := rfl
@[simp] theorem State.rings_draw (s : State) : s.draw.2.rings = s.rings := rfl
@[simp] theorem State.holds_draw (s : State) : s.draw.2.holds = s.holds := rfl
@[simp] theorem State.rng_draw (s : State) : s.draw.2.rng = s.rng := rfl
@[simp] theorem State.store_draw (s : State) : s.draw.2.store = s.store := rfl
@[simp] theorem State.log_draw (s : State) : s.draw.2.log = s.log := rfl
@[simp] theorem State.ctr_draw (s : State) : s.draw.2.ctr = s.ctr := rfl
@[simp] theorem State.ftl_draw (s : State) : s.draw.2.ftl = s.ftl := rfl
@[simp] theorem State.dies_draw (s : State) : s.draw.2.dies = s.dies := rfl
@[simp] theorem State.nextOp_draw (s : State) : s.draw.2.nextOp = s.nextOp := rfl
@[simp] theorem State.cod_draw (s : State) : s.draw.2.cod = s.cod := rfl
@[simp] theorem State.mems_draw (s : State) : s.draw.2.mems = s.mems := rfl
@[simp] theorem State.mem_draw (s : State) : s.draw.2.mem = s.mem := rfl
@[simp] theorem State.hup_draw (s : State) : s.draw.2.hup = s.hup := rfl
@[simp] theorem State.pmu_draw (s : State) : s.draw.2.pmu = s.pmu := rfl
@[simp] theorem State.rst_draw (s : State) : s.draw.2.rst = s.rst := rfl
@[simp] theorem State.flt_draw (s : State) : s.draw.2.flt = s.flt := rfl
@[simp] theorem State.mon_draw (s : State) : s.draw.2.mon = s.mon := rfl
@[simp] theorem State.ucs_draw (s : State) : s.draw.2.ucs = s.ucs := rfl
@[simp] theorem State.quy_draw (s : State) : s.draw.2.quy = s.quy := rfl
@[simp] theorem State.scr_draw (s : State) : s.draw.2.scr = s.scr := rfl
@[simp] theorem State.sched_draw (s : State) : s.draw.2.sched = s.sched := rfl
@[simp] theorem State.tap_draw (s : State) : s.draw.2.tap = s.tap := rfl

@[simp] theorem State.pending_takeTurn (s : State) (b : BerthId) (q : QInstr) : (s.takeTurn b q).pending = s.pending := rfl
@[simp] theorem State.tim_takeTurn (s : State) (b : BerthId) (q : QInstr) : (s.takeTurn b q).tim = s.tim := rfl
@[simp] theorem State.nar_takeTurn (s : State) (b : BerthId) (q : QInstr) : (s.takeTurn b q).nar = s.nar := rfl
@[simp] theorem State.lnk_takeTurn (s : State) (b : BerthId) (q : QInstr) : (s.takeTurn b q).lnk = s.lnk := rfl
@[simp] theorem State.berths_takeTurn (s : State) (b : BerthId) (q : QInstr) : (s.takeTurn b q).berths = s.berths := rfl
@[simp] theorem State.bth_takeTurn (s : State) (b : BerthId) (q : QInstr) : (s.takeTurn b q).bth = s.bth := rfl
@[simp] theorem State.pool_takeTurn (s : State) (b : BerthId) (q : QInstr) : (s.takeTurn b q).pool = s.pool := rfl
@[simp] theorem State.scratch_takeTurn (s : State) (b : BerthId) (q : QInstr) : (s.takeTurn b q).scratch = s.scratch := rfl
@[simp] theorem State.scrTags_takeTurn (s : State) (b : BerthId) (q : QInstr) : (s.takeTurn b q).scrTags = s.scrTags := rfl
@[simp] theorem State.rgn_takeTurn (s : State) (b : BerthId) (q : QInstr) : (s.takeTurn b q).rgn = s.rgn := rfl
@[simp] theorem State.grd_takeTurn (s : State) (b : BerthId) (q : QInstr) : (s.takeTurn b q).grd = s.grd := rfl
@[simp] theorem State.rings_takeTurn (s : State) (b : BerthId) (q : QInstr) : (s.takeTurn b q).rings = s.rings := rfl
@[simp] theorem State.holds_takeTurn (s : State) (b : BerthId) (q : QInstr) : (s.takeTurn b q).holds = s.holds := rfl
@[simp] theorem State.rng_takeTurn (s : State) (b : BerthId) (q : QInstr) : (s.takeTurn b q).rng = s.rng := rfl
@[simp] theorem State.store_takeTurn (s : State) (b : BerthId) (q : QInstr) : (s.takeTurn b q).store = s.store := rfl
@[simp] theorem State.log_takeTurn (s : State) (b : BerthId) (q : QInstr) : (s.takeTurn b q).log = s.log := rfl
@[simp] theorem State.ctr_takeTurn (s : State) (b : BerthId) (q : QInstr) : (s.takeTurn b q).ctr = s.ctr := rfl
@[simp] theorem State.ftl_takeTurn (s : State) (b : BerthId) (q : QInstr) : (s.takeTurn b q).ftl = s.ftl := rfl
@[simp] theorem State.dies_takeTurn (s : State) (b : BerthId) (q : QInstr) : (s.takeTurn b q).dies = s.dies := rfl
@[simp] theorem State.nextOp_takeTurn (s : State) (b : BerthId) (q : QInstr) : (s.takeTurn b q).nextOp = s.nextOp := rfl
@[simp] theorem State.cod_takeTurn (s : State) (b : BerthId) (q : QInstr) : (s.takeTurn b q).cod = s.cod := rfl
@[simp] theorem State.mems_takeTurn (s : State) (b : BerthId) (q : QInstr) : (s.takeTurn b q).mems = s.mems := rfl
@[simp] theorem State.mem_takeTurn (s : State) (b : BerthId) (q : QInstr) : (s.takeTurn b q).mem = s.mem := rfl
@[simp] theorem State.hup_takeTurn (s : State) (b : BerthId) (q : QInstr) : (s.takeTurn b q).hup = s.hup := rfl
@[simp] theorem State.pmu_takeTurn (s : State) (b : BerthId) (q : QInstr) : (s.takeTurn b q).pmu = s.pmu := rfl
@[simp] theorem State.rst_takeTurn (s : State) (b : BerthId) (q : QInstr) : (s.takeTurn b q).rst = s.rst := rfl
@[simp] theorem State.flt_takeTurn (s : State) (b : BerthId) (q : QInstr) : (s.takeTurn b q).flt = s.flt := rfl
@[simp] theorem State.mon_takeTurn (s : State) (b : BerthId) (q : QInstr) : (s.takeTurn b q).mon = s.mon := rfl
@[simp] theorem State.ucs_takeTurn (s : State) (b : BerthId) (q : QInstr) : (s.takeTurn b q).ucs = s.ucs := rfl
@[simp] theorem State.quy_takeTurn (s : State) (b : BerthId) (q : QInstr) : (s.takeTurn b q).quy = s.quy := rfl
@[simp] theorem State.scr_takeTurn (s : State) (b : BerthId) (q : QInstr) : (s.takeTurn b q).scr = s.scr := rfl
@[simp] theorem State.tap_takeTurn (s : State) (b : BerthId) (q : QInstr) : (s.takeTurn b q).tap = s.tap := rfl
@[simp] theorem State.freeCtr_takeTurn (s : State) (b : BerthId) (q : QInstr) : (s.takeTurn b q).freeCtr = s.freeCtr := rfl
@[simp] theorem State.berth_takeTurn (s : State) (b : BerthId) (q : QInstr) (b' : BerthId) : (s.takeTurn b q).berth b' = s.berth b' := rfl
@[simp] theorem State.memOf_takeTurn (s : State) (b : BerthId) (q : QInstr) (m : Fin 10) : (s.takeTurn b q).memOf m = s.memOf m := rfl
@[simp] theorem State.refusesBusy_takeTurn (s : State) (b : BerthId) (q : QInstr) (b' : BerthId) :
    (s.takeTurn b q).refusesBusy b' = s.refusesBusy b' := rfl

/-! ### Status blocks (R164) -/

@[simp] theorem State.berth_saveBlocks (s : State) (b : BerthId) :
    s.saveBlocks.berth b = { s.berth b with saved := (s.berth b).image } := by
  simp [State.berth, State.saveBlocks]

@[simp] theorem State.berth_reloadBlocks (s : State) (b : BerthId) : (s.reloadBlocks false).berth b = (s.berth b).reload := by
  simp [State.berth, State.reloadBlocks]

/-- A reloaded block is the one last committed. -/
@[simp] theorem Berth.image_reload (x : Berth) : x.reload.image = x.saved := rfl

@[simp] theorem Berth.saved_reload (x : Berth) : x.reload.saved = x.saved := rfl

/-- Commit, then reload: the block reads as it did. -/
theorem State.image_save_reload (s : State) (b : BerthId) :
    ((s.saveBlocks.reloadBlocks false).berth b).image = (s.berth b).image := by simp

end Sys2Proof.Machine
end

