-- ==== Sys2Proof/Laws/Turn.lean ====
section
/-! SUPPORT. The turn of a berth and the end of an instruction: when a meaning's own rules run, and all that a completion
can move. -/

namespace Sys2Proof.Machine

/-! ### The turn -/

/-- Nothing of Table COMB-2 stops it: the instruction's own rules run, on the state with the turn taken. -/
theorem State.begin_of_mayRun {s : State} {b : BerthId} {q : QInstr} (h : s.mayRun b q) (hk : knownOp q.op = true)
    (body : QInstr → State → State) : (s.takeTurn b q).begin b q body = body q (s.takeTurn b q) := by
  obtain ⟨-, h1, h2, h3, h4, h5, h6⟩ := h
  have h6' : (serviceOp q.op && decide (8 ≤ b.val)) = false := by
    cases hs : serviceOp q.op
    · rfl
    · have := h6 hs
      simp
      omega
  have e : (if ((s.takeTurn b q).berth b).kind then (s.takeTurn b q).memRead 1
        (((s.takeTurn b q).berth b).poolStart + ((s.takeTurn b q).berth b).pc.toNat) q.words
      else (false, s.takeTurn b q)) = (false, s.takeTurn b q) := by
    split
    · next hkd => exact (h5 hkd).1
    · rfl
  have hx : ((s.berth b).kind && decide (q.xc < extCount q.word)) = false := by
    cases hkd : (s.berth b).kind
    · rfl
    · have := (h5 hkd).2
      simp
      omega
  simp only [State.begin, e]
  simp [h1, h2, hk, h4, hx, h6', show ¬ 10 < q.cc by omega]

/-- A turn whose waits end among events and orders only. -/
theorem runTurn_of_mayRun {s : State} {b : BerthId} {q : QInstr} (h : s.mayRun b q) (hk : knownOp q.op = true)
    (body : QInstr → State → State) : runTurn b q.op s body = .next ((body q (s.takeTurn b q)).wakeAll 512) := by
  rw [runTurn, h.1]
  simp [answer, State.begin_of_mayRun h hk]

/-- A turn that may end any wait. -/
theorem turn_of_mayRun {s : State} {b : BerthId} {q : QInstr} (h : s.mayRun b q) (hk : knownOp q.op = true)
    (body : QInstr → State → State) : turn b q.op s body = .next (s.close (body q (s.takeTurn b q))) := by
  rw [turn, h.1]
  simp [settled, State.begin_of_mayRun h hk]

/-- A berth that has no turn, or no instruction with the row's opcode, is left alone (log 2). -/
theorem turn_of_none {s : State} {b : BerthId} (h : s.turnOf b = none) (op : Byte) (body : QInstr → State → State) :
    turn b op s body = .next s ∧ runTurn b op s body = .next s := by
  rw [turn, runTurn, h]
  exact ⟨rfl, rfl⟩

/-- A booked berth that has not been served has its turn (R47). -/
theorem State.turnOf_of_owes {s : State} {b : BerthId} (h : s.sched.owes b = true) : s.turnOf b = s.nextInstr b := by
  simp [State.turnOf, State.mayTurn, h]

/-- A resident berth whose pool has no injured byte may run what its other conditions let run. -/
theorem State.mayRunResident_of {s : State} {b : BerthId} {q : QInstr} (hf : (s.memOf 1).flipped = [])
    (h : s.turnOf b = some q ∧ s.flt.halted = false ∧ s.refusesBusy b = false ∧ q.cc ≤ 10 ∧
      (s.berth b).cond q.cc = true ∧ extCount q.word ≤ q.xc ∧ (serviceOp q.op = true → b.val < 8) ∧
      (s.berth b).kind = true) : s.mayRunResident b q := by
  obtain ⟨h1, h2, h3, h4, h5, h6, h7, h8⟩ := h
  refine ⟨⟨h1, h2, h3, h4, h5, fun _ => ⟨State.memRead_clean ?_, h6⟩, h7⟩, h8⟩
  simp [State.memHit_clean (s := s.takeTurn b q) (m := 1) hf]

/-! ### What a completion can move -/

/-- `t` differs from `s` in the berths, the up path, the berth counters, the time observed and the write-through counts
at most. -/
def State.CompletesTo (s t : State) : Prop :=
  t = { s with tim := t.tim, nar := t.nar, lnk := t.lnk, berths := t.berths, bth := t.bth, hup := t.hup, ftl := t.ftl,
               freeCtr := t.freeCtr }

theorem State.CompletesTo.refl (s : State) : s.CompletesTo s := rfl

theorem State.CompletesTo.trans {s t u : State} (h : s.CompletesTo t) (g : t.CompletesTo u) : s.CompletesTo u := by
  rw [State.CompletesTo] at *
  rw [g, h]

theorem State.completesTo_modBerth (s : State) (b : BerthId) (f : Berth → Berth) : s.CompletesTo (s.modBerth b f) := rfl

theorem State.completesTo_drainUp (n : Nat) (s : State) : s.CompletesTo (s.drainUp n) := by
  induction n generalizing s with
  | zero => rfl
  | succ n ih =>
    rw [State.drainUp]
    split
    · rfl
    · split
      · exact State.CompletesTo.trans (by rfl) (ih _)
      · rfl

theorem State.completesTo_sendUp (s : State) (p : UpParcel) : s.CompletesTo (s.sendUp p) :=
  State.CompletesTo.trans (by rfl) (State.completesTo_drainUp _ _)

theorem State.completesTo_raiseEvent (s : State) (code : Nat) (arg : W32) (src : Option BerthId) :
    s.CompletesTo (s.raiseEvent code arg src) := by
  unfold State.raiseEvent
  simp only
  split
  · exact State.CompletesTo.trans (by rfl) (State.completesTo_sendUp _ _)
  · rfl

theorem State.completesTo_sendCompletion (s : State) (b : BerthId) (tag : W16) (op : Byte) (st : Status) (done : Nat)
    (first : Option Nat) (res : W64) : s.CompletesTo (s.sendCompletion b tag op st done first res) :=
  State.CompletesTo.trans (by rfl) (State.completesTo_sendUp _ _)

theorem State.completesTo_dropChunks (s : State) (b : BerthId) (p : Chunk → Bool) : s.CompletesTo (s.dropChunks b p) := rfl

theorem State.completesTo_leaveData (s : State) (b : BerthId) (q : QInstr) (took : Bool) :
    s.CompletesTo (s.leaveData b q took) := rfl

theorem State.completesTo_flushQueue (b : BerthId) (l : List QInstr) (s : State) : s.CompletesTo (s.flushQueue b l) := by
  induction l generalizing s with
  | nil => rfl
  | cons q r ih =>
    exact ((State.completesTo_modBerth s b _).trans (State.completesTo_sendCompletion _ _ _ _ _ _ _ _)).trans (ih _)

theorem State.completesTo_stopBerth (s : State) (b : BerthId) (st : Status) : s.CompletesTo (s.stopBerth b st) := by
  unfold State.stopBerth
  simp only
  refine State.CompletesTo.trans ?_ (State.completesTo_dropChunks _ _ _)
  split
  · rfl
  · exact State.CompletesTo.trans (State.completesTo_modBerth s b _)
      ((State.completesTo_flushQueue _ _ _).trans (State.completesTo_raiseEvent _ _ _ _))

theorem State.completesTo_rest (s : State) (b : BerthId) : s.CompletesTo (s.rest b) := by
  unfold State.rest
  simp only
  split
  · rfl
  · rfl

theorem State.completesTo_stopHere (s : State) (b : BerthId) : s.CompletesTo (s.stopHere b) := by
  unfold State.stopHere
  simp only
  split
  · exact (State.completesTo_modBerth s b _).trans
      ((State.completesTo_sendCompletion _ _ _ _ _ _ _ _).trans (State.completesTo_stopBerth _ _ _))
  · exact State.completesTo_stopBerth _ _ _

/-- All that the end of an instruction can move: memory, the store, the logbook, the counters, the regions, the locks, the
die operations and every other block stay. -/
theorem State.completesTo_finishAt (s : State) (b : BerthId) (q : QInstr) (st : Status) (done : Nat) (first : Option Nat)
    (res : Option W64) (pc : Nat) : s.CompletesTo (s.finishAt b q st done first res pc) := by
  unfold State.finishAt
  extract_lets took f g u s1 s2 s3 s4 x s5
  have h1 : s.CompletesTo s1 := rfl
  clear_value s1
  have h2 : s.CompletesTo s2 := h1.trans (State.completesTo_modBerth s1 b _)
  clear_value s2
  have h3 : s.CompletesTo s3 := by
    exact h2.trans (State.completesTo_leaveData _ _ _ _)
  clear_value s3
  have h4 : s.CompletesTo s4 := by
    unfold s4
    split
    · exact h3.trans (State.completesTo_sendCompletion _ _ _ _ _ _ _ _)
    · exact h3
  clear_value s4
  have h5 : s.CompletesTo s5 := h4.trans (State.completesTo_modBerth s4 b _)
  clear_value s5
  split
  · exact h4.trans (State.completesTo_stopBerth _ _ _)
  · split
    · exact h5.trans ((State.completesTo_sendCompletion _ _ _ _ _ _ _ _).trans (State.completesTo_stopBerth _ _ _))
    · split
      · exact h4.trans (State.completesTo_stopHere _ _)
      · exact h4.trans (State.completesTo_rest _ _)

theorem State.completesTo_finish (s : State) (b : BerthId) (q : QInstr) (st : Status) (done : Nat) (first : Option Nat)
    (res : Option W64) : s.CompletesTo (s.finish b q st done first res) := State.completesTo_finishAt _ _ _ _ _ _ _ _

end Sys2Proof.Machine
end

