-- ==== Sys2Proof/Tests/Slice0.lean ====
section
/-! SUPPORT. Tests: ill-formed terms that WellFormed refuses, a witness for every clause of every statement that has
hypotheses, and single steps whose results come from the manual. -/

set_option Elab.async false

namespace Sys2Proof.Tests

open Sys2Proof Sys2Proof.Machine

/-! ### States and words -/

/-- The state that a command leaves. -/
def after (c : Instr) (s : State) : State := match exec c s with
  | .next t => t
  | _ => s

/-- A controller that runs at ready level 2 with a covered ledger; its tide has turns booked for berths 0, 7 and 9. -/
def running : State := { State.reset with
  rst := { Rst.init with power := .on, phase := .running, widest := .block, level := .ready, due := 0 }
  hup := { Hup.init with ledger := .covered, eu := Pair.mk' 20000, capGood := true, cfg := 0, chg := 0, chgNow := 0 }
  pmu := { Pmu.init with waking := 0, pll := true }
  sched := { Sched.init with booked := [0, 7, 9].map fun (b : BerthId) => { rung := 7, work := .berth b, takes := [] } } }

/-- With nothing booked the engine takes the next berth early, as long as it has time (R44). -/
def spareTime (n : Nat) : State := { running with sched := { Sched.init with spare := n } }

/-- An instruction word: OP, DST, SRCA, MODE and IMM, with XC in the immediate's bits 39:38. -/
def enc (op dst a mode imm : Nat) : W64 :=
  BitVec.ofNat 64 (op * 2 ^ 56 + dst * 2 ^ 48 + a * 2 ^ 44 + mode * 2 ^ 40 + imm)

def ins (op dst a mode imm : Nat) (ext : List W64 := []) : QInstr :=
  { tag := 7, word := enc op dst a mode (imm + ext.length * 2 ^ 38), ext := ext }

/-- A stream berth whose turn finds `q`. -/
def turnOn (b : BerthId) (q : QInstr) (s : State) : State :=
  s.modBerth b fun x => { x with state := .ready, queue := [q] }

/-- A resident berth at the first of the words given, with one unit of the pool. -/
def resident (b : BerthId) (ws : List W64) (s : State) : State :=
  let t := s.modBerth b fun x => { x with kind := true, state := .ready, poolBase := 0, poolUnits := 1 }
  { t with pool := Memory.writeN [] 0 (ws.flatMap fun w => leBytes 8 w.toNat) }

/-- A region of a type and a size in MiB. -/
def withRegion (n typ mib : Nat) (s : State) : State :=
  s.setRegion n { Region.init with cfg := Pair.mk' (BitVec.ofNat 32 typ), siz := Pair.mk' (BitVec.ofNat 32 mib) }

/-- Data that has come for the instruction with tag 7. -/
def withData (b : BerthId) (d : List Byte) (s : State) : State :=
  s.modBerth b fun x => { x with chunks := [{ tag := 7, bytes := d, last := true }] }

/-! ### Well-formed commands -/

theorem test_wf_token : (Instr.unknownOpcodeToken 3 0 0).wf = false ∧ (Instr.unknownOpcodeToken 0x20 0 0).wf = true := by
  decide

theorem test_wf_ordered_set : (Instr.unknownOrderedSet ⟨0x55, 0⟩).wf = false ∧ (Instr.unknownOrderedSet ⟨0x56, 1⟩).wf = true := by
  decide

theorem test_wf_header : (Instr.malformedParcel [0] [] 0).wf = false := by decide

theorem test_wf_trim : (Instr.resetExit ⟨none, 0, some 0, false, false, 0⟩).wf = false := by decide

theorem test_wf_delay : (Instr.pmuAnswer [.delay 17]).wf = false ∧ (Instr.pmuAnswer [.delay 16]).wf = true := by decide

theorem test_wf_quality : (Instr.quayTimeFrame 0 0 0xC000).wf = false := by decide

theorem test_wf_blocks : (Instr.dieOperationDone 0 (.decoded [(2 ^ 32, .soft)] 0)).wf = false := by decide

theorem test_wf_report : (Instr.memberManifestReport 0 ⟨1, false, false, 2, 0, 0, 0, 0, 0⟩).wf = true := by decide

theorem test_wf_block : (Instr.hostDataBlock (zeros 4) 0).wf = true := by decide

/-- No row of the table gives bits. -/
theorem test_no_word : decodeTableWord 32 0 = none := rfl

/-! ### Narrow mode -/

theorem witness_token : running.newToken ⟨4, 1, 0⟩ ∧ running.admits ⟨1, 1, 0⟩ ∧ running.hup.pairsOk = true ∧
    running.newToken ⟨5, 1, (0x1000 : W16).setWidth 32⟩ ∧ running.newToken ⟨5, 1, 0x10002⟩ ∧ ctlArgOk 0x10002 = false ∧
    running.admits ⟨8, 1, 0⟩ := by decide +kernel

/-- MANIFEST answers 86 (R96). -/
theorem test_manifest : (after (.manifest 1 0) running).nar.response = some ⟨.ok, 1, 86⟩ := by decide +kernel

/-- STATUS of a ready card with nothing queued: ready level 2 and nothing else (Table NARROW-4). -/
theorem test_status : (after (.status 1 0) running).nar.response = some ⟨.ok, 1, 2⟩ := by decide +kernel

/-- An unaligned address is BAD_FIELD (R84). -/
theorem test_ctl_rd : (after (.ctlRd 1 2) running).nar.response = some ⟨.badField, 1, 0⟩ := by decide +kernel

/-- A berth with one completion in the queue for the host. -/
def reporting : State :=
  let c : Completion := (Berth.init).completion .ok 0 0 none 0
  let t := running.modBerth 9 fun x => { x with cseq := 1 }
  { t with nar := { t.nar with up := [⟨9, 7, .completion { c with cseq := 1 }⟩], fetched := true } }

theorem witness_fetched : reporting.nar.fetched = true ∧ reporting.nar.up.length = 1 ∧
    (reporting.berth 9).rseq = 0 := by decide +kernel

/-- The next token that is no repeat takes the parcel out, and RSEQ advances (R83, R164). -/
theorem test_fetched : (after (.status 1 0) reporting).nar.up = [] ∧
    ((after (.status 1 0) reporting).berth 9).rseq = 1 := by decide +kernel

theorem witness_acknowledged :
    let c : Completion := (Berth.init).completion .ok 0 0 none 0
    let l : Link := { Link.init with mode := .lane, replayBuf := [(0, ⟨9, 7, .completion { c with cseq := 1 }⟩)], txNext := 1 }
    let s : State := { running with lnk := l }
    (0 : BitVec 12) = s.lnk.txAcked + 1 ∧ s.lnk.txNext ≠ 0 ∧ (s.takeAck 0).lnk.replayBuf = [] ∧
      ((s.takeAck 0).berth 9).rseq = 1 := by decide +kernel

theorem witness_repeat : ({ running with nar := { running.nar with last := some ⟨4, 1, 0⟩ } } : State).nar.last =
    some ⟨4, 1, 0⟩ := rfl

/-- Narrow mode alone is agreed to as asked; a single lane is refused (R101). -/
theorem witness_propose : running.admits ⟨2, 1, 0⟩ ∧ proposalOk 0 = true ∧ running.nar.shut = false ∧
    running.counterOf 0 = some 0 ∧ running.counterOf 0x41 = none ∧ proposalOk 0x101EFDF = true ∧
    (bits (0x101EFDF : BitVec 26) 12 2 ≠ 3) ∧ (running.counterOf 0x101EFDF).isSome = true := by decide +kernel


/-- A link that has agreed lanes. -/
def agreed : State := { running with lnk := { running.lnk with agreed := Pair.mk' 0x101EFC3, accepted := true, hrefOk := true } }

theorem witness_lanes : agreed.admits ⟨3, 1, 0⟩ := by decide +kernel

theorem test_lanes : (after (.lanes 1 0) agreed).lnk.mode = .training := by decide +kernel

theorem witness_blocks : running.admits ⟨6, 1, 0x2028⟩ ∧ ctlArgOk 0x2028 = true ∧ running.admits ⟨7, 1, 28⟩ ∧
    running.admits ⟨7, 1, 0x1FFF⟩ ∧ running.lnk.pay + 20 < bits (0x1FFF : W32) 0 13 := by decide +kernel

/-- A CTL_WR that awaits its block. -/
def awaiting : State := { running with nar := { running.nar with awaiting := some (.ctlWr 0x2028), last := some ⟨6, 1, 0x2028⟩ } }

theorem witness_block : awaiting.hostLink = true ∧ awaiting.nar.awaiting = some (.ctlWr 0x2028) ∧
    awaiting.nar.last = some ⟨6, 1, 0x2028⟩ ∧ crc16 [1, 2, 3, 4] ≠ 0 := by decide +kernel

/-- The block's four bytes are the register's value (R84, R89). -/
theorem test_ctl_wr : (after (.hostDataBlock [0x34, 0x12, 0, 0] (crc16 [0x34, 0x12, 0, 0])) awaiting).tim.servo = 0x1234 := by
  decide +kernel

/-- A header of a type for a berth, with its HCRC. -/
def hdrOf (narrow typ : Nat) (berth : W16) (len : Nat) : Hdr :=
  let h : Hdr := { ackv := false, nak := false, last := true, busy := false, unseq := 5 < typ, rsvd := 0, seq := 0,
                   ackseq := 0, len := BitVec.ofNat 16 len, berth := berth, tag := 7, cret := 0, code := 0, hcrc := 0 }
  { h with hcrc := crc16 (hdrBytes narrow typ h) }

/-- A good parcel. -/
def parcelOf (typ : Nat) (berth : W16) (d : List Byte) : Parcel :=
  let h := hdrOf 10 typ berth d.length
  { hdr := h, payload := d, crc := crc32 (hdrBytes 10 typ h ++ leBytes 2 h.hcrc.toNat ++ d) }

/-- The bytes of a PUT block. -/
def putBytes (typ : Nat) (berth : W16) (d : List Byte) : List Byte :=
  let p := parcelOf typ berth d
  hdrBytes 10 typ p.hdr ++ leBytes 2 p.hdr.hcrc.toNat ++ d ++ leBytes 4 p.crc.toNat

/-- Each check of R121 on a PUT block meets a block that fails it first, and one passes (R496). -/
theorem witness_put : ((running.checkPut (putBytes 1 9 (zeros 8))).1 = .ok) ∧
    ((running.checkPut (zeros 28)).1 = .blockCrc) ∧ ((running.checkPut (putBytes 1 9 (zeros 8) ++ [0])).1 = .badField) ∧
    ((running.checkPut ((putBytes 1 9 (zeros 8)).dropLast ++ [0xEE])).1 = .blockCrc) := by decide +kernel

theorem test_propose_refused : (after (.propose 1 0x41) running).nar.response = some ⟨.ok, 1, 0x8000000⟩ := by
  decide +kernel

theorem witness_other_tokens : running.newToken ⟨0x55, 1, 0⟩ ∧ narrowOpcodes.contains 0x55 = false ∧
    narrowOpcodes.contains 0 = false ∧ running.newToken ⟨9, 1, 1⟩ ∧ running.rst.phase = .running ∧ running.hostLink = true ∧
    awaiting.nar.awaiting = some (.ctlWr 0x2028) := by decide +kernel

theorem test_unknown_token : (after (.unknownOpcodeToken 0x55 3 0) running).nar.response = some ⟨.unknownOp, 3, 0⟩ := by
  decide +kernel

/-- A card that is halted, one in lane mode and one that is busy meet each group of Table NARROW-5. -/
def inLane : State := { agreed with lnk := { agreed.lnk with
  mode := .lane, active := 0x3F, down := 3, depth := 4, creditDown := 4, creditUp := 4, pay := 512, accepted := false } }

def halted : State := { running with flt := { running.flt with halted := true } }

def quiesced : State := { running with scr := { running.scr with active := true } }

def lk (f : Link → Link) : State := { inLane with lnk := f inLane.lnk }

theorem witness_by_state : halted.flt.halted = true ∧ halted.lnk.mode = .narrow ∧ halted.turnsAway 2 = some .halted ∧
    halted.turnsAway 8 = none ∧ inLane.flt.halted = false ∧ inLane.lnk.mode = .lane ∧ inLane.turnsAway 8 = some .wrongState ∧
    inLane.turnsAway 6 = none ∧ quiesced.busy = true ∧ quiesced.turnsAway 6 = some .busy ∧
    quiesced.onlyCauses [6, 7] = true ∧ quiesced.turnsAway 7 = none ∧ running.busy = false ∧
    running.turnsAway 3 = some .wrongState ∧ agreed.turnsAway 3 = none := by decide +kernel

/-! ### Lane mode -/

/-- A link in its training, full and fast. -/
def trainingLink (fast : Bool) : State := { agreed with lnk := { agreed.lnk with
  mode := .training, fast := fast, active := 0x3F, depth := 4 } }

theorem witness_training : (trainingLink false).alive = true ∧ (trainingLink false).isMember = false ∧
    (trainingLink false).lnk.agreed.ok = true ∧ (0 : BitVec 6) &&& paramEn (trainingLink false).lnk.agreed.val = 0 ∧
    (1 : BitVec 6) &&& paramEn (trainingLink false).lnk.agreed.val ≠ 0 ∧ (trainingLink false).nar.up = [] ∧
    (trainingLink true).lnk.active ≠ 0 := by decide +kernel

theorem test_training_ends : (after (.laneTrainingEnd 0) (trainingLink false)).lnk.mode = .lane ∧
    (after (.laneTrainingEnd 0) (trainingLink false)).lnk.creditDown = 4 ∧
    (after (.laneTrainingEnd 0) (trainingLink false)).lnk.down = 3 := by decide +kernel

theorem witness_parcels : inLane.takes 1 (parcelOf 1 9 (zeros 8)) ∧ inLane.takes 2 (parcelOf 2 9 (zeros 4)) ∧
    inLane.takes 5 (parcelOf 5 0 (zeros 16)) ∧ inLane.takes 6 (parcelOf 6 0 []) ∧ inLane.takes 8 (parcelOf 8 0 []) ∧
    inLane.takes 7 (parcelOf 7 0 [1, 0, 0, 0]) ∧ plainHdr (hdrOf 10 7 0 4) = true ∧ inLane.nar.up = [] ∧
    inLane.dozeReason = 0 ∧ (lk fun l => { l with dozeAllow := false }).dozeReason = 3 ∧
    inLane.shareUsed < inLane.writeShare ∧ (parcelOf 7 0 [1, 0, 0, 0]).payload.getD 0 0 = 1 := by decide +kernel

/-- Of the write share `n` pages are withdrawn (R19, R344). -/
def lessShare (n : Nat) : State :=
  { inLane with mems := inLane.mems.set 0 { Mem.init with withdrawn := List.replicate n 0 } }

/-- None is left. -/
def fullShare : State := lessShare 3072

theorem bufferLost_lessShare (n : Nat) : (lessShare n).bufferLost true = 4096 * n := by
  have e : ((lessShare n).memOf 0).withdrawn = List.replicate n 0 := rfl
  simp [State.bufferLost, e, writeShareWords]

theorem witness_full_share : fullShare.takes 2 (parcelOf 2 9 (zeros 4)) ∧ fullShare.writeShare ≤ fullShare.shareUsed := by
  refine ⟨by decide +kernel, ?_⟩
  simp [fullShare, State.writeShare, bufferLost_lessShare]

/-- A push puts its instruction into the berth's queue (R152). -/
theorem test_push : ((running.push 9 7 (zeros 8)).berth 9).queue = [⟨7, 0, []⟩] := by decide +kernel

theorem test_doze : (after (.dozeParcel (parcelOf 7 0 [1, 0, 0, 0])) inLane).lnk.sent = [.doze 2 0 false] := by decide +kernel

/-- A parcel of each verdict of R121. -/
theorem witness_bad_parcels :
    inLane.verdict false true 10 1 (parcelOf 1 9 (zeros 8)) = .header ∧
    inLane.verdict true true 10 1 (parcelOf 1 9 (zeros 4)) = .format ∧
    (lk fun l => { l with pay := 7 }).verdict true true 10 1 (parcelOf 1 9 (zeros 8)) = .oversize ∧
    (lk fun l => { l with rxLast := 0 }).verdict true true 10 1 (parcelOf 1 9 (zeros 8)) = .duplicate ∧
    (lk fun l => { l with creditDown := 0 }).verdict true true 10 1 (parcelOf 1 9 (zeros 8)) = .noCredit ∧
    (lk fun l => { l with rxLast := 0xFFE }).verdict true true 10 1 (parcelOf 1 9 (zeros 8)) = .gap ∧
    inLane.verdict true false 10 1 (parcelOf 1 9 (zeros 8)) = .crc ∧ (parcelOf 1 9 (zeros 4)).hdr.unseq = false ∧
    (inLane.verdict true true 10 1 (parcelOf 2 9 (zeros 4)) ≠ .ignored) ∧
    (lk fun l => { l with rxMode := .untilRealign }).verdict true true 10 1 (parcelOf 1 9 (zeros 8)) = .ignored ∧
    orderedSets.contains 0x56 = false ∧ inLane.lnk.setOn ⟨0x56, 0x3F⟩ = false ∧ inLane.lnk.setOn ⟨0x55, 1⟩ = false ∧
    (0x55 : Byte) ≠ ~~~0x55 ∧ plainHdr (parcelOf 1 9 (zeros 8)).hdr = true := by decide +kernel

theorem witness_malformed : inLane.laneOn = true ∧ inLane.lnk.agreed.ok = true ∧
    let x := parseHdr (zeros 16)
    inLane.verdict (hcrcOk x.1 x.2.1 x.2.2) true x.1 x.2.1 ⟨x.2.2, [], 0⟩ ≠ .good := by decide +kernel

/-- One completion waits for its acknowledgement. -/
def replaying (n : Nat) : State := { inLane with lnk := { inLane.lnk with
  headReplays := n, txNext := 1, replayBuf := [(0, ⟨9, 7, .completion ((Berth.init).completion .ok 0 0 none 0)⟩)] } }

theorem witness_replay : (replaying 0).laneOn = true ∧ (replaying 3).lnk.headReplays < 4 ∧ (replaying 0).lnk.replayBuf ≠ [] ∧
    4 ≤ (replaying 4).lnk.headReplays ∧ (replaying 4).lnk.retrainAt = [] ∧ (replaying 4).lnk.sliceLost = false := by decide +kernel

/-- A replay after a loop-back slice does not count, and none of them starts a retrain (R125). -/
theorem test_slice_replay :
    let s := { replaying 4 with lnk := { (replaying 4).lnk with sliceLost := true } }
    s.laneOn = true ∧ (after .replayTimeout s).lnk.headReplays = 4 ∧ (after .replayTimeout s).lnk.mode = .lane := by
  decide +kernel

theorem test_replay : (after .replayTimeout (replaying 3)).lnk.headReplays = 4 := by decide +kernel

def dozing : State := { inLane with lnk := { inLane.lnk with mode := .doze, dozeAccepted := false } }

theorem witness_doze : (lk fun l => { l with dozeAccepted := true }).laneOn = true ∧ dozing.alive = true ∧
    dozing.isMember = false ∧ dozing.lnk.mode = LinkMode.doze ∧
    (lk fun l => { l with rxMode := .untilRealign }).lnk.rxMode = .untilRealign := by decide +kernel

theorem test_signal_detect : (after .signalDetect dozing).lnk.mode = .training ∧
    bit (after .signalDetect dozing).pmu.wakeSrc 0 = true := by decide +kernel

/-! ### Time -/

def tm (f : Tim → Tim) : State := { running with tim := f running.tim }

def rs (f : Rst → Rst) : State := { running with rst := f running.rst }


/-- A controller with one marker seen, 3 us after the time that the host gives it. -/
def marked : State := { running with tim := { running.tim with
  marks := [{ number := 5, instant := 1003000, lane := false, tidesLeft := 64, dropped := false }], htl := 1000000, htSeq := 0 } }

def stepping : State := { running with tim := { running.tim with
  step := some 5000000, opened := true, next := 2000000, period := 1 } }

theorem witness_time : running.position = 0 ∧ running.lnk.mode = .narrow ∧
    (marked.tim.marks.find? fun m => m.number == 5).isSome = true ∧ (marked.tim.marks.find? fun m => m.number == 6) = none ∧
    marked.tim.step = none ∧ (tm fun l => { l with armed := true, alarm := Pair.mk' 0 }).tim.alarm.val.toNat ≤
      running.tim.counter.toNat ∧ (Tim.init.next.toNat % periodNs Tim.init.period = 0) ∧ Tim.init.newPeriod = none ∧
    stepping.tim.step = some 5000000 ∧ stepping.tim.opened = true ∧
    (tm fun l => { l with quality := .synced }).tim.quality = .synced ∧
    (tm fun l => { l with quality := .holdover }).tim.quality = .holdover ∧
    (rs fun l => { l with phase := .held }).alive = false := by decide +kernel

/-- The last used marker is older than TIM_SYNCAGE and TIM_HOLDMAX before the next boundary comes; an alarm is due. -/
theorem witness_ages :
    let old := fun (k : Quality) => tm fun l => { l with quality := k, usedAt := 0, next := 4000000000000, syncAgeNow := 100, holdMaxNow := 10 }
    (old .synced).tim.quality = .synced ∧ (old .synced).tim.agesTo (old .synced).tim.syncAgeNs = true ∧
    (old .holdover).tim.quality = .holdover ∧ (old .holdover).tim.agesTo (old .holdover).tim.holdMaxNs = true ∧
    (tm fun l => { l with armed := true, alarm := Pair.mk' 7, alarmDue := true }).tim.alarmDue = true := by decide +kernel

/-- An alarm in the past is due at the next boundary, not at once (R59, R206). -/
theorem test_alarm_due :
    let s := tm fun l => { l with armed := true, alarm := Pair.mk' 7, counter := 9, next := 20 }
    (after .alarmFire s).tim.fired = false ∧ s.tim.reach.alarmDue = true := by decide +kernel

theorem test_htgo : (after (.timHtgo 5) marked).tim.offset = 3000 ∧ (after (.timHtgo 6) marked).tim.mkLate = 1 := by
  decide +kernel

theorem test_alarm_arm : (after .timAlmctlArm { running with tim := { running.tim with alml := 9 } }).tim.armed = true ∧
    (after .timAlmctlArm running).tim.armed = false := by decide +kernel

/-! ### Instructions: completion, control, arithmetic -/

/-- A stream berth whose turn finds a word. -/
def at' (op dst a mode imm : Nat) (ext : List W64 := []) : State := turnOn 9 (ins op dst a mode imm ext) running

/-- The same with values in V1 and V2. -/
def withV (x y : W64) (s : State) : State :=
  s.modBerth 9 fun b => { b with v := (b.v.setIfInBounds 1 x).setIfInBounds 2 y }

theorem witness_finish :
    let q := ins 0x20 1 2 0 1 [0]
    let s := turnOn 9 q running
    (s.berth 9).kind = false ∧ (s.berth 9).queue = [q] ∧ Status.ok.stops = false ∧ q.op ≠ 1 ∧
    ((s.berth 9).stopErr = true → Status.ok.good = true) ∧ setsLastStat q.op = true ∧ s.lnk.mode = .narrow ∧
    (q.dst < 16 ∧ 15 ≠ q.dst) := by decide +kernel

/-- A resident berth with two words, at the last but one. -/
def onResident (w : W64) : State := resident 9 [w, 0] running

def qOf (s : State) : QInstr := (s.nextInstr 9).getD ⟨0, 0, []⟩

theorem witness_finish_resident :
    let s := (onResident (enc 0 0 0 0 0)).modBerth 9 fun x => { x with pc := 62 }
    (s.berth 9).kind = true ∧ (s.berth 9).rcomp = false ∧ Status.ok ≠ .writeThrough ∧ (qOf s).op ≠ 1 ∧
    (s.berth 9).pc.toNat + (qOf s).words < (s.berth 9).poolWords ∧ (s.berth 9).poolWords ≤ 65536 ∧
    s.quiesces 9 = false ∧ (qOf s).takesData = false ∧ (s.berth 9).chunks = [] := by decide +kernel

/-- A STOP that waits for the boundary stops the berth there (R151). -/
theorem test_stop_due :
    let s := (turnOn 9 (ins 0 0 0 0 0) running).modBerth 9 fun x => { x with stopDue := true }
    ((after (.nop 9) s).berth 9).state = .stopped := by decide +kernel

/-- A resident berth whose extension words lie outside its allocation, and one whose pool word is injured. -/
theorem witness_fetch :
    let short := (onResident 0).modBerth 9 fun x => { x with pc := 63 }
    let q := ins 0x20 1 2 0 1
    (short.berth 9).kind = true ∧ (QInstr.mk 0 (enc 0x20 1 2 0 (2 ^ 38)) []).xc < extCount (enc 0x20 1 2 0 (2 ^ 39)) ∧ q.xc = 0 := by
  decide +kernel

theorem witness_refusals :
    let s := at' 0x66 0 0 0 0
    let q := ins 0x66 0 0 0 0
    (s.berth 9).kind = false ∧ halted.flt.halted = true ∧ s.flt.halted = false ∧ s.refusesBusy 9 = false ∧
    quiesced.refusesBusy 9 = true ∧ quiesced.refusesBusy 7 = false ∧ knownOp 0xB = false ∧ knownOp q.op = true ∧
    q.cc ≤ 10 ∧ (s.berth 9).cond q.cc = true ∧ serviceOp q.op = true ∧ 8 ≤ (9 : BerthId).val ∧
    10 < (QInstr.mk 0 0x00B0000000000000 []).cc ∧ (s.berth 9).cond 1 = false ∧
    (QInstr.mk 0 0x0010000000000000 []).cc = 1 := by decide +kernel

/-- Each transfer at its turn in a resident berth: a target in the allocation, and the first outside it. -/
theorem witness_jump : (onResident (enc 2 0 0 0 63)).mayRunResident 9 (qOf (onResident (enc 2 0 0 0 63))) ∧
    (qOf (onResident (enc 2 0 0 0 63))).only [(0, 16)] = true ∧ 63 < ((onResident 0).berth 9).poolWords ∧
    ((onResident 0).berth 9).poolWords ≤ 64 :=
  ⟨State.mayRunResident_of (by decide +kernel) (by decide +kernel), by decide +kernel⟩

theorem witness_branch : (onResident (enc 3 0 0 0 (63 + 0xFF * 2 ^ 24))).mayRunResident 9
      (qOf (onResident (enc 3 0 0 0 (63 + 0xFF * 2 ^ 24)))) ∧
    (qOf (onResident (enc 3 0 0 0 (63 + 0xFF * 2 ^ 24)))).only [(0, 32)] = true :=
  ⟨State.mayRunResident_of (by decide +kernel) (by decide +kernel), by decide +kernel⟩

/-- A target just outside the allocation stops the berth (R145). -/
theorem test_bad_target : ((after (.jump 9) (onResident (enc 2 0 0 0 64))).berth 9).state = .stopped := by decide +kernel

/-- A resident berth with a call stack. -/
def withStack (w : W64) (l : List W16) : State := (onResident w).modBerth 9 fun x => { x with stack := l }

theorem witness_call : (withStack (enc 4 0 0 0 63) [1, 2, 3]).mayRunResident 9 (qOf (withStack (enc 4 0 0 0 63) [1, 2, 3])) ∧
    (withStack (enc 4 0 0 0 63) [1, 2, 3, 4]).mayRunResident 9 (qOf (withStack (enc 4 0 0 0 63) [1, 2, 3, 4])) ∧
    ((withStack (enc 4 0 0 0 63) [1, 2, 3]).berth 9).stack.length < 4 ∧
    4 ≤ ((withStack (enc 4 0 0 0 63) [1, 2, 3, 4]).berth 9).stack.length :=
  ⟨State.mayRunResident_of (by decide +kernel) (by decide +kernel),
   State.mayRunResident_of (by decide +kernel) (by decide +kernel), by decide +kernel⟩

theorem witness_return : (withStack (enc 5 0 0 0 0) [63]).mayRunResident 9 (qOf (withStack (enc 5 0 0 0 0) [63])) ∧
    (qOf (withStack (enc 5 0 0 0 0) [63])).only [] = true ∧
    ((withStack (enc 5 0 0 0 0) [63]).berth 9).stack = [63] ∧
    (63 : W16).toNat < ((withStack (enc 5 0 0 0 0) [63]).berth 9).poolWords :=
  ⟨State.mayRunResident_of (by decide +kernel) (by decide +kernel), by decide +kernel⟩

/-- A resident berth at a LOOP with a count. -/
def looping (n : W64) : State := (onResident (enc 6 1 0 0 0)).modBerth 9 fun x => { x with v := x.v.setIfInBounds 1 n }

theorem witness_loop : (looping 2).mayRunResident 9 (qOf (looping 2)) ∧ (looping 0).mayRunResident 9 (qOf (looping 0)) ∧
    (qOf (looping 2)).only [fDst, (0, 16)] = true ∧ 1 < (((looping 2).berth 9).reg (qOf (looping 2)).dst).toNat ∧
    ((looping 1).berth 9).reg (qOf (looping 1)).dst = 1 ∧ ((looping 0).berth 9).reg (qOf (looping 0)).dst = 0 :=
  ⟨State.mayRunResident_of (by decide +kernel) (by decide +kernel),
   State.mayRunResident_of (by decide +kernel) (by decide +kernel), by decide +kernel⟩

theorem witness_not_in_stream : (at' 2 0 0 0 1).mayRun 9 (ins 2 0 0 0 1) ∧ ((at' 2 0 0 0 1).berth 9).kind = false ∧
    (ins 2 0 0 0 1).only [(0, 16)] = true := by decide +kernel

/-- A berth without a booking has its turn in the engine's free time (R44), and none when that is used up (R47). -/
theorem test_early : ((after (.nop 9) (turnOn 9 (ins 0 0 0 0 0) (spareTime 1))).berth 9).queue = [] ∧
    ((after (.nop 9) (turnOn 9 (ins 0 0 0 0 0) (spareTime 0))).berth 9).queue.length = 1 := by decide +kernel

/-- BRANCH goes where the last completion's status meets its mask, and falls through where it does not (R184). -/
theorem test_branch : ((after (.branch 9) (onResident (enc 3 0 0 0 (9 + 255 * 2 ^ 24)))).berth 9).pc = 9 ∧
    ((after (.branch 9) (onResident (enc 3 0 0 0 (9 + 0x11 * 2 ^ 16 + 255 * 2 ^ 24)))).berth 9).pc = 1 := by decide +kernel

/-- LOOP counts down and goes back while the count is above one (R184). -/
theorem test_loop :
    let s := (onResident (enc 6 1 0 0 7)).modBerth 9 fun x => { x with v := x.v.setIfInBounds 1 2 }
    ((after (.loop 9) s).berth 9).pc = 7 ∧ ((after (.loop 9) s).berth 9).reg 1 = 1 := by decide +kernel

theorem witness_control : (at' 0 0 0 0 0).mayRun 9 (ins 0 0 0 0 0) ∧ (ins 0 0 0 0 0).only [] = true ∧
    (at' 1 0 0 0 0).mayRun 9 (ins 1 0 0 0 0) ∧ (at' 9 0 0 1 5).mayRun 9 (ins 9 0 0 1 5) ∧
    (ins 9 0 0 1 5).only [fSrcA, (40, 1), (0, 32)] = true ∧ (at' 10 0 0 0 511).mayRun 9 (ins 10 0 0 0 511) ∧
    (ins 10 0 0 0 511).only [fSrcA, (0, 9)] = true ∧ orderReached (at' 10 0 0 0 511) 511 0 = true := by decide +kernel

theorem witness_waitt : (at' 7 0 0 0 0).mayRun 9 (ins 7 0 0 0 0) ∧ (at' 7 0 0 0 0xFFFFFFFF).mayRun 9 (ins 7 0 0 0 0xFFFFFFFF) ∧
    (ins 7 0 0 0 0xFFFFFFFF).only [fSrcA, (40, 1), (0, 32)] = true ∧ (ins 7 0 0 0 0xFFFFFFFF).modeBit 0 = false ∧
    (ins 7 0 0 0 0xFFFFFFFF).imm 0 32 ≠ 0 ∧ (ins 7 0 0 0 0).imm 0 32 = 0 := by decide +kernel

/-- ORDER on a berth that has not reached the count, and that waits on nothing, is stopped, or waits on an ORDER. -/
theorem witness_order :
    let q := ins 10 0 1 0 8
    let s := fun (f : Berth → Berth) => ((turnOn 9 q running).modBerth 9 fun x => { x with v := x.v.setIfInBounds 1 5 }).modBerth 8 f
    (s id).mayRun 9 q ∧ berthOf 8 ≠ 9 ∧ orderReached (s id) 8 5 = false ∧ orderBroken ((s id).berth 8) = false ∧
    ((s id).berth 8).onOrder = false ∧ orderBroken ((s fun x => { x with state := .stopped }).berth 8) = true ∧
    ((s fun x => { x with state := .waiting, why := .order }).berth 8).onOrder = true ∧
    (at' 7 0 1 1 0).mayRun 9 (ins 7 0 1 1 0) ∧ (ins 7 0 1 1 0).modeBit 0 = true ∧
    (ins 7 0 1 1 0).only [fSrcA, (40, 1), (0, 32)] = true := by decide +kernel

/-- WAITE for event 15, with the event pending and without. -/
theorem witness_waite : (at' 8 0 0 0 0x8000).mayRun 9 (ins 8 0 0 0 0x8000) ∧
    (ins 8 0 0 0 0x8000).only [fDst, (40, 1), (0, 40)] = true ∧ (ins 8 0 0 0 0x8000).imm 0 16 ≠ 0 ∧
    lowestBit (((at' 8 0 0 0 0x8000).berth 9).pend &&& (ins 8 0 0 0 0x8000).word.setWidth 16) = none ∧
    (lowestBit ((0x8000 : BitVec 16) &&& (ins 8 0 0 0 0x8000).word.setWidth 16) == some 15) = true := by decide +kernel

/-- A berth in a WAITT that has just been admitted, and one in a WAITE. -/
def inWait (p : Phase) (op : Nat) : State :=
  running.modBerth 9 fun x => { x with
    state := .waiting, queue := [ins op 0 0 0 1], cur := some { Cur.init (ins op 0 0 0 1) p with admitted := true } }

theorem witness_waits : ((inWait .waitt 7).berth 9).state = .waiting ∧
    (((inWait .waitt 7).berth 9).cur.map (·.phase)) = some .waitt ∧
    (((inWait .waite 8).berth 9).cur.map (·.phase)) = some .waite ∧
    (((inWait .waite 8).berth 9).cur.map (·.admitted)) = some true := by decide +kernel

/-- A WAITE whose timeout ends it leaves 0 and Z (R185). -/
theorem test_waite_timeout : ((after (.waiteTimeout 9) (inWait .waite 8)).berth 9).z = true := by decide +kernel

theorem witness_arith : (at' 0x12 3 1 2 0).mayRun 9 (ins 0x12 3 1 2 0) ∧ (ins 0x12 3 1 2 0).bFieldsOk true = true ∧
    (ins 0x13 3 1 0 0x80FFFFFFFF).bFieldsOk true = true ∧ (ins 0x14 15 15 15 0).bFieldsOk true = true ∧
    (ins 0x15 0 0 0 0x8000000000).bFieldsOk true = true ∧ (ins 0x16 0 0 1 0).bFieldsOk true = true ∧
    (ins 0x19 0 1 2 0).bFieldsOk false = true ∧ (at' 0x19 0 1 2 0).mayRun 9 (ins 0x19 0 1 2 0) ∧
    (ins 0x10 3 0 1 0xFFFFFFFFFF).only [fDst, fSrcB, (0, 40)] = true ∧ (ins 0x10 3 0 1 0).mode ≤ 1 ∧
    (ins 0x10 3 0 2 0xFFFFFF).only [fDst, fSrcB, (0, 24)] = true ∧ (ins 0x10 3 0 2 0xFFFFFF).mode = 2 ∧
    (ins 0x11 15 1 0 0).only [fDst, fSrcA] = true ∧ (ins 0x17 0 1 0 0x803F).bFieldsOk true = false ∧
    (ins 0x17 0 1 0 0x800000003F).bFieldsOk true = true ∧ (ins 0x18 0 1 2 0).bFieldsOk true = true ∧
    (64 ≤ shiftCount ((withV 0 64 running).berth 9) (ins 0x17 0 1 2 0)) ∧
    ¬ 64 ≤ shiftCount (running.berth 9) (ins 0x17 0 1 0 0x800000003F) := by decide +kernel

/-- ADD wraps and sets C (R188). -/
theorem test_add :
    ((after (.add 9) (withV 0xFFFFFFFFFFFFFFFF 2 (at' 0x12 3 1 2 0))).berth 9).reg 3 = 1 ∧
    ((after (.add 9) (withV 0xFFFFFFFFFFFFFFFF 2 (at' 0x12 3 1 2 0))).berth 9).c = true := by decide +kernel

/-- SUB takes a sign-extended immediate (R188). -/
theorem test_sub : ((after (.sub 9) (withV 5 0 (at' 0x13 3 1 0 0x80FFFFFFFF))).berth 9).reg 3 = 6 := by decide +kernel

/-- AND takes a zero-extended immediate (R188). -/
theorem test_and : ((after (.and 9) (withV 0xFFFFFFFFFFFFFFFF 0 (at' 0x14 3 1 0 0x80FFFFFFFF))).berth 9).reg 3 = 0xFFFFFFFF := by
  decide +kernel

/-- A shift by 64 gives C = 0, one by 1 the bit shifted out (Table TZ-7). -/
theorem test_shl :
    ((after (.shl 9) (withV 0x8000000000000001 64 (at' 0x17 3 1 2 0))).berth 9).c = false ∧
    ((after (.shl 9) (withV 0x8000000000000001 1 (at' 0x17 3 1 2 0))).berth 9).c = true := by decide +kernel

/-- CMP leaves every register and sets the flags of the difference (R188). -/
theorem test_cmp : ((after (.cmp 9) (withV 2 2 (at' 0x19 0 1 2 0))).berth 9).z = true ∧
    ((after (.cmp 9) (withV 2 2 (at' 0x19 0 1 2 0))).berth 9).reg 0 = 0 := by decide +kernel

/-- LDI in mode 1 extends the sign of 40 bits (Table TZ-7). -/
theorem test_ldi : ((after (.ldi 9) (at' 0x10 3 0 1 0xFFFFFFFFFF)).berth 9).reg 3 = 0xFFFFFFFFFFFFFFFF := by decide +kernel

theorem witness_ctl : (at' 0x1A 3 0 0 0x2028).mayRun 9 (ins 0x1A 3 0 0 0x2028) ∧
    (ins 0x1A 3 0 0 0x2028).only [fDst, (0, 16)] = true ∧ (ins 0x1A 3 0 0 0x2028).imm 0 2 = 0 ∧
    (turnOn 7 (ins 0x69 0 1 0 0x2028) running).mayRun 7 (ins 0x69 0 1 0 0x2028) ∧
    (ins 0x69 0 1 0 0x2028).only [fSrcA, (0, 16)] = true ∧ running.stopsItself 7 0x2028 0 = false ∧
    (at' 0x0B 0 0 0 0).mayRun 9 (ins 0x0B 0 0 0 0) ∧ knownOp (ins 0x0B 0 0 0 0).op = false := by decide +kernel

theorem test_ldc : ((after (.ldc 9) (at' 0x1A 3 0 0 0x2028)).berth 9).reg 3 = 0xC863 := by decide +kernel

/-! ### Instructions: data and regions -/

/-- A region word: the region and an address. -/
def place (r start : Nat) : W64 := BitVec.ofNat 64 (r + start * 256)

/-- GENERAL regions 1 and 2 of 64 MiB. -/
def twoRegions : State := withRegion 2 3 64 (withRegion 1 3 64 running)

def readQ (op start len : Nat) : QInstr := ins op 1 2 0 len [place 1 start]

def goes (l : Later) : Bool := match l with
  | .go => true
  | _ => false

theorem go_of {l : Later} (h : goes l = true) : l = .go := by
  cases l <;> first | rfl | simp [goes] at h

/-- READ and VERIFY of the last block of a region, into parcels and into scratch, and of no blocks. -/
def readF (start len : Nat) (scratch : Option Nat) : Form :=
  { region := 1, start := start, len := len, region2 := 0, start2 := 0, scratch := scratch }

def readAsk (start len : Nat) : Ask :=
  { region := 1, types := [.ring, .general, .compat], write := false, start := start, len := len, ranged := true }

def readsTo (q : QInstr) (s : State) (f : Form) : Bool := match q.form (s.berth 9) 1 (q.op == 0x20) with
  | some g => g.region == f.region && g.start == f.start && g.len == f.len && g.scratch == f.scratch
  | none => false

theorem witness_read :
    let q := readQ 0x20 16383 1
    let s := turnOn 9 q twoRegions
    let t := s.takeTurn 9 q
    s.mayRun 9 q ∧ readsTo q t (readF 16383 1 none) = true ∧ t.opensFor (readAsk 16383 1) ∧ t.single ∧
    t.allowed 9 1 16383 1 ∧ t.inShare 1 16383 1 ∧ t.readClash (readF 16383 1 none) (t.partsOf (t.berth 9) 1 16383 1) = false ∧
    goes (t.later { region := 1, write := false, lost := false, media := false, doms := t.dataDoms 1 }) = true ∧
    0 < t.lnk.pay ∧ t.stagedBytes + (t.runData 1 16383 1).length + t.lnk.pay + t.mapShare ≤ t.workShare ∧
    (turnOn 9 (readQ 0x24 16383 1) twoRegions).mayRun 9 (readQ 0x24 16383 1) := by decide +kernel

/-- With the scratch word; the berth has a page. -/
theorem witness_read_scratch :
    let q := ins 0x20 1 2 0 1 [place 1 16383, 0]
    let s := (turnOn 9 q twoRegions).modBerth 9 fun x => { x with scrPages := 1 }
    let t := s.takeTurn 9 q
    s.mayRun 9 q ∧ readsTo q t (readF 16383 1 (some 0)) = true ∧ (t.scratchPlace 9 0 4096).1 = .ok ∧
    (t.scratchPlace 9 1 4096).1 = .badField := by decide +kernel

/-- No blocks; one block too many; a region whose colour the session lacks. -/
theorem witness_read_refused :
    let z := readQ 0x20 16384 0
    let q := readQ 0x24 16384 1
    let u := readQ 0x20 0 1
    let red := withRegion 1 0x13 64 running
    let t := (turnOn 9 u red).takeTurn 9 u
    (turnOn 9 z twoRegions).mayRun 9 z ∧ readsTo z twoRegions (readF 16384 0 none) = true ∧
    twoRegions.opensFor (readAsk 16384 0) ∧ (turnOn 9 q twoRegions).mayRun 9 q ∧
    readsTo q twoRegions (readF 16384 1 none) = true ∧ twoRegions.refusal (readAsk 16384 1) = some .range ∧
    twoRegions.gated 1 = false ∧ twoRegions.entryOk 1 ∧ (turnOn 9 u red).mayRun 9 u ∧ t.opensFor (readAsk 0 1) ∧
    (t.partsOf (t.berth 9) 1 0 1).all (fun p => !p.ok) = true := by decide +kernel

/-- The parts of an access (R179): a denied one is no allowed one. -/
theorem test_denied :
    let u := readQ 0x20 0 1
    ((after (.read 9) (turnOn 9 u (withRegion 1 0x13 64 running))).berth 9).lastStat = .denied := by decide +kernel

/-- COMPAT region 3, whose blocks have 512 bytes. -/
def compatRegion : State := withRegion 3 4 1 running

def writeQ : QInstr := ins 0x21 1 2 0 1 [place 3 2047]

theorem dataFor_withData (b : BerthId) (q : QInstr) (d : List Byte) (s : State) (h : q.tag = 7) :
    (withData b d s).dataFor b q none d := by
  simp [State.dataFor, withData, Berth.myChunks, h]

/-- WRITE of the last block of a COMPAT region. -/
theorem witness_write :
    let s := withData 9 (zeros 512) (turnOn 9 writeQ compatRegion)
    let t := s.takeTurn 9 writeQ
    s.mayRun 9 writeQ ∧ s.goesOn 9 writeQ ∧ (writeQ.form (t.berth 9) 1 true).isSome = true ∧ t.single ∧
    t.isLocal 3 2047 1 ∧ (t.berth 9).has (t.region 3).colour = true ∧ t.newest 3 2047 1 ∧ t.pagesFor 9 3 2047 1 ∧
    t.hup.answerItem (dataCost 512) = .admitted ∧ t.blockSize 3 = 512 ∧ (t.unitData (t.blockKey 3 2047)).length = 4096 ∧
    t.opensFor { region := 3, types := [.general, .compat], write := true, start := 2047, len := 1, ranged := true } ∧
    goes (t.later { region := 3, write := true, lost := false, media := true, doms := t.dataDoms 3 }) = true ∧
    t.writeClash 3 2047 1 = false ∧ t.gated 3 = false ∧ t.entryOk 3 ∧
    t.refusal { region := 3, types := [.general, .compat], write := true, start := 2048, len := 1, ranged := true } =
      some .range := by decide +kernel

/-- Ring 4 with 64 slots, its tail at the start of a segment that has one. -/
def ringAt (tail : Nat) : State := (withRegion 4 2 1024 running).setRing 4
  { Ring.init with tail := Pair.mk' (BitVec.ofNat 56 tail), k := 64, segs := [0] }

def appendQ : QInstr := ins 0x22 1 0 0 64 [place 4 0]

/-- APPEND of one unit to an empty ring. -/
theorem witness_append :
    let s := withData 9 (List.replicate 262144 0) (turnOn 9 appendQ (ringAt 0))
    let t := s.takeTurn 9 appendQ
    let x := t.ring 4
    s.mayRun 9 appendQ ∧ s.goesOn 9 appendQ ∧ t.single ∧ t.isLocal 4 0 64 ∧ t.appendPos 4 = x.tailPos ∧ x.tailPos = 0 ∧
    x.segs.contains (x.tailPos / segSize) = true ∧ x.taken = [] ∧ x.units = [] ∧ t.shareRoom 4 = true ∧
    t.tailLeaving 4 = false ∧ t.appendWaits 4 = false ∧ t.newest 4 0 64 ∧ t.pagesFor 9 4 0 64 ∧
    t.hup.answerItem (dataCost 262144) = .admitted ∧ t.writeClash 4 0 64 = false ∧
    t.opensFor { region := 4, types := [.ring], write := true, start := 0, len := 64, ranged := true, append := true } ∧
    goes (t.later { region := 4, write := true, lost := false, media := false, doms := t.dataDoms 4 }) = true ∧
    (twoRegions.refusal { region := 1, types := [.ring], write := true, start := 0, len := 64, ranged := true,
                          append := true }) = some .badRegion := by decide +kernel

def copyQ : QInstr := ins 0x23 1 2 0 1 [place 1 0, place 2 16383]

theorem witness_copy :
    let s := turnOn 9 copyQ twoRegions
    let t := s.takeTurn 9 copyQ
    s.mayRun 9 copyQ ∧ s.goesOn 9 copyQ ∧ (copyQ.form (t.berth 9) 2 false).isSome = true ∧ t.blockSize 1 = t.blockSize 2 ∧
    t.refusal2 (readAsk 0 1)
      { region := 2, types := [.general, .compat], write := true, start := 16383, len := 1, ranged := true } = none ∧
    t.rtype 1 ≠ .ring ∧ t.pathFenced 1 false = false ∧ t.gated 1 = false ∧ t.gated 2 = false ∧ t.entryOk 1 ∧ t.entryOk 2 ∧
    t.inShare 1 0 1 ∧ t.newest 2 16383 1 ∧ t.pagesFor 9 2 16383 1 ∧ t.isLocal 2 16383 1 ∧
    t.readClash (readF 0 1 none) (t.partsOf (t.berth 9) 1 0 1) = false ∧ t.writeClash 2 16383 1 = false ∧
    goes (t.later { region := 2, write := true, lost := false, media := true
                    doms := (t.dataDoms 1 ++ t.dataDoms 2).dedup }) = true := by decide +kernel

def trimQ : QInstr := ins 0x30 1 2 0 1 [place 1 16383]
def weedQ : QInstr := ins 0x31 1 2 0 1 [place 1 16383]

theorem witness_unmap :
    let s := turnOn 9 trimQ twoRegions
    let t := s.takeTurn 9 trimQ
    s.mayRun 9 trimQ ∧ (trimQ.form (t.berth 9) 1 false).isSome = true ∧ t.hup.answerItem commitCost = .admitted ∧ t.single ∧
    t.opensFor { region := 1, types := [.general, .compat], write := true, start := 16383, len := 1, ranged := true } ∧
    t.newest 1 16383 1 ∧ (t.unitData (t.blockKey 1 16383)).length = 4096 ∧
    (turnOn 9 weedQ twoRegions).mayRun 9 weedQ ∧
    goes (t.later { region := 1, write := false, lost := false, media := false, doms := commitDomains }) = true := by
  decide +kernel

/-- Ring 4 with three segments, the last of them its tail segment. -/
def threeSegs : State := (withRegion 4 2 1024 running).setRing 4
  { Ring.init with tail := Pair.mk' (BitVec.ofNat 56 (2 * segSize + 64)), k := 64, segs := [0, 1, 2],
                   units := [⟨0, 5, 0⟩, ⟨2048, 9, 0⟩] }

def weedRing : QInstr := ins 0x31 1 2 0 segSize [place 4 0]

theorem witness_weed_ring :
    let s := turnOn 9 weedRing threeSegs
    let t := s.takeTurn 9 weedRing
    s.mayRun 9 weedRing ∧ (weedRing.form (t.berth 9) 1 false).isSome = true ∧ t.rtype 4 = .ring ∧
    segSize ≤ ((t.ring 4).tailPos / segSize + 1) * segSize ∧
    t.opensFor { region := 4, types := [.general, .compat, .ring], write := true, start := 0, len := segSize, ranged := false } ∧
    ((t.modBerth 9 fun x => { x with cur := none }).weedSegs 4 0 segSize = [0]) := by decide +kernel

def holdQ : QInstr := ins 0x32 1 2 1 1 [place 4 0]
def releaseQ : QInstr := ins 0x33 0 0 0 0
def harvestQ : QInstr := ins 0x34 1 0 0 0 [place 5 0]
def posQ (m : Nat) : QInstr := ins 0x35 1 2 m 0 [place 4 0]

/-- The same with hold 0 on segment 0. -/
def heldRing : State := { threeSegs with holds := [
  { id := 0, region := 4, first := 0, segs := [0], colour := none, time := 0, stamp := 0, leaving := false }] }

theorem witness_hold :
    let s := (turnOn 9 holdQ threeSegs).takeTurn 9 holdQ
    (turnOn 9 holdQ threeSegs).mayRun 9 holdQ ∧ holdQ.only [fDst, fSrcA, (40, 1), fXc, (0, 37)] = true ∧ holdQ.xc = 1 ∧
    bits (holdQ.extWord 0) 6 2 = 0 ∧ s.holdSegs 4 true 0 1 0 = some [0] ∧ s.holdRefusal 4 [0] = none ∧
    s.hup.answerItem commitCost = .admitted ∧ s.flashReady ∧
    s.opensFor { region := 4, types := [.ring], write := false, start := 0, len := 0, ranged := false } ∧
    s.holdSegs 4 false 0 0 9 = some [2] := by decide +kernel

theorem witness_release :
    let s := (turnOn 9 releaseQ heldRing).takeTurn 9 releaseQ
    (turnOn 9 releaseQ heldRing).mayRun 9 releaseQ ∧ releaseQ.only [(0, 8)] = true ∧ (s.findHold 0).isSome = true ∧
    (s.findHold 0).all (fun h => (s.berth 9).has (s.holdColour h)) = true ∧ s.flashReady ∧
    s.opensFor { region := 4, types := [.ring], write := false, start := 0, len := 0, ranged := false } ∧
    threeSegs.findHold 0 = none ∧ (turnOn 9 releaseQ threeSegs).mayRun 9 releaseQ := by decide +kernel

theorem witness_harvest :
    let s := (turnOn 9 harvestQ heldRing).takeTurn 9 harvestQ
    (turnOn 9 harvestQ heldRing).mayRun 9 harvestQ ∧ harvestQ.xc = 1 ∧
    s.opensFor { region := 4, types := [.ring], write := false, start := 0, len := 0, ranged := false } ∧
    (turnOn 9 harvestQ threeSegs).mayRun 9 harvestQ ∧ harvestQ.only [fDst, fXc, (0, 8)] = true ∧ bits (harvestQ.extWord 0) 6 58 = 0 ∧ s.gated 5 = false ∧
    s.rtype 5 = .undefined ∧ s.harvestInto 5 = false ∧
    (s.findHold 0).all (fun h => (s.harvestColours h).all (s.berth 9).has && !s.harvestBlocked h) = true := by decide +kernel

theorem witness_ringpos : (turnOn 9 (posQ 3) threeSegs).mayRun 9 (posQ 3) ∧
    (posQ 3).only [fDst, fSrcA, (40, 2), fXc] = true ∧ bits ((posQ 3).extWord 0) 6 58 = 0 ∧
    threeSegs.ringPosition 4 0 0 = some (2 * segSize + 64) ∧ threeSegs.ringPosition 4 3 9 = some (2 * segSize) ∧
    threeSegs.ringPosition 4 3 4 = none ∧ ((threeSegs.takeTurn 9 (posQ 3)).berth 9).has 0 = true ∧
    threeSegs.opensFor { region := 4, types := [.ring], write := false, start := 0, len := 0, ranged := false } := by
  decide +kernel

theorem test_ringpos : ((after (.ringpos 9) (turnOn 9 (posQ 0) threeSegs)).berth 9).reg 1 =
    BitVec.ofNat 64 (2 * segSize + 64) := by decide +kernel

theorem witness_durable :
    let c := { Cur.init trimQ .durable with open_ := 1 }
    let s := running.modBerth 9 fun x => { x with state := .waiting, queue := [trimQ], cur := some c }
    (s.berth 9).cur = some c ∧ c.phase = .durable ∧ c.open_ ≤ 1 ∧ 1 < ({ c with open_ := 2 } : Cur).open_ ∧
    ((s.itemDurable 9).berth 9).cur = none := by decide +kernel

/-! ### Instructions: records, counters, time -/

/-- SEAL of 8 bytes from V15, type 0x8000, colour 0. -/
def sealQ : QInstr := ins 0x40 1 15 4 (8 + 0x8000 * 2 ^ 22)

theorem witness_seal :
    let s := (turnOn 9 sealQ running).takeTurn 9 sealQ
    (turnOn 9 sealQ running).mayRun 9 sealQ ∧ s.recordsReady ∧ s.hup.answerItem sealCost = .admitted ∧
    sealQ.only [fDst, fSrcA, (42, 1), fXc, (18, 20), (0, 12)] = true ∧ sealQ.sealLen = 8 ∧ bit sealQ.sealType 15 = true ∧
    s.log.fenced = false ∧ s.log.full = false ∧ (s.berth 9).has sealQ.sealColour.toNat = true ∧ sealQ.modeBit 2 = true ∧
    sealQ.xc = 0 ∧ sealQ.sealLen ≤ 8 * (16 - sealQ.srcA) ∧ (regsPayload (s.berth 9) sealQ).length = 8 ∧
    s.dieUsable s.log.copyA.opens[(0 : Fin 8)].die = true ∧ s.dieUsable s.log.copyB.opens[(7 : Fin 8)].die = true ∧
    0 < s.log.copyA.free ∧ 0 < s.log.copyB.free := by decide +kernel

/-- The other two sources of a record: parcels, up to 2048 bytes, and scratch. -/
theorem witness_seal_data :
    let q := ins 0x40 1 0 0 (2048 + 0x8000 * 2 ^ 22)
    let p := ins 0x40 1 0 0 (8 + 0x8000 * 2 ^ 22) [0]
    q.xc = 0 ∧ q.modeBit 2 = false ∧ q.sealLen = 2048 ∧ (turnOn 9 q running).mayRun 9 q ∧
    p.xc = 1 ∧ scratchWordOk (p.extWord 0) = true ∧ p.sealLen = 8 ∧
    ((running.modBerth 9 fun x => { x with scrPages := 1 }).berth 9).misfit (some 0) 4096 = false := by decide +kernel

theorem witness_checkpt : (turnOn 9 (ins 0x42 1 0 0 0) running).mayRun 9 (ins 0x42 1 0 0 0) ∧
    (ins 0x42 1 0 0 0).only [fDst] = true := by decide +kernel

/-- CTRINC of counter 31, by 1 and by the largest amount. -/
def ctrQ (n : Nat) : QInstr := ins 0x48 1 0 0 (31 + n * 64)

theorem witness_ctrinc :
    let s := (turnOn 9 (ctrQ 1) running).takeTurn 9 (ctrQ 1)
    let q := ctrQ (2 ^ 32)
    let full : Pair 64 := Pair.mk' (BitVec.allOnes 64)
    (turnOn 9 (ctrQ 1) running).mayRun 9 (ctrQ 1) ∧
    ((turnOn 9 (ctrQ 1) running).setCounter 31 { Counter.init with a := some full, b := some full }).steppedValue 31 =
      BitVec.allOnes 64 ∧ (ctrQ 1).only [fDst, fSrcA, (40, 1), (0, 5), (6, 33)] = true ∧ (ctrQ 1).counter = 31 ∧
    0 < ctrAmount (s.berth 9) (ctrQ 1) ∧ ctrAmount (s.berth 9) q ≤ 2 ^ 32 ∧ (turnOn 9 q running).mayRun 9 q ∧
    bit s.ctr.fence 31 = false ∧ (s.counter 31).value.isSome = true ∧ badPair (s.counter 31).a = false ∧
    badPair (s.counter 31).b = false ∧ ctrBound (s.counter 31).cfg.val = false ∧ s.steppedValue 31 ≠ BitVec.allOnes 64 ∧
    s.ctr.liveA = true ∧ s.ctr.liveB = true ∧ ctrLogs (s.counter 31).cfg.val = false := by decide +kernel

/-- A logbook of one record. -/
def oneRecord : State := { running with log := { running.log with next := 1 } }

def logQ : QInstr := ins 0x41 1 2 0 1

theorem witness_logread :
    let s := (turnOn 9 logQ oneRecord).takeTurn 9 logQ
    (turnOn 9 logQ oneRecord).mayRun 9 logQ ∧ logQ.only [fDst, fSrcA, fXc, (0, 32)] = true ∧ logQ.xc = 0 ∧ s.gated 0 = false ∧
    logQ.imm 0 32 = 1 ∧ bits ((s.berth 9).reg logQ.srcA) 62 2 = s.position ∧ (s.ownSeq s.log.old).toNat ≤ 0 ∧
    0 + 1 ≤ (s.ownSeq s.log.next).toNat ∧ (s.berth 9).has (s.region 0).colour = true ∧ s.flashReady ∧
    (s.berth 9).misfit none 96 = false := by decide +kernel

/-- No records; one past the newest; the records of a member that is there, and of one that is not. -/
theorem witness_logread_else :
    let z := ins 0x41 1 2 0 0
    let q := ins 0x41 1 2 0 2
    let far := fun (s : State) => (turnOn 9 logQ s).modBerth 9 fun x => { x with v := x.v.setIfInBounds 2 (1 <<< 62) }
    let m := { oneRecord with quy := { oneRecord.quy with map := Pair.mk' 2, present := 2 } }
    (turnOn 9 z oneRecord).mayRun 9 z ∧ z.imm 0 32 = 0 ∧ (turnOn 9 q oneRecord).mayRun 9 q ∧
    (oneRecord.ownSeq oneRecord.log.next).toNat < 0 + 2 ∧ (far m).mayRun 9 logQ ∧
    bits (((far m).berth 9).reg 2) 62 2 = 1 ∧ bit (far m).quy.present 1 = true ∧ bit (far m).quy.lost 1 = false ∧
    (far oneRecord).mayRun 9 logQ ∧ bit (far oneRecord).quy.present 1 = false ∧ (far m).flashReady := by decide +kernel

theorem witness_figures :
    let q := ins 0x49 3 0 0 31
    let t := ins 0x50 3 4 0 0
    let a := ins 0x51 0 1 0 0
    (turnOn 9 q running).mayRun 9 q ∧ q.only [fDst, (0, 5)] = true ∧ q.counter = 31 ∧ (running.counter 31).value = some 0 ∧
    (turnOn 9 t running).mayRun 9 t ∧ t.only [fDst, fSrcA] = true ∧ (turnOn 9 a running).mayRun 9 a ∧
    a.only [fSrcA] = true := by decide +kernel

/-- CTRREAD sets Z for a counter of 0 (R205). -/
theorem test_ctrread : ((after (.ctrread 9) (turnOn 9 (ins 0x49 3 0 0 31) running)).berth 9).z = true := by decide +kernel

/-! ### Instructions: administration -/

def sessQ (mode colour : Nat) (ext : List W64 := []) : QInstr := ins 0x60 3 0 mode colour ext

theorem witness_session :
    (turnOn 9 (sessQ 0 0) running).mayRun 9 (sessQ 0 0) ∧ (ins 0x60 0 0 0 0).only [fSrcB, fXc, (0, 4)] = true ∧
    (turnOn 9 (sessQ 1 0) running).mayRun 9 (sessQ 1 0) ∧ (sessQ 1 15).only ([fSrcB, fXc, (0, 4)] ++ [fDst]) = true ∧
    (turnOn 9 (ins 0x60 0 0 2 15) running).mayRun 9 (ins 0x60 0 0 2 15) ∧ (ins 0x60 0 0 3 15).mode = 3 ∧
    (running.berth 9).session.pause = 0 ∧
    ((running.modBerth 9 fun x => { x with session := { x.session with pause := 64 } }).berth 9).session.pause ≠ 0 := by
  decide +kernel

/-- A password of colours 1 and 7 as the card keeps it, and one that no key meets. -/
def keyQ (k : Nat) : QInstr := ins 0x60 0 0 0 k [5, 6]

def withPassword (mac : Digest) (s : State) : State :=
  { s with grd := { s.grd with tries := 3, colourPw := (s.grd.colourPw.set 1 (some ⟨9, mac⟩)).set 7 (some ⟨9, mac⟩) } }

theorem witness_password :
    let mac := Config.passwordMac 9 (keyQ 7).key
    let s := (withPassword mac (turnOn 9 (keyQ 7) running)).takeTurn 9 (keyQ 7)
    let tried := fun (n : Nat) => { s with grd := { s.grd with tries := n } }
    (withPassword mac (turnOn 9 (keyQ 7) running)).mayRun 9 (keyQ 7) ∧ (keyQ 7).xc = 2 ∧ (tried 4).grd.tries = 4 ∧
    5 ≤ (tried 5).grd.tries ∧ (tried 5).grd.colourPw.getD 7 none ≠ none ∧ running.grd.colourPw.getD 7 none = none ∧
    (turnOn 9 (keyQ 7) running).mayRun 9 (keyQ 7) ∧ (keyQ 7).imm 0 4 = 7 ∧ (keyQ 1).imm 0 4 = 1 ∧ s.grd.tries < 4 ∧
    (keyQ 7).only [fSrcB, fXc, (0, 4)] = true ∧ ((s.grd.colourPw.getD 7 none).map (·.salt)) = some 9 := by decide +kernel

theorem witness_password_stored (mac : Digest) : (withPassword mac running).grd.colourPw.getD 7 none = some ⟨9, mac⟩ := rfl

theorem witness_wrong_password : Config.passwordMac 9 (keyQ 7).key ≠ Config.passwordMac 9 (keyQ 7).key + 1 := by
  intro h
  simp at h

theorem witness_response :
    let q := ins 0x60 0 0 0 8
    let p := ins 0x60 0 0 0 15 [0]
    let u := withData 9 (zeros 32) ((turnOn 9 q running).modBerth 9 fun x => { x with
      session := { x.session with chal := some 5 } })
    let v := (turnOn 9 p running).modBerth 9 fun x => { x with session := { x.session with chal := some 5 }, scrPages := 1 }
    let s := u.takeTurn 9 q
    u.mayRun 9 q ∧ (s.berth 9).session.chal = some 5 ∧ q.xc = 0 ∧ q.imm 0 4 = 8 ∧ s.dataFor 9 q none (zeros 32) ∧
    v.mayRun 9 p ∧ p.xc = 1 ∧ p.imm 0 4 = 15 ∧ scratchWordOk (p.extWord 0) = true ∧
    ((v.takeTurn 9 p).berth 9).misfit (some 0) 32 = false := by decide +kernel

/-- Scratch that has no injured byte gives the bytes that it holds. -/
theorem dataFor_scratch (b : BerthId) (q : QInstr) (off : Nat) (d : List Byte) (s : State) (hf : (s.memOf 2).flipped = [])
    (hp : (s.scratchPlace b off d.length).1 = .ok)
    (hd : Memory.readN s.scratch (s.scratchPlace b off d.length).2 d.length = d) : s.dataFor b q (some off) d := by
  refine ⟨hp, ?_⟩
  rw [State.scratchRead, State.memRead_clean (by simp [State.memHit_clean hf])]
  simp [hd]

theorem witness_response_scratch :
    let p := ins 0x60 0 0 0 15 [0]
    let v := (turnOn 9 p running).modBerth 9 fun x => { x with scrPages := 1 }
    (v.takeTurn 9 p).dataFor 9 p (some 0) (zeros 32) :=
  dataFor_scratch _ _ _ _ _ (by decide +kernel) (by decide +kernel) (by decide +kernel)

/-- A response with no challenge given, in a stream berth and with the scratch word. -/
theorem witness_no_challenge :
    let q := ins 0x60 0 0 0 8
    let p := ins 0x60 0 0 0 15 [0]
    (turnOn 9 q running).mayRun 9 q ∧ ((turnOn 9 q running).berth 9).kind = false ∧
    ((turnOn 9 q running).berth 9).session.chal = none ∧
    ((turnOn 9 p running).modBerth 9 fun x => { x with scrPages := 1 }).mayRun 9 p ∧
    ((running.modBerth 9 fun x => { x with scrPages := 1 }).berth 9).misfit (some 0) 32 = false := by decide +kernel

/-- It is WRONG_STATE (R208). -/
theorem test_no_challenge :
    ((after (.session 9) (turnOn 9 (ins 0x60 0 0 0 8) running)).berth 9).lastStat = .wrongState := by decide +kernel

theorem witness_challenge_pause :
    let c := Cur.init (sessQ 1 0) .challenge
    let s := running.modBerth 9 fun x => { x with state := .waiting, queue := [sessQ 1 0], cur := some c }
    (s.berth 9).cur = some c ∧ c.phase = .challenge ∧ (s.berth 9).session.pause = 0 := by decide +kernel

/-- GUARD on region 1 in a service berth. -/
def guardQ : QInstr := ins 0x61 0 0 0 0 [place 1 0]

theorem witness_guard :
    let s := (turnOn 7 guardQ twoRegions).takeTurn 7 guardQ
    (turnOn 7 guardQ twoRegions).mayRun 7 guardQ ∧ guardQ.only [fXc] = true ∧ guardQ.xc = 1 ∧
    bits (guardQ.extWord 0) 6 2 = 0 ∧ bits (guardQ.extWord 0) 13 51 = 0 ∧ s.entryOk (guardRegion guardQ) ∧ s.guardRefusal 7 guardQ = none ∧ s.flashReady ∧
    s.hup.answerItem commitCost = .admitted ∧ s.grd.gate = none := by decide +kernel

theorem witness_gate :
    let c := Cur.init guardQ .drain
    let s := { (twoRegions.modBerth 7 fun x => { x with state := .running, queue := [guardQ], cur := some c }) with
      grd := { twoRegions.grd with gate := some { regions := 2, owner := 7, tidesLeft := 0 } } }
    c.ins.op = 0x61 ∧ c.writeThrough = false ∧ c.status = .ok ∧ s.guardRefusal 7 c.ins = none ∧ (s.berth 7).cur = some c ∧
    c.phase = .drain ∧ s.ownsGate 7 = true ∧ (s.grd.gate.map (·.tidesLeft)) = some 0 := by decide +kernel

/-- A gate that has not drained in its tide opens again, and the GUARD fails (R231). -/
theorem test_gate_timeout :
    let c := Cur.init guardQ .drain
    let s := { (twoRegions.modBerth 7 fun x => { x with state := .running, queue := [guardQ], cur := some c }) with
      grd := { twoRegions.grd with gate := some { regions := 2, owner := 7, tidesLeft := 0 } } }
    ((after .gateTimeout s).berth 7).lastStat = .gateTimeout := by decide +kernel

def lockQ (op : Nat) : QInstr := ins op 0 0 0 0 [5, 6]
def eraseQ : QInstr := ins 0x64 0 0 0 0 [0x46455241]

theorem witness_lock :
    let s := (turnOn 7 (lockQ 0x62) running).takeTurn 7 (lockQ 0x62)
    (turnOn 7 (lockQ 0x62) running).mayRun 7 (lockQ 0x62) ∧ s.flashReady ∧ s.hup.answerItem commitCost = .admitted ∧ (lockQ 0x62).only [fXc] = true ∧
    (lockQ 0x62).xc = 2 ∧ ((lockQ 0x62).key.all (· == 0) = false) ∧ s.grd.tries < 5 ∧ bits s.grd.lock.val 0 2 = 0 ∧
    s.grd.password = none ∧ (turnOn 7 (lockQ 0x63) running).mayRun 7 (lockQ 0x63) ∧
    (turnOn 7 eraseQ running).mayRun 7 eraseQ ∧ eraseQ.only [fXc] = true ∧ eraseQ.extWord 0 = 0x46455241 ∧
    s.scr.active = false ∧ s.scr.draining = false := by decide +kernel

/-- A locked card with a password. -/
def lockedCard : State := { running with grd := { running.grd with password := some ⟨9, 5⟩, lock := Pair.mk' 1 } }

theorem witness_unlock : lockedCard.grd.password = some ⟨9, 5⟩ ∧ bits lockedCard.grd.lock.val 0 2 = 1 ∧
    lockedCard.grd.tries < 4 ∧ (turnOn 7 (lockQ 0x63) lockedCard).mayRun 7 (lockQ 0x63) := by decide +kernel

theorem witness_erase_end :
    let s := { running with grd := { running.grd with lock := Pair.mk' 2, eraseKeysDone := true } }
    bits s.grd.lock.val 0 2 = 2 ∧ s.grd.eraseKeysDone = true ∧ s.flt.halted = false ∧ s.alive = true ∧
    s.grd.erasePct ≠ 100 ∧ s.position = 0 ∧ (s.quy.out.any fun o => s.erasePart o) = false := by decide +kernel

theorem witness_quiesce :
    let q := ins 0x66 0 0 0 0xF
    let r := ins 0x68 0 0 0 0
    let s := turnOn 7 r quiesced
    (turnOn 7 q running).mayRun 7 q ∧ q.only [(0, 4), (8, 16)] = true ∧ running.scr.active = false ∧
    running.scr.draining = false ∧ s.mayRun 7 r ∧ r.only [] = true ∧ s.scr.active = true ∧
    ({ quiesced with scr := { quiesced.scr with draining := true, tidesLeft := 0 } } : State).scr.draining = true := by
  decide +kernel

/-- The same commands out of their state. -/
theorem witness_wrong_state :
    let q := ins 0x66 0 0 0 0xF
    let r := ins 0x68 0 0 0 0
    let a := ins 0x67 1 0 0 256
    let p := ins 0x6A 0 0 0 8192
    (turnOn 7 q quiesced).mayRun 7 q ∧ (turnOn 7 r running).mayRun 7 r ∧ (turnOn 7 a running).mayRun 7 a ∧
    a.imm 0 9 = 256 ∧ a.xc = 0 ∧ a.only [fDst, fXc, (0, 9)] = true ∧ (turnOn 7 p running).mayRun 7 p ∧ p.xc = 0 ∧
    p.only [fXc, (0, 20)] = true ∧ p.imm 0 20 = 8192 := by decide +kernel

/-- A stop-change-restart with every function stopped. -/
def stopped : State := { twoRegions with scr := { twoRegions.scr with active := true, bits := 0xF, owner := 7 } }

/-- One entry: region 5 becomes GENERAL. -/
def applyQ : QInstr := ins 0x67 1 0 0 2

def applyBytes : List Byte :=
  leBytes 4 0x1428 ++ leBytes 4 3 ++ leBytes 4 0xFFFFFFFC ++ leBytes 4 0x142C ++ leBytes 4 1 ++ leBytes 4 0xFFFFFFFE

theorem witness_apply :
    let u := withData 7 applyBytes (turnOn 7 applyQ stopped)
    let s := u.takeTurn 7 applyQ
    let c := { Cur.init applyQ .data with len := applyBytes.length, acc := applyBytes }
    u.mayRun 7 applyQ ∧ applyQ.only [fDst, fXc, (0, 9)] = true ∧ applyQ.imm 0 9 = 2 ∧ applyBytes.length = 12 * 2 ∧
    (s.berth 7).cur = none ∧ s.applyRefusal 7 c = none ∧ s.scr.active = true ∧ applyQ.xc = 0 ∧
    s.dataFor 7 applyQ none applyBytes ∧
    ((c.entries.filterMap fun e => settingAt e.addr).filterMap Setting.region).dedup ≠ [] ∧ s.flashReady ∧
    s.hup.answerItem commitCost = .admitted ∧ s.grd.gate = none := by decide +kernel

theorem witness_patch :
    let q := ins 0x6A 0 0 0 1
    let u := withData 7 [0] (turnOn 7 q stopped)
    let s := u.takeTurn 7 q
    u.mayRun 7 q ∧ q.xc = 0 ∧ q.only [fXc, (0, 20)] = true ∧ q.imm 0 20 = 1 ∧ (ins 0x6A 0 0 0 8192).imm 0 20 = 8192 ∧
    bit s.scr.bits 1 = true ∧ s.dataFor 7 q none [0] := by decide +kernel

theorem witness_health :
    let q := ins 0x65 3 0 0 0
    let s := (turnOn 9 q running).takeTurn 9 q
    (turnOn 9 q running).mayRun 9 q ∧ q.only [fDst, fXc] = true ∧ q.xc = 0 ∧ s.healthPositions = [s.position] ∧ s.stagingRoom = true ∧ 272 ≤ s.lnk.pay ∧
    s.lnk.mode = .narrow := by decide +kernel

theorem witness_haltctl :
    let q := ins 0x6B 3 0 0 0
    let h := ins 0x6B 0 0 1 0x48414C54
    (turnOn 7 q running).mayRun 7 q ∧ q.modeBit 0 = false ∧ q.only [fDst] = true ∧ (turnOn 7 h running).mayRun 7 h ∧
    h.modeBit 0 = true ∧ h.only [(40, 1), (0, 32)] = true ∧ h.imm 0 32 = 0x48414C54 := by decide +kernel

/-! ### Media, ledger and logbook -/

/-- An operation on a die, begun. -/
def withDie (k : DieKind) : State := { running with dies := [{ id := 3, kind := k, need := [], run := true, suspended := false }] }

def emptyChange : Change := commitOf none true [] []

/-- A berth that reads from the dies, by READ and by LOGREAD. -/
def reads (op : Nat) : State := (withDie (.read 9)).modBerth 9 fun x => { x with
  state := .waiting, queue := [ins op 1 2 0 1 [place 1 0]], cur := some (Cur.init (ins op 1 2 0 1 [place 1 0]) .die) }

theorem witness_media :
    let i : WaitItem := { berth := 9, cost := 80, tidesLeft := 0 }
    let s := { running with hup := { running.hup with queue := [i] } }
    (s.hup.queue.find? fun i => i.berth == 9) = some i ∧ i.tidesLeft = 0 ∧ running.rst.power = .on ∧
    running.rst.phase ≠ .held ∧ (((withDie (.program emptyChange)).dies.find? fun o => o.id == 3).map (·.run)) = some true ∧
    ((withDie (.journal 0 [])).dies.map (·.kind)) = [.journal 0 []] ∧
    ((withDie (.logCopy 0 true)).dies.map (·.suspended)) = [false] ∧ ((withDie (.eraseRow 0)).dies.map (·.id)) = [3] ∧
    (DieKind.eraseRow 0).erases = true ∧ (DieKind.program emptyChange).programs = true ∧
    (((reads 0x20).berth 9).cur.map fun c => c.ins.op) = some 0x20 ∧ (((reads 0x41).berth 9).cur.map fun c => c.ins.op) = some 0x41 ∧
    1024 ≤ ({ running with ftl := { running.ftl with since := 1024 } } : State).ftl.since ∧ running.position = 0 ∧
    ({ running with ctr := { running.ctr with usedA := 12288, usedB := 12288 } } : State).ctr.usedB = 12288 ∧
    running.ctr.liveA = true ∧ running.ctr.liveB = true := by decide +kernel

/-- A failed program is counted, and its block becomes suspect (R323). -/
theorem test_program_fail :
    (after (.dieOperationDone 3 (.programFail 5 false)) (withDie (.logCopy 0 false))).ftl.health.programFail = 1 := by
  decide +kernel

/-- A checkpoint is due, and one is being signed. -/
theorem witness_checkpoint :
    let c : CpSigning := { through := 0, head := 0, owner := none, cost := 0, asked := 0, heads := Vector.replicate 4 none }
    let s := { running with log := { running.log with next := 4097 } }
    let t := { running with log := { running.log with signing := [c] } }
    let u := { t with log := { t.log with spare := 0, spent := true, copyA := { t.log.copyA with free := 0 }, copyB := { t.log.copyB with free := 0 } } }
    s.log.cpDue = true ∧ s.log.fenced = false ∧ s.flt.halted = false ∧ t.log.signing = [c] ∧ t.log.exhausted = false ∧
    u.log.exhausted = true := by
  decide +kernel

/-- A checkpoint record with the number 5, signed through 4, is durable; the host archives through 4. -/
theorem witness_archive :
    let r : LogRec := { LogRec.genesis with typ := 2, seq := 5 }
    let l : Logbook := { running.log with
      recs := [r], next := 6, cps := [{ seq := 5, through := 4 }], archSetL := 4, arch := 3 }
    let s := { running with log := l }
    (s.log.archSetH ++ s.log.archSetL).toNat = 4 ∧ (s.log.cps.map (·.through)) = [4] ∧
    (s.log.find (s.ownSeq 5)).all (·.durable) = true ∧ (s.log.find (s.ownSeq 5)).isSome = true ∧ s.log.arch.toNat < 4 ∧
    (running.log.archSetH ++ running.log.archSetL).toNat = 0 ∧ s.hup.answerItem sealCost ≠ .wait ∧
    ({ s with hup := { s.hup with ledger := .waiting } } : State).hup.answerItem sealCost = .wait := by decide +kernel

/-! ### Registers -/

theorem witness_registers :
    let m : Mem := { running.memOf 1 with flipMask := 1 }
    let s := ({ running with mem := { running.mem with sel := 1 } }).setMem 1 m
    let k := { running with mem := { running.mem with sel := 8 } }
    let r := { running with rst := { running.rst with bkSel := 4, bkl := 5, bkcl := ~~~5, bkch := 0xFFFFFFFF } }
    s.memSel = some 1 ∧ bits (s.memOf 1).flipMask 0 8 ≠ 0 ∧ k.memSel = some 8 ∧ writeShareWords ≤ 0xFFFFFFFF ∧
    bit running.ctr.fence (bits running.ctr.sel 0 5) = false ∧
    (running.counter (Fin.ofNat 32 (bits running.ctr.sel 0 5))).value = some 0 ∧ running.hup.pairsOk = true ∧
    (0x7FFD : W16).toNat % 4 ≠ 0 ∧ 0x8000 ≤ (0x8000 : W16).toNat ∧ 4 ≤ r.rst.bkSel.toNat ∧
    r.rst.bkch ++ r.rst.bkcl = ~~~(r.rst.bkh ++ r.rst.bkl) ∧ (running.rst.bk[running.bkIndex]).ok = true := by
  decide +kernel

/-- TIM_SERVO takes its 16 bits (R71). -/
theorem test_servo : (after (.registerWrite 0x2028 0x12345678) running).tim.servo = 0x5678 := by decide +kernel

/-! ### Memories -/

theorem witness_memories : Memory.wf [(3, 5)] = true ∧ Memory.write [(3, 5)] 3 0 = [] ∧
    Memory.write [(3, 5)] 0 7 = [(0, 7), (3, 5)] ∧ (running.memOf 3).remap.contains 0 = false ∧
    (running.memOf 3).remap.length < 16 ∧ running.dom 12 = .on ∧ running.dramLost = false ∧
    (let x : Mem := { running.memOf 3 with remap := (List.range 16).map (BitVec.ofNat 32) }
     16 ≤ x.remap.length ∧ x.remap.contains 16 = false ∧ x.withdrawn.contains (memPage 3 16) = false) := by decide +kernel

theorem test_remap : ((running.remap 3 7).memOf 3).remap = [7] := by decide +kernel

/-! ### Hold-up, removal -/

def testing (fails : Nat) : State := { running with hup := { running.hup with capTest := some 32, capFails := fails } }

/-- An hour after the last test began, with the bank and VIN up. -/
def testDue : State := { running with
  hup := { running.hup with vinMv := 6000, bankMv := 8000, capFrom := 5 }
  tim := { running.tim with counter := 3600000000005 } }

/-- Step 4 of the release sequence, with the boundaries left. -/
def closing (n : Nat) : State := { running with hup := { running.hup with release := .closing, relLeft := n } }

theorem witness_hold_up : testDue.capReady = true ∧ testDue.hup.pairsOk = true ∧
    testDue.hup.capFrom.toNat + 3600000000000 ≤ testDue.tim.counter.toNat ∧ (testing 0).hup.capTest = some 32 ∧
    1000000 % 50 = 0 ∧ 1000000 % 5000 = 0 ∧ (testing 0).hup.capFails = 0 ∧ running.pressCounts 50 = true ∧
    ({ running with grd := { running.grd with lock := Pair.mk' 1 } } : State).grd.lock.val = 1 ∧
    ({ running with hup := { running.hup with release := .pending } } : State).hup.release = .pending ∧
    (closing 0).hup.release = .closing ∧ (closing 0).flt.halted = false ∧ (closing 0).hup.relLeft = 0 ∧
    (closing 1).hup.relLeft = 1 ∧ (closing 64).hup.relLeft ≠ 0 ∧ running.hup.release ≠ .pending := by decide +kernel

theorem witness_at_rest : ∀ b : BerthId, 8 ≤ b.val → ((closing 64).berth b).cur = none := by
  intro b _
  simp [closing, running, State.berth, State.reset, Berth.init]

/-- Step 5 leaves the card safe (Table HUP-7). -/
theorem test_closing : (closing 0).releaseDue.hup.release = .safe := by decide +kernel

/-- A drop of 1000 mV measures 1000 uF; 49 mV is no good figure (R351, R353). -/
theorem test_cap : (after (.capTestEnd 1000) (testing 0)).hup.capUf = 1000 ∧
    (after (.capTestEnd 49) (testing 0)).hup.capFails = 1 := by decide +kernel

theorem witness_removal : running.rst.power = .on ∧ running.rst.phase ≠ .held ∧ running.rst.level = .ready ∧
    running.flt.halted = false ∧ running.hup.ledger ≠ .bench ∧ running.removalClean running.hup.d = true ∧
    running.removalClean (running.hup.d - 1) = false ∧ 0 < running.hup.d ∧ running.hup.removing = false ∧
    (rs fun l => { l with phase := .held }).rst.phase = .held ∧
    ({ running with rst := { running.rst with strapCode := 1 } } : State).isMember = true := by decide +kernel

/-- A removal that has begun, with VIN back at its end or not. -/
def removed (back : Bool) : State := after (.detFall 5000 back) running

theorem witness_removing (back : Bool) : (removed back).hup.removing = true ∧ (removed back).rst.power = .on ∧
    (removed back).hup.rmvBack = back := by
  cases back <;> decide +kernel

/-- Intake has ended, and the sequence is cause 2 of SB0 (Table NARROW-6). -/
theorem test_removing : (removed false).busyCause 2 = true ∧ (removed false).hup.rmvClean = true := by decide +kernel

/-! ### Power and clocks -/

def asked (ans : BitVec 2) (n : BitVec 3) : State := { running with pmu := { running.pmu with
  pend := true, answer := ans, req := 0x1C, delayN := n } }

theorem witness_power : running.pmu.pend = false ∧ bits (0x3F : W32) 4 2 = 3 ∧ bits (0x1F : W32) 4 2 = 1 ∧
    bits (0x2F : W32) 4 2 = 2 ∧ bits (0x0F : W32) 4 2 = 0 ∧ running.dom 15 ≠ .failed ∧ (asked 0 0).pmu.pend = true ∧
    (asked 0 0).lowerRefusal 12 false = none ∧ bits (0x1C : W32) 0 4 = 12 ∧
    ({ running with pmu := { running.pmu with pend := true, req := 0x10 } } : State).lowerRefusal 0 false ≠ none ∧
    (asked 2 4).pmu.answer = 2 ∧ (asked 2 4).pmu.delayN = 4 ∧ (asked 2 4).pmu.delayLeft = 0 ∧ (asked 0 3).pmu.delayN ≠ 4 ∧
    ({ running with pmu := { running.pmu with delayLeft := 16 } } : State).pmu.delayLeft ≠ 0 ∧
    bit ({ running with pmu := { running.pmu with waking := 0x1000 } } : State).pmu.waking 12 = true ∧
    bit ({ running with pmu := { running.pmu with waking := 0x8000 } } : State).pmu.waking 15 = true ∧
    bit running.pmu.railFailed 5 = false ∧ bit running.pmu.retried 5 = false ∧
    bit ({ running with pmu := { running.pmu with switchRetried := 0x8000 } } : State).pmu.switchRetried 15 = true ∧
    bit ({ running with pmu := { running.pmu with retried := 2 } } : State).pmu.retried 1 = true ∧
    running.lnk.mode = .narrow ∧ inLane.lnk.mode = .lane ∧ inLane.lnk.hrefOk = true := by decide +kernel

theorem witness_clock :
    let s := { running with pmu := { running.pmu with pll := false, rcOnly := false } }
    s.pmu.rcOnly = false ∧ s.pmu.pll = false ∧ ({ running with pmu := { running.pmu with pll := true } } : State).pmu.pll = true := by
  decide +kernel

/-! ### Reset -/

def low (h : HrstLow) : State := { running with rst := { running.rst with hrst := h } }

theorem witness_hrst : (low .high).alive = true ∧ (low .high).position = 0 ∧ (low .high).rst.hrst = .high := by decide +kernel

/-- HRST# low for 2 us and for 1 ms: a warm source, then a cold one (R401). -/
theorem test_hrst :
    (after .hrstWarmSource (after .hrstFall running)).rst.widest = .warm ∧
    (after .hrstColdSource (after .hrstWarmSource (after .hrstFall running))).rst.widest = .cold := by decide +kernel

def resetting (w : Reach) (p : RstPhase) : State := { running with rst := { running.rst with
  widest := w, phase := p, asserted := 0, strapOld := some 0 } }

/-- What the exit reads with the strap of a card on its own. -/
def plainExit : ExitReading :=
  { strapOhms := some 499, strapRaw := 0, trimFail := none, tmode := false, hot := false, lanesOk := 0x3F }

theorem witness_reset :
    (resetting .warm .deferring).rst.power = .on ∧ (resetting .warm .deferring).rst.phase = .deferring ∧
    (resetting .total .held).rst.phase = .held ∧ (resetting .total .held).rst.asserted = 0 ∧
    (resetting .total .held).rst.widest = .total ∧ (resetting .cold .held).rst.widest = .cold ∧
    (strapCodeOf plainExit.strapOhms).isSome = true ∧ (resetting .cold .held).rst.strapOld.isSome = true ∧
    strapCodeOf (some 500) = none ∧ ({ running with rst := { running.rst with strapFaults := 2 } } : State).rst.strapFaults = 2 ∧
    plainExit.trimFail = none ∧ plainExit.tmode = false ∧ plainExit.hot = false ∧
    ({ running with rst := { running.rst with power := .off } } : State).rst.power = .off ∧ running.rst.mrstLow = false ∧
    ({ running with rst := { running.rst with level := .recovering } } : State).rst.level ≠ .ready := by decide +kernel

theorem witness_block_reset : bits (1 : W32) 0 4 < 2 ∧ bits (15 : W32) 0 4 = 15 ∧ running.rst.blkResult ≠ 3 ∧
    running.dom 15 ≠ .failed ∧ running.domIdle 15 = true ∧
    ({ running with hup := { running.hup with debit := Pair.mk' 481 } } : State).domIdle 15 = false := by decide +kernel

/-! ### Faults -/

theorem witness_faults :
    (running.settleClass 26 .note .none).1 ≠ .halt ∧ (running.settleClass 0 .halt .none).1 = .halt ∧
    running.flt.src[(0 : Fin 64)].cls ≠ .halt ∧ running.condition 26 = none ∧
    ({ running with quy := { running.quy with map := Pair.mk' 6 } } : State).forceInert = true ∧ running.forceInert = false ∧
    reservedSource 26 = false ∧ (forceUnit 26 running.flt.funit.toNat == some .none) = true ∧
    bit ({ running with mon := { running.mon with stctl := 1 } } : State).mon.stctl 0 = true ∧ running.dom 15 = .on ∧
    running.mon.shut = false ∧ ({ running with mon := { running.mon with pos := 53 } } : State).mon.pos = 53 ∧
    (let x := { running.flt.src[(4 : Fin 64)] with sticky := true, cls := .halt }
     (running.setSource 4 x).flt.src[(4 : Fin 64)].sticky = true) := by decide +kernel

/-- Slice 0, a lane; slice 6, a quay port that is not up; and the lane again in a tide that has had its slice. -/
def sliceState (n : Nat) (done : List Res) : State := { running with
  mon := { running.mon with pos := n }, sched := { running.sched with sliced := done } }

theorem witness_slice : (sliceState 0 []).sliceDue = true ∧
    (sliceState 0 []).sliceSkips 0 0 = false ∧ (sliceState 0 []).sliceFits ((sliceState 0 []).sliceRes 0 0) = true ∧
    Machine.sliceAt 6 sliceCounts = (1, 0) ∧ (sliceState 6 []).sliceSkips 1 0 = true ∧
    (sliceState 0 [.up]).sliceFits ((sliceState 0 [.up]).sliceRes 0 0) = false ∧
    ({ running with mon := { running.mon with sliceAt := some running.tim.counter } } : State).sliceDue = false := by
  decide +kernel

theorem witness_halted : halted.flt.halted = true ∧ halted.alive = true := by decide +kernel

/-! ### Cascade -/

/-- The member at position 1, and the master of a cascade with it. -/
def member : State := { running with rst := { running.rst with strapCode := 1 } }

def master : State := { running with quy := { running.quy with map := Pair.mk' 2, present := 2 } }

def partOf (w : Bool) : SubInstr :=
  { id := 5, write := w, region := 1, unit := 7, payload := zeros 4096, split := true, records := none }

theorem witness_member : member.isMember = true ∧ member.alive = true ∧ member.quy.holding = false ∧
    member.flt.halted = false ∧ (partOf false).write = false ∧ member.copyOf (unitKey 1 7) = none ∧
    (partOf true).payload.length = 4096 ∧ (partOf true).records = none ∧ member.hup.answerItem 1 = .admitted ∧
    member.tim.quality = .freeRunning ∧ (member.unitOf (unitKey 1 7)).fresh = [] := by decide +kernel

/-- A member that has missed four edges of the strobe, and has heard nothing of the master for eight tides. -/
def quietMember : State := { member with quy := { member.quy with strobe := true, missed := 4, quiet := Vector.replicate 4 8 } }

theorem witness_quiet_member : quietMember.quy.strobe = true ∧ 4 ≤ quietMember.quy.missed ∧ quietMember.silentFor 0 = true ∧
    member.silentFor 0 = false ∧ quietMember.isMember = true ∧ quietMember.alive = true := by decide +kernel

/-- The member's record 0 is asked for, and its first number not sealed yet. -/
theorem test_member_log :
    ((after (.quaySubInstruction { partOf false with unit := (member.ownSeq 1).toNat, records := some 1 }) member).quy.answers.map
      (·.status)) = [Status.range.code] ∧
    ((after (.quaySubInstruction { partOf false with unit := (member.ownSeq 0).toNat, records := some 1 }) member).dies.length) = 1 := by
  decide +kernel

/-- Each content of the retained SRAM lies in some page. -/
theorem witness_retained_page (i : Nat) : ∃ p, Config.retainedPage i = p := ⟨_, rfl⟩

/-- A member's unit that stands in flash is read from its die. -/
theorem test_member_read :
    let i : SubInstr := { partOf false with payload := [] }
    let busy := { withDie (.memberRead i) with rst := { running.rst with strapCode := 1 } }
    let c : Copy := { cipher := [], key := none, block := 7, region := 1, lost := false, seq := 0, code := .strong,
                      place := { entry := 5, row := 0, loc := .tlc } }
    let s := member.putUnit (subKey i) { base := some c, fresh := [] }
    (s.copyOf (subKey i)).isSome = true ∧ ((busy.dies.find? fun o => o.id == 3).map (·.kind)) = some (.memberRead i) := by
  decide +kernel

/-- The edge at the quay's own delay, and the furthest that is taken. -/
theorem witness_edge : (((Config.quayDelay.toNat : Int) + 1000) - Config.quayDelay.toNat).natAbs ≤ 1000 ∧
    (((Config.quayDelay.toNat : Int)) - Config.quayDelay.toNat).natAbs ≤ 1000 := by omega

def okReport : MemberReport :=
  { position := 1, strapMaster := false, bankAbsent := false, readyLevel := 2, capacityMib := 0, ledger := 0, euMj := 0,
    faultClass := 0, stickies := 0 }

def portIn (st : PortState) : State := master.setPort 0 { Port.init with state := st }

theorem witness_master : master.isMember = false ∧ master.alive = true ∧ master.runsPort 0 = true ∧
    ((portIn .training).quy.ports[(0 : Fin 3)]).state = .training ∧ ((portIn .up).quy.ports[(0 : Fin 3)]).state = .up ∧
    ((portIn .up).quy.ports[(0 : Fin 3)]).headReplays < 4 ∧ bit master.quy.map.val 1 = true ∧ bit master.quy.lost 1 = false ∧
    okReport.position = Fin.ofNat 4 1 ∧ okReport.strapMaster = false ∧ okReport.readyLevel ≠ 3 ∧
    (okReport.bankAbsent = bit master.rst.strapCode 3) ∧ bit master.quy.present 1 = true := by decide +kernel

theorem witness_answer :
    let o : SubOut := { id := 5, berth := 9, position := 1 }
    let s := ({ master with quy := { master.quy with out := [o] } } : State).modBerth 9 fun x => { x with
      state := .waiting, queue := [trimQ], cur := some (Cur.init trimQ .durable) }
    (s.quy.out.find? fun o => o.id == 5) = some o ∧ bits s.grd.lock.val 0 2 ≠ 2 ∧ (0 : Byte) ≠ Status.halted.code ∧
    ({ master with quy := { master.quy with quiet := Vector.replicate 4 8 } } : State).silentFor 1 = true ∧ ((s.berth 9).cur.map fun c => c.ins.op) = some 0x30 := by decide +kernel

/-! ### Berth commands -/

/-- The selected berth, 0, with a state and a kind. -/
def berthIn (k : Bool) (st : BState) : State := running.modBerth 0 fun x => { x with
  kind := k, state := st, win := { x.win with units := 1024, pages := 64 } }

theorem witness_berth : (berthIn true .unallocated).selected = 0 ∧ ((berthIn true .unallocated).berth 0).win.units = 1024 ∧
    ((berthIn true .unallocated).berth 0).win.pages = 64 ∧
    firstFit (berthIn true .unallocated).unitFree 1 1024 = some 0 ∧
    firstFit (berthIn true .unallocated).pageFree 64 64 = some 0 ∧ ((berthIn true .loaded).berth 0).kind = true ∧
    (berthIn true .loaded).quiesces 0 = false ∧ ((berthIn true .stopped).berth 0).state = .stopped ∧
    ((berthIn false .ready).berth 0).state = .ready ∧ bit ((berthIn false .empty).berth 0).session.set (bits (7 : W32) 4 4) = true ∧
    bits (0x10000 : W32) 0 16 = 0 ∧ bits (1 : W32) 0 16 ≠ 0 ∧ (running.berth 0).win.regions = 0 := by decide +kernel

/-- A reservation of one byte a us in a GENERAL region, and one of the logbook. -/
theorem witness_resv : twoRegions.reservable 1 = true ∧ running.reservable 0 = false ∧ running.reservable 1 = false ∧
    ({ BthWindow.init with resvRl := 2 } : BthWindow).regions = 2 := by decide +kernel

/-- Berth 0 waits for a record that a later one follows, and for one that nothing follows. -/
def waitsRecord (followed : Bool) : State :=
  let r : LogRec := { LogRec.genesis with typ := 0x8000, seq := 1, durA := false, durB := false, owner := some 0, cost := sealCost }
  let s := running.modBerth 0 fun x => { x with
    state := .waiting, queue := [sealQ], cur := some { Cur.init sealQ .durable with open_ := 1 } }
  { s with log := { s.log with next := 3, recs := s.log.recs ++ [r] ++
      (if followed then [{ r with seq := 2, owner := some 9 }] else []) } }

theorem witness_stop : ((waitsRecord true).berth 0).state = .waiting ∧
    ((waitsRecord true).berth 0).cur.all (fun c => !(waitsRecord true).takesBack 0 c) = true ∧
    ((waitsRecord true).berth 0).cur.isSome = true ∧
    ((waitsRecord false).berth 0).cur.all (fun c => (waitsRecord false).takesBack 0 c) = true := by decide +kernel

theorem test_free : ((after .free (berthIn true .loaded)).berth 0).state = .empty := by decide +kernel

/-! ### The block as a whole -/

theorem witness_quiet (b : BerthId) : (State.reset.berth b).cur = none := by
  simp [State.berth, State.reset, Berth.init]

theorem witness_step : State.reset.memWf = true ∧ State.reset.hup.queue = [] ∧
    State.reset.grd.gate = none ∧ State.reset.scr.draining = false ∧ State.reset.lnk.withheld = 0 ∧
    State.reset.dies = [] ∧ State.reset.hup.debit.ok = true ∧
    (∀ r : Fin 64, (State.reset.ring r.val).segs = []) := by decide +kernel

/-- A step on an empty queue idles (log 1); with a command in front it takes it. -/
theorem test_idle : (match step State.reset with
    | .next t => t.pending.length
    | _ => 9) = 0 := by decide +kernel

end Sys2Proof.Tests
end

section
/-! SUPPORT. What opens an access (rows 3 to 12 of Table COMB-2), and the parts that it is checked under (R179). -/

namespace Sys2Proof.Machine

theorem State.checkEntry_of_entryOk {s : State} {r : Nat} (h : s.entryOk r) : s.checkEntry r = s := by
  obtain ⟨he, hr⟩ := h
  have hr' : ¬(s.rtype r = .ring ∧ ¬(s.ring r).ok ∧ ¬(s.ring r).mismatch) := by
    rintro ⟨ht, hn, -⟩
    exact hn (hr ht)
  simp only [State.checkEntry, he, Bool.true_or, if_true, if_neg hr']

theorem State.opened_of_refusal {s : State} {b : BerthId} {q : QInstr} {a : Ask} {st : Status} (hg : s.gated a.region = false)
    (he : s.entryOk a.region) (hr : s.refusal a = some st) (body : State → State) :
    s.opened b q a body = s.refuse b q st := by
  simp [State.opened, hg, State.checkEntry_of_entryOk he, hr]

theorem State.opened_of_opensFor {s : State} {b : BerthId} {q : QInstr} {a : Ask} (h : s.opensFor a) (body : State → State) :
    s.opened b q a body = body s := by
  obtain ⟨hg, he, hr⟩ := h
  simp [State.opened, hg, State.checkEntry_of_entryOk he, hr]

@[simp] theorem satNat_toNat (w : Nat) (v : BitVec w) : satNat w v.toNat = v := by
  have := v.isLt
  rw [satNat, Nat.min_eq_left (by omega), BitVec.ofNat_toNat, BitVec.setWidth_eq]

@[simp] theorem State.denyParts_zero (s : State) : s.denyParts 0 = s := by simp [State.denyParts]

theorem State.spanned_of_fits {s : State} {b : BerthId} {scratch : Option Nat} {n : Nat}
    (h : ∀ off, scratch = some off → (s.scratchPlace b off n).1 = .ok) (q : QInstr) (body : State → State) (denied : Nat) :
    s.spanned b q scratch n body denied = body s := by
  cases scratch with
  | none => rfl
  | some off => simp [State.spanned, h off rfl]

theorem State.later_denied (s : State) (p : Path) : s.later p = s.later { p with denied := 0 } := rfl

theorem State.onPath_of_go {s : State} {p : Path} (h : s.later { p with denied := 0 } = .go) (hd : p.denied = 0) (b : BerthId)
    (q : QInstr) (body : State → State) : s.onPath b q p body = body s := by
  rw [State.onPath, State.later_denied, h, hd]
  simp

@[simp] theorem State.tagged_false (s : State) (b : BerthId) (q : QInstr) (body : State → State) :
    s.tagged b q false body = body s := rfl

theorem QInstr.form_inv {q : QInstr} {x : Berth} {n : Nat} {scr : Bool} {f : Form} (h : q.form x n scr = some f) :
    f.region < 64 ∧ f.region2 < 64 ∧ (scr = false → f.scratch = none) := by
  unfold QInstr.form at h
  extract_lets areg lreg named w w2 at h
  split at h
  · cases h
    refine ⟨Nat.mod_lt _ (by decide), Nat.mod_lt _ (by decide), ?_⟩
    rintro rfl
    simp [named]
  · cases h

/-! ### Parts -/

/-- Parts that lie side by side from one offset up to another. -/
def tiles : Nat → Nat → List Part → Prop
  | a, e, [] => a = e
  | a, e, p :: ps => p.off = a ∧ tiles (a + p.len) e ps

theorem joinParts_cons_of_nil {p : Part} {ps : List Part} (h : joinParts ps = []) : joinParts (p :: ps) = [p] := by
  unfold joinParts at h ⊢
  rw [List.foldr_cons, h]

theorem joinParts_cons_of_cons {p q : Part} {ps r : List Part} (h : joinParts ps = q :: r) :
    joinParts (p :: ps) = if p.colour = q.colour then { p with len := p.len + q.len } :: r else p :: q :: r := by
  unfold joinParts at h ⊢
  rw [List.foldr_cons, h]

theorem tiles_joinParts {ps : List Part} : ∀ {a e : Nat}, tiles a e ps → tiles a e (joinParts ps) := by
  induction ps with
  | nil => exact id
  | cons p ps ih =>
    rintro a e ⟨hp, hr⟩
    have hj := ih hr
    cases hq : joinParts ps with
    | nil =>
      rw [joinParts_cons_of_nil hq]
      exact ⟨hp, hq ▸ hj⟩
    | cons q r =>
      rw [joinParts_cons_of_cons hq]
      rw [hq] at hj
      obtain ⟨ho, ht⟩ := hj
      split_ifs
      · exact ⟨hp, by simpa [Nat.add_assoc] using ht⟩
      · exact ⟨hp, ho, ht⟩

theorem tiles_cover {ps : List Part} : ∀ {a e i : Nat}, tiles a e ps → a ≤ i → i < e → ∃ p ∈ ps, p.off ≤ i ∧ i < p.off + p.len := by
  induction ps with
  | nil => rintro a e i rfl h1 h2; omega
  | cons p ps ih =>
    rintro a e i ⟨rfl, hr⟩ h1 h2
    by_cases hi : i < p.off + p.len
    · exact ⟨p, by simp, h1, hi⟩
    · obtain ⟨p', hm, hp'⟩ := ih hr (by omega) h2
      exact ⟨p', by simp [hm], hp'⟩

theorem tiles_map_range' {f : Nat → Part} {bound : Nat → Nat} (n : Nat) : ∀ {j : Nat},
    (∀ i, j ≤ i → i < j + n → (f i).off = bound i ∧ bound i + (f i).len = bound (i + 1)) →
    tiles (bound j) (bound (j + n)) ((List.range' j n).map f) := by
  induction n with
  | zero => exact fun _ => rfl
  | succ n ih =>
    intro j h
    obtain ⟨ho, hl⟩ := h j le_rfl (by omega)
    rw [List.range'_succ, List.map_cons]
    refine ⟨ho, ?_⟩
    rw [hl, show j + (n + 1) = j + 1 + n by omega]
    exact ih fun i h1 h2 => h i (by omega) (by omega)

/-- The parts of an access lie side by side and make up the whole of it. -/
theorem State.tiles_partsOf (s : State) (x : Berth) (r start : Nat) {len : Nat} (hl : 0 < len) :
    tiles 0 len (s.partsOf x r start len) := by
  unfold State.partsOf
  split_ifs
  · refine tiles_joinParts ?_
    have h := tiles_map_range' (f := fun i =>
        let lo := max start ((start / segSize + i) * segSize)
        let c := s.segColour r (start / segSize + i)
        { off := lo - start, len := min (start + len) ((start / segSize + i + 1) * segSize) - lo, colour := c, ok := x.has c })
      (bound := fun i => min (start + len) (max start ((start / segSize + i) * segSize)) - start)
      ((start + len - 1) / segSize + 1 - start / segSize) (j := 0) (fun i _ h2 => by
        simp only [segSize] at *
        omega)
    rw [← List.range_eq_range'] at h
    simp only [segSize] at *
    convert h using 1 <;> omega
  · exact ⟨rfl, by simp [tiles]⟩

theorem State.partsOf_ne_nil (s : State) (x : Berth) (r start : Nat) {len : Nat} (hl : 0 < len) :
    s.partsOf x r start len ≠ [] := by
  intro h
  have := s.tiles_partsOf x r start hl
  rw [h] at this
  exact hl.ne this

/-- Where every part is allowed, so is every block. -/
theorem State.allowedAt_partsOf {s : State} {b : BerthId} {r start len : Nat} (h : s.allowed b r start len) {i : Nat}
    (hi : i < len) : allowedAt (s.partsOf (s.berth b) r start len) i = true := by
  obtain ⟨p, hm, h1, h2⟩ := tiles_cover (s.tiles_partsOf (s.berth b) r start (by omega)) (Nat.zero_le i) hi
  exact List.any_eq_true.2 ⟨p, hm, by simp [List.all_eq_true.1 h p hm, h1, h2]⟩

theorem State.not_all_denied {s : State} {b : BerthId} {r start len : Nat} (h : s.allowed b r start len) (hl : 0 < len) :
    (s.partsOf (s.berth b) r start len).all (fun p => !p.ok) = false := by
  obtain ⟨p, hm⟩ := List.exists_mem_of_ne_nil _ (s.partsOf_ne_nil (s.berth b) r start hl)
  rw [List.all_eq_false]
  exact ⟨p, hm, by simp [List.all_eq_true.1 h p hm]⟩

theorem deniedCount_of_all_ok {ps : List Part} (h : ps.all (fun p => p.ok) = true) : deniedCount ps = 0 := by
  rw [deniedCount, List.length_eq_zero_iff, List.filter_eq_nil_iff]
  intro p hp
  simp [List.all_eq_true.1 h p hp]

theorem firstDenied_of_all_ok {ps : List Part} (h : ps.all (fun p => p.ok) = true) : firstDenied ps = none := by
  rw [firstDenied, Option.map_eq_none_iff, List.find?_eq_none]
  intro p hp
  simp [List.all_eq_true.1 h p hp]

end Sys2Proof.Machine
end

section
/-! SUPPORT. Reads whose blocks need no die (steps 2 to 4 of Table ARCH-3). -/

namespace Sys2Proof.Machine

@[simp] theorem zeros_length (n : Nat) : (zeros n).length = n := by simp [zeros]

@[simp] theorem slice_length (bs : List Byte) (off n : Nat) : (slice bs off n).length = n := by
  simp only [slice, List.length_append, List.length_take, List.length_drop, zeros_length]
  omega

theorem slice_whole (bs : List Byte) : slice bs 0 bs.length = bs := by simp [slice, zeros]

/-- Every block of an access lies on this controller, and no member of the cascade is lost. -/
theorem State.remotes_of_single {s : State} (h : s.single) (r start : Nat) (offs : List Nat) : s.remotes r start offs = [] := by
  simp [State.remotes, h.1]

theorem State.blockData_length {s : State} {r blk : Nat} (h : (s.unitData (s.blockKey r blk)).length = 4096) :
    (s.blockData r blk).length = s.blockSize r := by
  unfold State.blockData State.blockSize
  split_ifs
  · exact slice_length _ _ _
  · exact h

theorem State.runData_length {s : State} {r start len : Nat} (h : s.inShare r start len) :
    (s.runData r start len).length = len * s.blockSize r := by
  rw [State.runData, List.length_flatMap, List.map_congr_left (g := fun _ => s.blockSize r)]
  · simp
  · intro i hi
    exact State.blockData_length (h i (List.mem_range.1 hi)).2.2

/-- A read whose blocks are all in the write share or unmapped, as it stands when its data have been copied. -/
def State.sharedRead (s : State) (q : QInstr) (f : Form) (parts : List Part) : Cur :=
  { Cur.init q .die with
    region := f.region
    start := f.start
    len := f.len
    region2 := f.region2
    start2 := f.start2
    acc := if q.op = 0x24 then [] else s.runData f.region f.start f.len
    parts := parts
    scratch := f.scratch }

/-- Nothing is to be read from a die or a member, so the read ends in the step that begins it (R26). -/
theorem State.readStart_of_inShare {s : State} {b : BerthId} {q : QInstr} {f : Form} (hs : s.single)
    (ha : s.allowed b f.region f.start f.len) (hm : s.inShare f.region f.start f.len) :
    s.readStart b q f (s.partsOf (s.berth b) f.region f.start f.len) =
      s.readDone b (s.sharedRead q f (s.partsOf (s.berth b) f.region f.start f.len)) := by
  have hall : ∀ i, i < f.len → allowedAt (s.partsOf (s.berth b) f.region f.start f.len) i = true :=
    fun i hi => State.allowedAt_partsOf ha hi
  have hoffs : (List.range f.len).filter (allowedAt (s.partsOf (s.berth b) f.region f.start f.len)) = List.range f.len :=
    List.filter_eq_self.2 fun i hi => hall i (List.mem_range.1 hi)
  have hlost : ((List.range f.len).filter fun i => s.blockLost f.region (f.start + i) ||
      bit s.quy.lost (s.placeOf f.region (f.start + i))) = [] := by
    rw [List.filter_eq_nil_iff]
    intro i hi
    simp [(hm i (List.mem_range.1 hi)).2.1, hs.2.1, bit]
  have hdie : ((List.range f.len).filter fun i => s.blockOnDie f.region (f.start + i)) = [] := by
    rw [List.filter_eq_nil_iff]
    intro i hi
    simp [(hm i (List.mem_range.1 hi)).1]
  have hdata : ((List.range f.len).flatMap fun i =>
      if allowedAt (s.partsOf (s.berth b) f.region f.start f.len) i then s.blockData f.region (f.start + i)
      else zeros (s.blockSize f.region)) = s.runData f.region f.start f.len := by
    rw [State.runData]
    refine List.flatMap_congr fun i hi => ?_
    rw [if_pos (hall i (List.mem_range.1 hi))]
  unfold State.readStart
  simp only [hoffs, hlost, hdie, hdata, State.remotes_of_single hs]
  rfl

/-- A read that is allowed whole and lost no block is whole. -/
theorem State.readEnd_of_whole {s : State} {c : Cur} (hb : c.blocks = []) (hf : firstDenied c.parts = none)
    (ha : ∀ i, i < c.len → allowedAt c.parts i = true) :
    s.readEnd c = { upTo := c.len, done := c.len, status := .ok, first := none } := by
  have hl : c.firstLost = none := by simp [Cur.firstLost, hb]
  have hd : ((List.range c.len).filter (allowedAt c.parts)).length = c.len := by
    rw [List.filter_eq_self.2 fun i hi => ha i (List.mem_range.1 hi), List.length_range]
  simp [State.readEnd, hl, hf, hb, hd]

theorem State.readEnd_sharedRead {s t : State} {b : BerthId} {q : QInstr} {f : Form}
    (ha : s.allowed b f.region f.start f.len) :
    t.readEnd (s.sharedRead q f (s.partsOf (s.berth b) f.region f.start f.len)) =
      { upTo := f.len, done := f.len, status := .ok, first := none } :=
  State.readEnd_of_whole rfl (firstDenied_of_all_ok ha) fun _ hi => State.allowedAt_partsOf ha hi

/-- What READ and VERIFY have left to do once every block is in. -/
def State.sharedReadEnd (s : State) (q : QInstr) (f : Form) (parts : List Part) : Cur :=
  { s.sharedRead q f parts with
    pos := f.len, done := f.len, result := some (BitVec.ofNat 64 (if q.op = 0x24 then 0 else f.len)) }

/-- VERIFY finds no weak block (R195). -/
theorem State.readDone_verify {s : State} {b : BerthId} {q : QInstr} {f : Form} (hq : q.op = 0x24)
    (ha : s.allowed b f.region f.start f.len) :
    s.readDone b (s.sharedRead q f (s.partsOf (s.berth b) f.region f.start f.len)) = s.finish b q .ok f.len none (some 0) := by
  rw [State.readDone, State.readEnd_sharedRead ha]
  simp [State.sharedRead, Cur.init, hq]

/-- READ delivers its data (R192). -/
theorem State.readDone_read {s : State} {b : BerthId} {q : QInstr} {f : Form} (hq : q.op = 0x20)
    (ha : s.allowed b f.region f.start f.len) (hm : s.inShare f.region f.start f.len) :
    s.readDone b (s.sharedRead q f (s.partsOf (s.berth b) f.region f.start f.len)) =
      s.deliver b (s.sharedReadEnd q f (s.partsOf (s.berth b) f.region f.start f.len)) := by
  have ht : (s.runData f.region f.start f.len).take (f.len * s.blockSize f.region) = s.runData f.region f.start f.len :=
    List.take_of_length_le (State.runData_length hm).le
  rw [State.readDone, State.readEnd_sharedRead ha]
  simp [State.sharedReadEnd, State.sharedRead, Cur.init, hq, ht]

end Sys2Proof.Machine
end

section
/-! SUPPORT. The instruction in progress, the up path, and the delivery of read data (R26, R123, R128, R162). -/

namespace Sys2Proof.Machine

/-- The berth's instruction in progress is `c`. -/
def State.withCur (s : State) (b : BerthId) (c : Cur) : State := s.modBerth b fun x => { x with cur := some c }

@[simp] theorem State.berth_withCur (s : State) (b : BerthId) (c : Cur) :
    (s.withCur b c).berth b = { s.berth b with cur := some c } := State.berth_modBerth s b _

theorem State.modBerth_modBerth (s : State) (b : BerthId) (f g : Berth → Berth) :
    (s.modBerth b f).modBerth b g = s.modBerth b fun x => g (f x) := by
  simp [State.modBerth, State.setBerth, State.berth]

@[simp] theorem State.modCur_withCur (s : State) (b : BerthId) (c : Cur) (f : Cur → Cur) :
    (s.withCur b c).modCur b f = s.withCur b (f c) := s.modBerth_modBerth b _ _

/-! ### The up path -/

/-- The front parcel of the up path leaves and waits in the replay buffer (R123, R128). -/
def State.leaveUp (s : State) (p : UpParcel) (r : List UpParcel) : State :=
  { s with
    nar := { s.nar with up := r }
    lnk := { s.lnk with
      creditUp := s.lnk.creditUp - 1
      replayBuf := s.lnk.replayBuf ++ [(s.lnk.txNext, p)]
      txNext := s.lnk.txNext + 1
      sent := s.lnk.sent ++ [.parcel s.lnk.txNext p s.busy] } }

theorem State.drainUp_of_open {s : State} {p : UpParcel} {r : List UpParcel} (hu : s.nar.up = p :: r)
    (hc : s.lnk.mode = .lane ∧ 0 < s.lnk.creditUp) (n : Nat) : s.drainUp (n + 1) = (s.leaveUp p r).drainUp n := by
  rw [State.drainUp, hu]
  exact if_pos hc

theorem State.drainUp_of_shut {s : State} (hc : s.nar.up = [] ∨ ¬(s.lnk.mode = .lane ∧ 0 < s.lnk.creditUp)) (n : Nat) :
    s.drainUp (n + 1) = s := by
  rw [State.drainUp]
  split
  · rfl
  · next hu => exact if_neg (hc.resolve_left (by simp [hu]))

/-- How draining the up path goes, parcel by parcel. -/
theorem State.drainUp_cases (s : State) (n : Nat) : s.drainUp (n + 1) = s ∨
    ∃ p r, s.nar.up = p :: r ∧ s.drainUp (n + 1) = (s.leaveUp p r).drainUp n := by
  cases hu : s.nar.up with
  | nil => exact .inl (State.drainUp_of_shut (.inl hu) n)
  | cons p r =>
    by_cases hc : s.lnk.mode = .lane ∧ 0 < s.lnk.creditUp
    · exact .inr ⟨p, r, rfl, State.drainUp_of_open hu hc n⟩
    · exact .inl (State.drainUp_of_shut (.inr hc) n)

theorem State.drainUp_modBerth (b : BerthId) (f : Berth → Berth) (n : Nat) (s : State) :
    (s.modBerth b f).drainUp n = (s.drainUp n).modBerth b f := by
  induction n generalizing s with
  | zero => rfl
  | succ n ih =>
    by_cases hc : s.nar.up = [] ∨ ¬(s.lnk.mode = .lane ∧ 0 < s.lnk.creditUp)
    · rw [State.drainUp_of_shut hc, State.drainUp_of_shut (s := s.modBerth b f) hc]
    · rw [not_or, not_not] at hc
      obtain ⟨p, r, hu⟩ := List.exists_cons_of_ne_nil hc.1
      rw [State.drainUp_of_open hu hc.2, State.drainUp_of_open (s := s.modBerth b f) hu hc.2]
      exact ih (s.leaveUp p r)

/-- Sending a parcel touches no berth. -/
theorem State.sendUp_modBerth (s : State) (b : BerthId) (f : Berth → Berth) (p : UpParcel) :
    (s.modBerth b f).sendUp p = (s.sendUp p).modBerth b f := by
  unfold State.sendUp
  exact State.drainUp_modBerth b f _ { s with
    nar := { s.nar with up := s.nar.up ++ [p] }
    lnk := { s.lnk with wakeLow := s.lnk.wakeLow || (s.lnk.mode == LinkMode.doze && s.lnk.wakeEn) } }

theorem upBytes_append (ps qs : List UpParcel) : upBytes (ps ++ qs) = upBytes ps + upBytes qs := by simp [upBytes]

theorem upBytes_cons (p : UpParcel) (ps : List UpParcel) : upBytes (p :: ps) = upBytes [p] + upBytes ps :=
  upBytes_append [p] ps

/-- Draining the up path changes narrow mode's and the link's state only; what is staged stays staged, since a parcel that leaves
waits in the replay buffer (R123). -/
theorem State.drainUp_spec (n : Nat) (s : State) : ∃ x y, s.drainUp n = { s with nar := x, lnk := y } ∧ y.pay = s.lnk.pay ∧
    (s.drainUp n).stagedBytes = s.stagedBytes := by
  induction n generalizing s with
  | zero => exact ⟨_, _, rfl, rfl, rfl⟩
  | succ n ih =>
    obtain h | ⟨p, r, hu, h⟩ := s.drainUp_cases n
    · rw [h]
      exact ⟨_, _, rfl, rfl, rfl⟩
    · obtain ⟨x, y, h1, h2, h3⟩ := ih (s.leaveUp p r)
      rw [h]
      refine ⟨x, y, h1, h2, h3.trans ?_⟩
      simp only [State.leaveUp, State.stagedBytes, hu, List.map_append, List.map_cons, List.map_nil, upBytes_append,
        upBytes_cons p r]
      omega

theorem State.sendUp_spec (s : State) (p : UpParcel) : ∃ x y, s.sendUp p = { s with nar := x, lnk := y } ∧
    y.pay = s.lnk.pay ∧ (s.sendUp p).stagedBytes = s.stagedBytes + upBytes [p] := by
  obtain ⟨x, y, h1, h2, h3⟩ := State.drainUp_spec (s.nar.up ++ [p]).length { s with
    nar := { s.nar with up := s.nar.up ++ [p] }
    lnk := { s.lnk with wakeLow := s.lnk.wakeLow || (s.lnk.mode == LinkMode.doze && s.lnk.wakeEn) } }
  refine ⟨x, y, h1, h2, h3.trans ?_⟩
  simp only [State.stagedBytes, upBytes_append]
  omega

@[simp] theorem State.pay_sendUp (s : State) (p : UpParcel) : (s.sendUp p).lnk.pay = s.lnk.pay := by
  obtain ⟨x, y, h, hp, -⟩ := s.sendUp_spec p
  rw [h, hp]

@[simp] theorem State.mapShare_sendUp (s : State) (p : UpParcel) : (s.sendUp p).mapShare = s.mapShare := by
  obtain ⟨x, y, h, -⟩ := s.sendUp_spec p
  rw [h]
  rfl

@[simp] theorem State.workShare_sendUp (s : State) (p : UpParcel) : (s.sendUp p).workShare = s.workShare := by
  obtain ⟨x, y, h, -⟩ := s.sendUp_spec p
  rw [h]
  rfl

/-! ### Delivery -/

/-- An instruction that has no block left to pass pins no segment (R192). -/
theorem State.pinnedSeg_withCur {s : State} {b : BerthId} {c : Cur} (hc : c.len ≤ c.pos) {r g : Nat}
    (h : (s.withCur b c).pinnedSeg r g = true) : s.pinnedSeg r g = true := by
  obtain ⟨x, hx, hp⟩ := List.any_eq_true.1 h
  rw [State.withCur, State.modBerth, State.setBerth, Vector.toList_set] at hx
  rcases List.mem_or_eq_of_mem_set hx with hx | rfl
  · exact List.any_eq_true.2 ⟨x, hx, hp⟩
  · have : ¬c.pos < c.len := by omega
    simp [this] at hp

theorem State.mapShare_withCur_le {s : State} {b : BerthId} {c : Cur} (hc : c.len ≤ c.pos) :
    (s.withCur b c).mapShare ≤ s.mapShare := by
  refine List.sum_le_sum fun r _ => Nat.mul_le_mul_right _ ?_
  refine (List.monotone_filter_right (s.ring r).segs fun g hg => ?_).length_le
  rw [Bool.or_eq_true] at hg ⊢
  exact hg.imp id (State.pinnedSeg_withCur hc)

theorem splitData_isEmpty {n pay : Nat} {d : List Byte} (h : d.length ≤ n) : (splitData n pay d).isEmpty = d.isEmpty := by
  cases n with
  | zero => simp_all [splitData]
  | succ n => cases hd : d.isEmpty <;> simp [splitData, hd]

theorem splitData_nil (n pay : Nat) : splitData n pay [] = [] := by cases n <;> rfl

theorem splitData_succ {d : List Byte} (h : d ≠ []) (n pay : Nat) :
    splitData (n + 1) pay d = d.take pay :: splitData n pay (d.drop pay) := by simp [splitData, h]

/-- A data parcel of berth `b` (R162). -/
def dataUp (b : BerthId) (tag : W16) (d : List Byte) (last : Bool) : UpParcel :=
  { berth := BitVec.ofNat 16 b.val, tag := tag, body := .data d last }

theorem upBytes_dataUp (b : BerthId) (tag : W16) (d : List Byte) (last : Bool) : upBytes [dataUp b tag d last] = d.length := by
  simp [upBytes, dataUp]

/-- A berth with data left sends the next payload, while staging has room. -/
theorem State.pushData_step {s : State} {b : BerthId} {c : Cur} (he : c.acc ≠ []) (hr : (s.withCur b c).stagingRoom = true)
    (n : Nat) : State.pushData (n + 1) b (s.withCur b c) =
      State.pushData n b ((s.sendUp (dataUp b c.ins.tag (c.acc.take s.lnk.pay) (c.acc.drop s.lnk.pay).isEmpty)).withCur b
        { c with acc := c.acc.drop s.lnk.pay }) := by
  rw [State.pushData]
  simp only [State.berth_withCur, hr, if_true]
  rw [if_neg (by simpa using he)]
  congr 1
  exact (congrArg (fun t => State.modCur t b _) (State.sendUp_modBerth s b _ _)).trans (State.modCur_withCur _ _ _ _)

theorem State.pushData_done {s : State} {b : BerthId} {c : Cur} (he : c.acc = []) (n : Nat) :
    State.pushData (n + 1) b (s.withCur b c) = (s.withCur b c).finish b c.ins c.status c.done c.first c.result := by
  simp [State.pushData, he]

theorem State.stagingRoom_withCur {s : State} {b : BerthId} {c : Cur} (hc : c.len ≤ c.pos)
    (hr : s.stagedBytes + s.lnk.pay + s.mapShare ≤ s.workShare) : (s.withCur b c).stagingRoom = true := by
  have h1 := State.mapShare_withCur_le (s := s) (b := b) hc
  have h2 : (s.withCur b c).stagedBytes + (s.withCur b c).lnk.pay + (s.withCur b c).mapShare ≤ (s.withCur b c).workShare := by
    change s.stagedBytes + s.lnk.pay + _ ≤ s.workShare
    omega
  simp [State.stagingRoom, h2]

/-- With room in staging throughout, all the data of a read leave at once, in payloads of the maximum (R156, R162). -/
theorem State.pushData_of_room {b : BerthId} : ∀ (n m : Nat) (s : State) (c : Cur), c.acc.length < n → c.acc.length ≤ m →
    c.len ≤ c.pos → 0 < s.lnk.pay → s.stagedBytes + c.acc.length + s.lnk.pay + s.mapShare ≤ s.workShare →
    State.pushData n b (s.withCur b c) =
      ((State.sendAll b c.ins.tag (splitData m s.lnk.pay c.acc) s).withCur b { c with acc := [] }).finish b c.ins c.status c.done
        c.first c.result
  | 0, _, _, _, h, _, _, _, _ => absurd h (Nat.not_lt_zero _)
  | n + 1, m, s, c, hn, hm, hc, hp, hr => by
    by_cases he : c.acc = []
    · have hcc : { c with acc := [] } = c := by rw [← he]
      rw [State.pushData_done he, he, splitData_nil, hcc, State.sendAll]
    · have hpos := List.length_pos_iff.2 he
      obtain ⟨k, rfl⟩ : ∃ k, m = k + 1 := ⟨m - 1, by omega⟩
      have hl : (c.acc.drop s.lnk.pay).length ≤ k := by
        rw [List.length_drop]
        omega
      rw [State.pushData_step he (State.stagingRoom_withCur hc (by omega)), splitData_succ he, State.sendAll,
        splitData_isEmpty hl]
      change _ = ((State.sendAll b c.ins.tag _ (s.sendUp (dataUp b c.ins.tag _ _))).withCur b _).finish b _ _ _ _ _
      generalize hu : dataUp b c.ins.tag (c.acc.take s.lnk.pay) (c.acc.drop s.lnk.pay).isEmpty = p
      have hst : (s.sendUp p).stagedBytes + (c.acc.drop s.lnk.pay).length ≤ s.stagedBytes + c.acc.length := by
        obtain ⟨x, y, -, -, h⟩ := s.sendUp_spec p
        rw [h, ← hu, upBytes_dataUp, List.length_take, List.length_drop]
        omega
      have hroom : (s.sendUp p).stagedBytes + (c.acc.drop s.lnk.pay).length + (s.sendUp p).lnk.pay + (s.sendUp p).mapShare ≤
          (s.sendUp p).workShare := by
        rw [State.pay_sendUp, State.mapShare_sendUp, State.workShare_sendUp]
        omega
      have ih := State.pushData_of_room (b := b) n k (s.sendUp p) { c with acc := c.acc.drop s.lnk.pay }
        (by rw [List.length_drop]; omega) hl hc (by rwa [State.pay_sendUp]) hroom
      rwa [State.pay_sendUp] at ih

/-- An instruction that ran write-through is counted (R359). -/
def State.countThru (s : State) (st : Status) : State :=
  { s with
    hup := if st = Status.writeThrough then { s.hup with wt := satInc s.hup.wt } else s.hup
    ftl := if st = Status.writeThrough then { s.ftl with health := { s.ftl.health with wt := s.ftl.health.wt + 1 } } else s.ftl }

/-- A berth past its instruction. -/
def Berth.passed (x : Berth) (q : QInstr) (st : Status) (res : Option W64) (pc : Nat) : Berth :=
  { x with
    v := match res with
      | some r => x.v.setIfInBounds (bits q.word 48 4) r
      | none => x.v
    e := !st.good
    lastStat := if setsLastStat q.op then st else x.lastStat
    queue := if x.kind then x.queue else x.queue.drop 1
    pc := if x.kind then BitVec.ofNat 16 pc else x.pcPast q.words
    cur := none
    why := .none }

/-- The first half of an instruction's end: its berth goes on, its data leave. -/
def State.leaves (s : State) (b : BerthId) (q : QInstr) (st : Status) (res : Option W64) (pc : Nat) (took : Bool) : State :=
  ((s.countThru st).modBerth b fun x => x.passed q st res pc).leaveData b q took

/-- The second half: its completion is sent, and the berth stops or comes to rest. -/
def State.concludes (s : State) (b : BerthId) (q : QInstr) (st : Status) (done : Nat) (first : Option Nat) (res : Option W64)
    (pc : Nat) : State :=
  let s := if (s.berth b).sends q.op st then s.sendCompletion b q.tag q.op st done first (res.getD 0) else s
  let x := s.berth b
  if st.stops || (q.op == 0x01 && st == .ok) || (!x.kind && x.stopErr && x.e) then s.stopBerth b st
  else if x.kind && x.poolWords ≤ pc then
    ((s.modBerth b fun x => { x with e := true }).sendCompletion b (BitVec.ofNat 16 pc) 0x00 .badTarget 0 none 0).stopBerth b
      .badTarget
  else if x.stopDue then s.stopHere b
  else s.rest b

theorem State.finishAt_eq (s : State) (b : BerthId) (q : QInstr) (st : Status) (done : Nat) (first : Option Nat)
    (res : Option W64) (pc : Nat) : s.finishAt b q st done first res pc =
      (s.leaves b q st res pc (s.berth b).tookLast).concludes b q st done first res pc := rfl

/-- What an instruction that takes no data parcels had in progress plays no part in its end. -/
theorem State.finish_withCur (s : State) (b : BerthId) (c : Cur) {q : QInstr} (hq : q.takesData = false) (st : Status)
    (done : Nat) (first : Option Nat) (res : Option W64) :
    (s.withCur b c).finish b q st done first res = s.finish b q st done first res := by
  have hpc : ((s.withCur b c).berth b).pc = (s.berth b).pc := by simp
  have hld : ∀ (t : State) (x y : Bool), t.leaveData b q x = t.leaveData b q y := fun t x y => by simp [State.leaveData, hq]
  unfold State.finish
  rw [hpc]
  rw [State.finishAt_eq, State.finishAt_eq]
  congr 1
  refine (hld _ _ (s.berth b).tookLast).trans ?_
  exact congrArg (fun t => State.leaveData t b q _) (State.modBerth_modBerth (s.countThru st) b
    (fun x => { x with cur := some c }) fun x => x.passed q st res ((s.berth b).pc.toNat + q.words))

theorem takesData_read {q : QInstr} (h : q.op = 0x20) : q.takesData = false := by simp [QInstr.takesData, h]

end Sys2Proof.Machine
end

section
/-! PROOFS. READ and VERIFY (O30). -/

namespace Sys2Proof.Machine

theorem State.deliver_of_room {s : State} {b : BerthId} {c : Cur} (hq : c.ins.takesData = false) (hf : c.scratch = none)
    (hc : c.len ≤ c.pos) (hp : 0 < s.lnk.pay) (hr : s.stagedBytes + c.acc.length + s.lnk.pay + s.mapShare ≤ s.workShare) :
    s.deliver b c = (State.sendAll b c.ins.tag (splitData c.acc.length s.lnk.pay c.acc) s).finish b c.ins c.status c.done
      c.first c.result := by
  rw [State.deliver, hf]
  exact (State.pushData_of_room (c.acc.length + 1) c.acc.length s c (Nat.lt_succ_self _) le_rfl hc hp hr).trans
    (State.finish_withCur _ _ _ hq _ _ _ _)

theorem State.acc_sharedReadEnd {s : State} {q : QInstr} {f : Form} {parts : List Part} (hq : q.op = 0x20) :
    (s.sharedReadEnd q f parts).acc = s.runData f.region f.start f.len := by
  simp [State.sharedReadEnd, State.sharedRead, Cur.init, hq]

theorem State.result_sharedReadEnd {s : State} {q : QInstr} {f : Form} {parts : List Part} (hq : q.op = 0x20) :
    (s.sharedReadEnd q f parts).result = some (BitVec.ofNat 64 f.len) := by
  simp [State.sharedReadEnd, hq]

/-- READ sends its blocks up (R162). -/
theorem State.deliver_up {s : State} {b : BerthId} {q : QInstr} {f : Form} {parts : List Part} (hq : q.op = 0x20)
    (hf : f.scratch = none) (hp : 0 < s.lnk.pay)
    (hr : s.stagedBytes + (s.runData f.region f.start f.len).length + s.lnk.pay + s.mapShare ≤ s.workShare) :
    s.deliver b (s.sharedReadEnd q f parts) =
      (State.sendAll b q.tag (splitData (s.runData f.region f.start f.len).length s.lnk.pay (s.runData f.region f.start f.len))
        s).finish b q .ok f.len none (some (BitVec.ofNat 64 f.len)) := by
  rw [← State.acc_sharedReadEnd (parts := parts) hq] at hr ⊢
  rw [← State.result_sharedReadEnd (s := s) (parts := parts) hq]
  exact State.deliver_of_room (takesData_read hq) hf le_rfl hp hr

theorem State.deliver_scratch {s : State} {b : BerthId} {q : QInstr} {f : Form} {parts : List Part} {off : Nat}
    (hq : q.op = 0x20) (hf : f.scratch = some off) :
    s.deliver b (s.sharedReadEnd q f parts) =
      (s.scratchWrite (s.scratchPlace b off (s.runData f.region f.start f.len).length).2
        (s.runData f.region f.start f.len)).finish b q .ok f.len none (some (BitVec.ofNat 64 f.len)) := by
  have hs : (s.sharedReadEnd q f parts).scratch = some off := hf
  rw [State.deliver, hs, State.acc_sharedReadEnd hq, State.result_sharedReadEnd hq]
  rfl

/-! ### READ and VERIFY -/

/-- What READ and VERIFY ask. -/
def State.readAsk (s : State) (b : BerthId) (f : Form) : Ask :=
  { region := f.region, types := [.ring, .general, .compat], write := false, start := f.start, len := f.len, ranged := true
    misfit := (s.berth b).misfit f.scratch (f.len * s.blockSize f.region) }

section
variable {s : State} {b : BerthId} {q : QInstr} {f : Form}

theorem State.readBody_of_refusal (hf : q.form (s.berth b) 1 (q.op == 0x20) = some f) {st : Status}
    (hg : s.gated f.region = false) (he : s.entryOk f.region) (hr : s.refusal (s.readAsk b f) = some st) :
    s.readBody b q = s.refuse b q st := by
  rw [State.readBody, hf]
  exact State.opened_of_refusal hg he hr _

theorem State.readBody_of_empty (hf : q.form (s.berth b) 1 (q.op == 0x20) = some f) (ho : s.opensFor (s.readAsk b f))
    (hl : f.len = 0) : s.readBody b q = s.finish b q .ok 0 none (some 0) := by
  rw [State.readBody, hf]
  exact (State.opened_of_opensFor ho _).trans (if_pos hl)

theorem State.readBody_of_denied (hf : q.form (s.berth b) 1 (q.op == 0x20) = some f) (ho : s.opensFor (s.readAsk b f))
    (hl : 0 < f.len) (hd : (s.partsOf (s.berth b) f.region f.start f.len).all (fun p => !p.ok) = true) :
    s.readBody b q =
      (s.denyParts (deniedCount (s.partsOf (s.berth b) f.region f.start f.len))).refuse b q .denied (some 0) := by
  rw [State.readBody, hf]
  refine (State.opened_of_opensFor ho _).trans ((if_neg (by omega)).trans ?_)
  exact if_pos hd

/-- An access that opens, is allowed whole, and meets no fence, sleeping domain or foreign tag starts to read. -/
theorem State.readBody_of_go (hf : q.form (s.berth b) 1 (q.op == 0x20) = some f) (ho : s.opensFor (s.readAsk b f))
    (hl : 0 < f.len) (ha : s.allowed b f.region f.start f.len)
    (hs : ∀ off, f.scratch = some off → (s.scratchPlace b off (f.len * s.blockSize f.region)).1 = .ok)
    (hp : s.later { region := f.region, write := false, lost := false, media := false, doms := s.dataDoms f.region } = .go)
    (hc : s.readClash f (s.partsOf (s.berth b) f.region f.start f.len) = false) :
    s.readBody b q = s.readStart b q f (s.partsOf (s.berth b) f.region f.start f.len) := by
  rw [State.readBody, hf]
  refine (State.opened_of_opensFor ho _).trans ((if_neg (by omega)).trans ?_)
  have hd := State.not_all_denied ha hl
  simp only [hd, Bool.false_eq_true, if_false]
  rw [State.spanned_of_fits hs, State.onPath_of_go hp (deniedCount_of_all_ok ha), hc, State.tagged_false]

end

/-- Settles O30: each case of READ's and VERIFY's meaning is one of the cases of `readBody`, and the blocks that need no die
are all read in the step that starts the read. -/
theorem readCompletes : Obligations.ReadCompletes := by
  unfold Obligations.ReadCompletes
  intro s b q f hrun hop s' hf r d parts ask ends
  have hk : knownOp q.op = true := by rcases hop with h | h <;> rw [h] <;> decide
  have hturn : ∀ u, s'.readBody b q = u → ends u := by
    rintro u rfl
    have h := turn_of_mayRun hrun hk fun q s => s.readBody b q
    refine ⟨fun h0 => ?_, fun h0 => ?_⟩
    all_goals
      rw [h0] at h
      exact h
  refine ⟨fun st hg he hr => hturn _ (State.readBody_of_refusal hf hg he hr), fun ho hl => hturn _ (State.readBody_of_empty hf ho hl),
    fun ho hl hd => hturn _ (State.readBody_of_denied hf ho hl hd), ?_⟩
  intro ho hl hs ha hm hp hc
  have hlen : d.length = f.len * s'.blockSize r := State.runData_length hm
  have hgo : (∀ off, f.scratch = some off → (s'.scratchPlace b off d.length).1 = .ok) →
      s'.readBody b q = s'.readDone b (s'.sharedRead q f parts) := fun hsc =>
    (State.readBody_of_go hf ho hl ha (hlen ▸ hsc) hp hc).trans (State.readStart_of_inShare hs ha hm)
  refine ⟨fun h24 => (hturn _ ?_).2 h24, fun h20 hsc hpay hroom => (hturn _ ?_).1 h20, fun off h20 hsc hfit => (hturn _ ?_).1 h20⟩
  · have hns : f.scratch = none := (QInstr.form_inv hf).2.2 (by simp [h24])
    rw [hgo (by simp [hns]), State.readDone_verify h24 ha]
  · rw [hgo (by simp [hsc]), State.readDone_read h20 ha hm]
    exact State.deliver_up h20 hsc hpay hroom
  · rw [hgo (by simp [hsc, hfit]), State.readDone_read h20 ha hm]
    exact State.deliver_scratch h20 hsc

end Sys2Proof.Machine
end

section
/-! SUPPORT. The table of map units, and what a piece's bytes read as once they are the newest versions of their units (R23, R24,
R303). -/

namespace Sys2Proof.Machine

/-! ### The table -/

theorem tabGet_tabPut_same {α : Type} (l : List (Nat × α)) (a : Nat) (v : α) : tabGet (tabPut l a (some v)) a = some v := by
  induction l with
  | nil => simp [tabPut, tabGet]
  | cons p r ih =>
    obtain ⟨k, w⟩ := p
    simp only [tabPut]
    split_ifs with h1 h2
    · simp [tabGet]
    · simp [tabGet]
    · simp [tabGet, ih, h1, Ne.symm h2]

theorem tabGet_tabPut_other {α : Type} (l : List (Nat × α)) {a x : Nat} (v : α) (h : x ≠ a) :
    tabGet (tabPut l a (some v)) x = tabGet l x := by
  induction l with
  | nil => simp [tabPut, tabGet, h.symm]
  | cons p r ih =>
    obtain ⟨k, w⟩ := p
    simp only [tabPut]
    split_ifs with h1 h2
    · simp only [tabGet, if_neg h.symm]
      by_cases hx : x < a
      · rw [if_pos hx, if_neg (by omega), if_pos (by omega)]
      · rw [if_neg hx]
    · subst h2
      simp [tabGet, h.symm]
    · simp [tabGet, ih]

/-! ### A new version of a unit -/

theorem insertVersion_ne_nil (v : Version) (vs : List Version) : insertVersion v vs ≠ [] := by simp [insertVersion]

/-- The newest admission stands first. -/
theorem insertVersion_newest {v : Version} {vs : List Version} (h : ∀ x ∈ vs, x.stamp < v.stamp) : insertVersion v vs = v :: vs := by
  have h1 : vs.filter (fun x => v.stamp < x.stamp) = [] := by
    rw [List.filter_eq_nil_iff]
    intro x hx
    have := h x hx
    simp
    omega
  have h2 : vs.filter (fun x => !decide (v.stamp < x.stamp)) = vs := by
    rw [List.filter_eq_self]
    intro x hx
    have := h x hx
    simp
    omega
  rw [insertVersion, h1, h2]
  rfl

theorem State.newVersion_eq (s : State) (k : Nat) (v : Version) : s.newVersion k v = { s with
    store := tabPut s.store k (some { s.unitOf k with fresh := insertVersion v (s.unitOf k).fresh }) } := by
  have h : (insertVersion v (s.unitOf k).fresh).isEmpty = false := by
    rw [List.isEmpty_eq_false_iff]
    exact insertVersion_ne_nil _ _
  simp only [State.newVersion, State.putUnit, h, Bool.and_false, Bool.false_eq_true, if_false]

theorem State.unitOf_newVersion (s : State) (k : Nat) (v : Version) :
    (s.newVersion k v).unitOf k = { s.unitOf k with fresh := insertVersion v (s.unitOf k).fresh } := by
  rw [State.newVersion_eq]
  simp only [State.unitOf, State.unit, tabGet_tabPut_same]
  rfl

theorem State.unitOf_newVersion_other (s : State) {k x : Nat} (v : Version) (h : x ≠ k) :
    (s.newVersion k v).unitOf x = s.unitOf x := by
  rw [State.newVersion_eq]
  simp only [State.unitOf, State.unit, tabGet_tabPut_other _ _ h]

/-- Several units take a version each: only the table of units changes. -/
theorem State.newVersions_eq {l : List (Nat × Nat)} {g : Nat × Nat → Version} (s : State) :
    l.foldl (fun t p => t.newVersion p.1 (g p)) s =
      { s with store := (l.foldl (fun t p => t.newVersion p.1 (g p)) s).store } := by
  induction l generalizing s with
  | nil => rfl
  | cons p r ih =>
    rw [List.foldl_cons, ih (s.newVersion p.1 (g p)), State.newVersion_eq s]

theorem State.unitOf_newVersions_other {l : List (Nat × Nat)} {g : Nat × Nat → Version} {k : Nat} (s : State)
    (h : k ∉ l.map Prod.fst) : (l.foldl (fun t p => t.newVersion p.1 (g p)) s).unitOf k = s.unitOf k := by
  induction l generalizing s with
  | nil => rfl
  | cons p r ih =>
    rw [List.map_cons, List.mem_cons, not_or] at h
    rw [List.foldl_cons, ih _ h.2, State.unitOf_newVersion_other _ _ h.1]

theorem State.unitOf_newVersions {l : List (Nat × Nat)} {g : Nat × Nat → Version} {p : Nat × Nat} (s : State) (hp : p ∈ l)
    (hn : (l.map Prod.fst).Nodup) : (l.foldl (fun t p => t.newVersion p.1 (g p)) s).unitOf p.1 =
      { s.unitOf p.1 with fresh := insertVersion (g p) (s.unitOf p.1).fresh } := by
  induction l generalizing s with
  | nil => cases hp
  | cons x r ih =>
    rw [List.map_cons, List.nodup_cons] at hn
    rw [List.foldl_cons]
    rcases List.mem_cons.1 hp with rfl | hr
    · rw [State.unitOf_newVersions_other _ hn.1, State.unitOf_newVersion]
    · have hne : p.1 ≠ x.1 := fun h => hn.1 (h ▸ List.mem_map_of_mem hr)
      rw [ih _ hr hn.2, State.unitOf_newVersion_other _ _ hne]

/-! ### Bytes -/

theorem getElem?_slice (d : List Byte) (off n i : Nat) :
    (slice d off n)[i]? = if i < n then some ((d[off + i]?).getD 0) else none := by
  unfold slice
  simp only [zeros]
  rw [List.getElem?_append]
  simp only [List.length_take, List.length_drop, List.getElem?_take, List.getElem?_drop, List.getElem?_replicate]
  by_cases hi : i < n
  · by_cases hd : off + i < d.length
    · simp [hi, show i < d.length - off by omega, hd]
    · simp [hi, show ¬ i < d.length - off by omega, List.getElem?_eq_none (show d.length ≤ off + i by omega)]
      omega
  · simp [hi, show ¬ (i < min n (d.length - off)) by omega]
    omega

theorem getElem?_splice {bs d : List Byte} {off : Nat} (h : off + d.length ≤ bs.length) (i : Nat) :
    (splice bs off d)[i]? = if off ≤ i ∧ i < off + d.length then d[i - off]? else bs[i]? := by
  unfold splice
  have hl : (bs.take off).length = off := by
    rw [List.length_take]
    omega
  rw [List.append_assoc, List.getElem?_append, hl, List.getElem?_append]
  by_cases h1 : i < off
  · rw [if_pos h1, if_neg (by omega), List.getElem?_take, if_pos h1]
  · rw [if_neg h1]
    by_cases h2 : i - off < d.length
    · rw [if_pos h2, if_pos (by omega)]
    · rw [if_neg h2, if_neg (by omega), List.getElem?_drop]
      congr 1
      omega

theorem splice_length {bs d : List Byte} {off : Nat} (h : off + d.length ≤ bs.length) : (splice bs off d).length = bs.length := by
  simp only [splice, List.length_append, List.length_take, List.length_drop]
  omega

theorem slice_splice_same {bs d : List Byte} {off : Nat} (h : off + d.length ≤ bs.length) :
    slice (splice bs off d) off d.length = d := by
  refine List.ext_getElem? fun i => ?_
  rw [getElem?_slice, getElem?_splice h]
  by_cases hi : i < d.length
  · simp [hi]
  · simp [hi]

theorem slice_splice_other {bs d : List Byte} {off o n : Nat} (h : off + d.length ≤ bs.length)
    (ho : o + n ≤ off ∨ off + d.length ≤ o) : slice (splice bs off d) o n = slice bs o n := by
  refine List.ext_getElem? fun i => ?_
  rw [getElem?_slice, getElem?_slice, getElem?_splice h]
  by_cases hi : i < n
  · rw [if_pos hi, if_pos hi, if_neg (by omega)]
  · rw [if_neg hi, if_neg hi]

/-- A sector of a merge: of the new data where the cover names it (R303). -/
theorem slice_patch {old new : List Byte} {cover : Byte} {j : Nat} (hj : j < 8) :
    slice (patch old cover new) (512 * j) 512 = slice (if bit cover j then new else old) (512 * j) 512 := by
  have h : ∀ (n : Nat) (f : Nat → List Byte), (∀ i, (f i).length = 512) → ∀ i, i < n →
      slice ((List.range n).flatMap f) (512 * i) 512 = f i := by
    intro n f hf
    induction n with
    | zero => intro i hi; omega
    | succ n ih =>
      have hl : ((List.range n).flatMap f).length = 512 * n := by
        rw [List.length_flatMap, List.map_congr_left (g := fun _ => 512) fun i _ => hf i]
        simp [Nat.mul_comm]
      intro i hi
      rw [List.range_succ, List.flatMap_append]
      refine List.ext_getElem? fun x => ?_
      rw [getElem?_slice, List.getElem?_append, hl]
      by_cases hx : x < 512
      · by_cases hin : i < n
        · have := congrArg (·[x]?) (ih i hin)
          simp only [getElem?_slice, if_pos hx] at this
          rw [if_pos hx, if_pos (by omega), this]
        · obtain rfl : i = n := by omega
          rw [if_pos hx, if_neg (by omega)]
          simp [show 512 * i + x - 512 * i = x by omega, List.getElem?_eq_getElem (show x < (f i).length by rw [hf]; exact hx)]
      · rw [if_neg hx, List.getElem?_eq_none (by rw [hf]; omega)]
  exact h 8 (fun i => slice (if bit cover i then new else old) (512 * i) 512) (fun i => slice_length _ _ _) j hj

end Sys2Proof.Machine
end

section
/-! SUPPORT. What a piece writes of each unit (R303), and what its blocks read once it stands in the write share (R23). -/

namespace Sys2Proof.Machine

/-! ### The sectors of a compat unit -/

/-- The bits of a sum of distinct powers of two. -/
theorem testBit_sum_two_pow {es : List Nat} (h : es.Nodup) {j : Nat} (hj : j ∈ es) :
    Nat.testBit ((es.map fun e => 2 ^ e).sum) j = true := by
  rw [← List.sum_toFinset _ h, ← Nat.mem_bitIndices, ← List.mem_toFinset, Finset.toFinset_bitIndices_sum_two_pow]
  exact List.mem_toFinset.2 hj

/-- Blocks written one after the other into their sectors of a unit. -/
def sectorsOf (blk : Nat) (d : List Byte) (mine : List Nat) (acc : List Byte) : List Byte :=
  mine.foldl (fun acc i => splice acc ((blk + i) % 8 * 512) (slice d (i * 512) 512)) acc

theorem slice_sectorsOf_other {blk j : Nat} {d : List Byte} {mine : List Nat} {acc : List Byte} (h : acc.length = 4096)
    (hj : ∀ i ∈ mine, (blk + i) % 8 ≠ j) : slice (sectorsOf blk d mine acc) (j * 512) 512 = slice acc (j * 512) 512 := by
  induction mine generalizing acc with
  | nil => rfl
  | cons i r ih =>
    have hs : (blk + i) % 8 * 512 + (slice d (i * 512) 512).length ≤ acc.length := by
      rw [slice_length]
      omega
    have hne := hj i (by simp)
    refine (ih (by rw [splice_length hs, h]) fun x hx => hj x (by simp [hx])).trans ?_
    refine slice_splice_other hs ?_
    rw [slice_length]
    omega

theorem slice_sectorsOf {blk i : Nat} {d : List Byte} {mine : List Nat} {acc : List Byte} (h : acc.length = 4096)
    (hi : i ∈ mine) (hn : (mine.map fun i => (blk + i) % 8).Nodup) :
    slice (sectorsOf blk d mine acc) ((blk + i) % 8 * 512) 512 = slice d (i * 512) 512 := by
  induction mine generalizing acc with
  | nil => cases hi
  | cons x r ih =>
    rw [List.map_cons, List.nodup_cons] at hn
    have hs : (blk + x) % 8 * 512 + (slice d (x * 512) 512).length ≤ acc.length := by
      rw [slice_length]
      omega
    have hl : (splice acc ((blk + x) % 8 * 512) (slice d (x * 512) 512)).length = 4096 := by rw [splice_length hs, h]
    by_cases hx : i ∈ r
    · exact ih hl hx hn.2
    · obtain rfl : i = x := by
        rcases List.mem_cons.1 hi with h | h
        · exact h
        · exact absurd h hx
      refine (slice_sectorsOf_other hl fun y hy => ?_).trans ?_
      · exact fun e => hn.1 (e ▸ List.mem_map_of_mem (f := fun i => (blk + i) % 8) hy)
      · have := slice_splice_same hs
        rwa [slice_length] at this

/-! ### Block keys -/

theorem State.blockKey_general {s : State} {r : Nat} (ht : s.rtype r ≠ .compat) (x : Nat) : s.blockKey r x = unitKey r x := by
  simp [State.blockKey, State.unitBlocks, ht]

theorem State.blockKey_compat {s : State} {r : Nat} (ht : s.rtype r = .compat) (hr : r < 64) (x : Nat) :
    s.blockKey r x = unitKey r (x / 8) := by
  simp [State.blockKey, State.unitBlocks, ht, hr]

theorem unitKey_inj {r x y : Nat} (h : unitKey r x = unitKey r y) : x = y := Nat.add_left_cancel h

/-- Blocks of a compat unit fall in distinct sectors. -/
theorem State.nodup_sectors {s : State} {r : Nat} (ht : s.rtype r = .compat) (hr : r < 64) (blk n k : Nat) :
    (((List.range n).filter fun i => s.blockKey r (blk + i) == k).map fun i => (blk + i) % 8).Nodup := by
  refine List.Nodup.map_on ?_ (List.nodup_range.filter _)
  intro x hx y hy he
  simp only [List.mem_filter, beq_iff_eq, State.blockKey_compat ht hr] at hx hy
  have := unitKey_inj (hx.2.trans hy.2.symm)
  omega

/-! ### A piece of a write -/

/-- The piece in progress is the whole of the write, and lies on this controller. -/
structure State.OnePiece (s : State) (c : Cur) : Prop where
  pos : c.pos = 0
  piece : s.pieceLen c = c.len
  here : s.isLocal c.dest c.destStart c.len

namespace State.OnePiece
variable {s : State} {c : Cur} (h : s.OnePiece c)
include h

theorem pieceOffs : s.pieceOffs c = List.range c.len := by
  rw [State.pieceOffs, h.piece, List.filter_eq_self]
  intro i hi
  simpa [h.pos] using h.here i (List.mem_range.1 hi)

theorem pieceKeys : s.pieceKeys c = ((List.range c.len).map fun i => s.blockKey c.dest (c.destStart + i)).dedup := by
  rw [State.pieceKeys, h.pieceOffs, h.pos]
  rfl

theorem mem_pieceKeys {k : Nat} : k ∈ s.pieceKeys c ↔ ∃ i < c.len, s.blockKey c.dest (c.destStart + i) = k := by
  simp [h.pieceKeys, List.mem_dedup]

/-- The offsets of the piece that lie in a unit. -/
theorem unitPart_offs (k : Nat) : ((s.pieceOffs c).filter fun i => s.blockKey c.dest (c.destStart + c.pos + i) == k) =
    (List.range c.len).filter fun i => s.blockKey c.dest (c.destStart + i) == k := by
  rw [h.pieceOffs, h.pos]
  rfl

/-- A unit of 4 KiB blocks holds one of them. -/
theorem unitPart_general (ht : s.rtype c.dest ≠ .compat) (d : List Byte) {i : Nat} (hi : i < c.len) :
    s.unitPart c d (s.blockKey c.dest (c.destStart + i)) = (wholeUnit, slice d (i * 4096) 4096) := by
  have hb : s.blockSize c.dest = 4096 := by simp [State.blockSize, ht]
  have hm : ((List.range c.len).filter fun x => s.blockKey c.dest (c.destStart + x) ==
      s.blockKey c.dest (c.destStart + i)) = [i] := by
    have : (fun x => s.blockKey c.dest (c.destStart + x) == s.blockKey c.dest (c.destStart + i)) = fun x => x == i := by
      funext x
      rw [State.blockKey_general ht, State.blockKey_general ht, Bool.eq_iff_iff, beq_iff_eq, beq_iff_eq]
      exact ⟨fun e => by have := unitKey_inj e; omega, fun e => by rw [e]⟩
    rw [this, List.filter_beq, List.count_eq_one_of_mem List.nodup_range (List.mem_range.2 hi)]
    rfl
  simp only [State.unitPart, h.unitPart_offs, hm, hb]
  rfl

theorem unitPart_compat (ht : s.rtype c.dest = .compat) (d : List Byte) (k : Nat) :
    s.unitPart c d k =
      (BitVec.ofNat 8 ((((List.range c.len).filter fun i => s.blockKey c.dest (c.destStart + i) == k).map fun i =>
          (c.destStart + i) % 8).map fun e => 2 ^ e).sum,
        sectorsOf c.destStart d ((List.range c.len).filter fun i => s.blockKey c.dest (c.destStart + i) == k) (zeros 4096)) := by
  have hb : s.blockSize c.dest = 512 := by simp [State.blockSize, ht]
  simp only [State.unitPart, hb, h.pieceOffs, h.pos, Nat.add_zero, List.map_map, if_true]
  rfl

/-- The sector of a block in the content that the piece gives its unit. -/
theorem slice_over_compat (ht : s.rtype c.dest = .compat) (hr : c.dest < 64) (d : List Byte) {i : Nat} (hi : i < c.len)
    {v : Version} (old : Option (List Byte))
    (hc : v.cover = (s.unitPart c d (s.blockKey c.dest (c.destStart + i))).1)
    (hd : v.data = some (s.unitPart c d (s.blockKey c.dest (c.destStart + i))).2) :
    slice ((v.over old).getD (zeros 4096)) ((c.destStart + i) % 8 * 512) 512 = slice d (i * 512) 512 := by
  have hm : i ∈ (List.range c.len).filter fun x => s.blockKey c.dest (c.destStart + x) ==
      s.blockKey c.dest (c.destStart + i) := by simp [hi]
  have hn := State.nodup_sectors ht hr c.destStart c.len (s.blockKey c.dest (c.destStart + i))
  have hs := slice_sectorsOf (acc := zeros 4096) (d := d) (zeros_length 4096) hm hn
  have hbit : bit v.cover ((c.destStart + i) % 8) = true := by
    rw [hc, h.unitPart_compat ht, bit, BitVec.getLsbD_ofNat,
      testBit_sum_two_pow hn (List.mem_map_of_mem (f := fun x => (c.destStart + x) % 8) hm)]
    simp
    omega
  rw [Version.over, hd, h.unitPart_compat ht]
  simp only [Option.getD_some]
  split_ifs
  · exact hs
  · rw [Nat.mul_comm, slice_patch (by omega), if_pos hbit, Nat.mul_comm]
    exact hs

end State.OnePiece

end Sys2Proof.Machine
end

section
/-! SUPPORT. A piece enters the write share (steps 5 to 7 of Table ARCH-2). -/

namespace Sys2Proof.Machine

/-- The version that a piece gives a unit (R23, R303). -/
def State.pieceVersion (s : State) (c : Cur) (d : List Byte) (p : Nat × Nat) : Version :=
  { stamp := c.stamp, cover := (s.unitPart c d p.1).1, data := some (s.unitPart c d p.1).2, place := c.places[p.2]?, seq := c.aseq
    thru := c.writeThrough, lost := false, tag := BitVec.ofNat 4 (s.partColour c) }

theorem State.storePiece_eq (s : State) (c : Cur) (d : List Byte) : s.storePiece c d =
    (s.pieceKeys c, (s.pieceKeys c).zipIdx.foldl (fun t p => t.newVersion p.1 (s.pieceVersion c d p)) s) := rfl

theorem State.storePiece_frame (s : State) (c : Cur) (d : List Byte) :
    (s.storePiece c d).2 = { s with store := (s.storePiece c d).2.store } := State.newVersions_eq s

namespace State.OnePiece
variable {s : State} {c : Cur} (h : s.OnePiece c)
include h

/-- Units outside the piece stay. -/
theorem unitOf_storePiece_other (d : List Byte) {k : Nat} (hk : ∀ i, i < c.len → s.blockKey c.dest (c.destStart + i) ≠ k) :
    (s.storePiece c d).2.unitOf k = s.unitOf k := by
  refine State.unitOf_newVersions_other s ?_
  rw [List.zipIdx_map_fst, h.mem_pieceKeys]
  rintro ⟨i, hi, he⟩
  exact hk i hi he

/-- A unit of the piece holds the piece's version above what it held. -/
theorem fresh_storePiece (d : List Byte) {i : Nat} (hi : i < c.len)
    (hn : ∀ v ∈ (s.unitOf (s.blockKey c.dest (c.destStart + i))).fresh, v.stamp < c.stamp) :
    ∃ j, (s.storePiece c d).2.unitOf (s.blockKey c.dest (c.destStart + i)) =
      { s.unitOf (s.blockKey c.dest (c.destStart + i)) with
        fresh := s.pieceVersion c d (s.blockKey c.dest (c.destStart + i), j) ::
          (s.unitOf (s.blockKey c.dest (c.destStart + i))).fresh } := by
  obtain ⟨j, hj⟩ := List.mem_iff_getElem?.1 (h.mem_pieceKeys.2 ⟨i, hi, rfl⟩)
  have hm : (s.blockKey c.dest (c.destStart + i), j) ∈ (s.pieceKeys c).zipIdx := List.mk_mem_zipIdx_iff_getElem?.2 hj
  have hd : ((s.pieceKeys c).zipIdx.map Prod.fst).Nodup := by
    rw [List.zipIdx_map_fst]
    exact List.nodup_dedup _
  refine ⟨j, ?_⟩
  rw [State.storePiece_eq]
  refine (State.unitOf_newVersions s hm hd).trans ?_
  rw [insertVersion_newest hn]

/-- Every block of the piece reads its new data (R23). -/
theorem blockData_storePiece (hr : c.dest < 64) (d : List Byte) {i : Nat} (hi : i < c.len)
    (hn : ∀ v ∈ (s.unitOf (s.blockKey c.dest (c.destStart + i))).fresh, v.stamp < c.stamp) :
    (s.storePiece c d).2.blockData c.dest (c.destStart + i) = slice d (i * s.blockSize c.dest) (s.blockSize c.dest) := by
  obtain ⟨j, hj⟩ := h.fresh_storePiece d hi hn
  have hc : (s.storePiece c d).2.unitData (s.blockKey c.dest (c.destStart + i)) =
      ((s.pieceVersion c d (s.blockKey c.dest (c.destStart + i), j)).over
        (s.unitOf (s.blockKey c.dest (c.destStart + i))).content).getD (zeros 4096) := by
    rw [State.unitData, hj]
    rfl
  have hb : (s.storePiece c d).2.blockData c.dest (c.destStart + i) =
      if s.rtype c.dest = .compat then slice ((s.storePiece c d).2.unitData (s.blockKey c.dest (c.destStart + i)))
        ((c.destStart + i) % 8 * 512) 512
      else (s.storePiece c d).2.unitData (s.blockKey c.dest (c.destStart + i)) := by
    rw [State.storePiece_frame s c d]
    rfl
  rw [hb, hc]
  by_cases ht : s.rtype c.dest = .compat
  · rw [if_pos ht, h.slice_over_compat ht hr d hi _ rfl rfl]
    simp [State.blockSize, ht]
  · rw [if_neg ht]
    simp [Version.over, State.pieceVersion, h.unitPart_general ht d hi, State.blockSize, ht]

end State.OnePiece

end Sys2Proof.Machine
end

section
/-! SUPPORT. The admission of a piece: the ledger's debit (R357), its place in the order (R24) and its pages (R325). -/

namespace Sys2Proof.Machine

/-! ### The ledger -/

/-- A cost that is covered is debited in full (R356, R357). -/
theorem Hup.d_withDebit {h : Hup} {cost : Nat} (ha : h.answerItem cost = .admitted) (hc : 0 < cost) :
    (h.withDebit (h.d + cost)).d = h.d + cost := by
  have hcov : h.covers cost = true := by
    unfold Hup.answerItem at ha
    split_ifs at ha with h1 h2
    exact (Bool.and_eq_true _ _ ▸ h2).2
  simp only [Hup.covers, Bool.and_eq_true, decide_eq_true_eq] at hcov
  have hle := hcov.2
  unfold Hup.usable at hle
  split_ifs at hle with hp
  · have hlt := h.eu.val.isLt
    have hok : h.debit.ok = true := (Bool.and_eq_true _ _ ▸ hp).2
    simp only [Hup.withDebit, hok, if_true, Hup.d, Pair.val_mk, BitVec.toNat_ofNat] at *
    omega
  · omega

theorem dataCost_pos {n : Nat} (h : 0 < n) : 0 < dataCost n := by
  unfold dataCost
  omega

/-! ### Pages -/

/-- Giving out places of a row moves the rows; nothing else. -/
theorem State.placesIn_frame (s : State) (set : Nat) (c : RowClass) (l : Loc) (code : Code) (n : Nat) :
    (s.placesIn set c l code n).2 =
      { s with ftl := (s.placesIn set c l code n).2.ftl, freeCtr := (s.placesIn set c l code n).2.freeCtr } := by
  unfold State.placesIn
  cases s.rowFor set c code n <;> rfl

/-- Giving out pages draws a free value as well. -/
theorem State.givePlaces_frame {s t : State} {c : RowClass} {l : Loc} {code : Code} {n : Nat} {be : Bool} {ps : List Place}
    (h : s.givePlaces c l code n be = some (ps, t)) : t = { s with ftl := t.ftl, freeCtr := t.freeCtr } := by
  unfold State.givePlaces at h
  extract_lets sets at h
  split_ifs at h
  obtain rfl : _ = t := congrArg Prod.snd (Option.some.inj h)
  exact State.placesIn_frame { s with freeCtr := s.freeCtr + 1 } _ c l code n

theorem State.piecePlaces_getD_frame (s : State) (b : BerthId) (c : Cur) : ((s.piecePlaces b c).getD ([], s)).2 =
    { s with ftl := ((s.piecePlaces b c).getD ([], s)).2.ftl, freeCtr := ((s.piecePlaces b c).getD ([], s)).2.freeCtr } := by
  unfold State.piecePlaces
  extract_lets ks l
  split_ifs
  · rfl
  · cases h : s.givePlaces l.cls l (s.codeOf c.dest) ks.length (s.berth b).resv.isNone with
    | none => rfl
    | some p => exact State.givePlaces_frame h

/-! ### Admission -/

/-- A piece that has been admitted covered: its number, its place in the order and its pages (R24, R325). -/
def Cur.granted (c : Cur) (n : Nat) (a : W64) (ps : List Place) : Cur :=
  { c with admitted := true, writeThrough := false, stamp := n, aseq := a, places := ps }

theorem State.takePiece_withCur (s : State) (b : BerthId) (c : Cur) : ∃ f k a ps,
    (s.withCur b c).takePiece b c false = ({ s with ftl := f, freeCtr := k }).withCur b (c.granted s.ftl.stamp a ps) := by
  obtain ⟨p, hp⟩ : ∃ p, (((s.withCur b c).nextStamp.2).piecePlaces b c).getD ([], (s.withCur b c).nextStamp.2) = p := ⟨_, rfl⟩
  have ht : p.2 = { (s.withCur b c).nextStamp.2 with ftl := p.2.ftl, freeCtr := p.2.freeCtr } :=
    hp ▸ State.piecePlaces_getD_frame _ b c
  refine ⟨p.2.ftl, p.2.freeCtr, p.2.ftl.jSeq, p.1, ?_⟩
  have hm : (s.withCur b c).takePiece b c false =
      p.2.modCur b fun c => c.granted s.ftl.stamp p.2.ftl.jSeq p.1 := hp ▸ rfl
  rw [hm, ht]
  exact State.modCur_withCur { s with ftl := p.2.ftl, freeCtr := p.2.freeCtr } b c _

/-- The ledger with an item more (R357). -/
def Hup.take (h : Hup) (k : ItemKind) (cost : Nat) : Hup := (h.withDebit (h.d + cost)).addItem k

theorem Hup.d_take {h : Hup} {cost : Nat} (ha : h.answerItem cost = .admitted) (hc : 0 < cost) (k : ItemKind) :
    (h.take k cost).d = h.d + cost := by
  cases k <;> exact Hup.d_withDebit ha hc

/-- A covered piece is admitted: the ledger holds its cost (R357). -/
theorem State.admitPiece_withCur {s : State} {b : BerthId} {c : Cur} (hw : c.writeThrough = false)
    (ha : s.hup.answerItem (dataCost (s.pieceBytes c)) = .admitted) : ∃ f k a ps, (s.withCur b c).admitPiece b c =
      (true, ({ s with hup := s.hup.take (.data (kibOf (s.pieceBytes c))) (dataCost (s.pieceBytes c)), ftl := f
                       freeCtr := k }).withCur b (c.granted s.ftl.stamp a ps)) := by
  have hans : (s.withCur b c).hup.answerItem (dataCost ((s.withCur b c).pieceBytes c)) = .admitted := ha
  obtain ⟨f, k, a, ps, ht⟩ := State.takePiece_withCur { s with
    hup := s.hup.take (.data (kibOf (s.pieceBytes c))) (dataCost (s.pieceBytes c)) } b c
  refine ⟨f, k, a, ps, ?_⟩
  simp only [State.admitPiece, hw, hans, Bool.false_eq_true, if_false]
  exact Prod.ext rfl ht

/-! ### Room -/

theorem State.givePlaces_isSome (s : State) (c : RowClass) (l : Loc) (code : Code) (n : Nat) (be : Bool) :
    (s.givePlaces c l code n be).isSome = !(s.setsFor c code n be).isEmpty := by
  unfold State.givePlaces
  cases h : (s.setsFor c code n be).isEmpty <;> simp [h]

/-- A piece whose pages are there waits for no room (R266, R311). -/
theorem State.needsRoom_withCur {s : State} {b : BerthId} {c : Cur} (h : s.OnePiece c)
    (hp : s.pagesFor b c.dest c.destStart c.len) (hs : c.ins.op = 0x22 → s.shareRoom c.region = true) (c' : Cur) :
    (s.withCur b c').needsRoom b c = false := by
  have hr : ((s.withCur b c').piecePlaces b c).isSome = true := by
    unfold State.piecePlaces
    extract_lets ks l
    split_ifs
    · rfl
    · rw [State.givePlaces_isSome, State.berth_withCur]
      rw [State.pagesFor, State.givePlaces_isSome, ← h.pieceKeys] at hp
      exact hp
  have hsh : (c.ins.op == 0x22 && !(s.withCur b c').shareRoom c.region) = false := by
    by_cases h22 : c.ins.op = 0x22
    · have : (s.withCur b c').shareRoom c.region = true := hs h22
      simp [this]
    · rw [beq_eq_false_iff_ne.2 h22, Bool.false_and]
  rw [State.needsRoom, hsh, Bool.false_or, Option.isNone_eq_false_iff]
  exact hr

end Sys2Proof.Machine
end

section
/-! SUPPORT. The data of a piece: from scratch or a COPY's source, or from the parcels that have come for it (R155, R156, R175). -/

namespace Sys2Proof.Machine

/-- The berth's data parcels are `ch`. -/
def State.withChunks (s : State) (b : BerthId) (ch : List Chunk) : State := s.modBerth b fun x => { x with chunks := ch }

@[simp] theorem State.berth_withChunks (s : State) (b : BerthId) (ch : List Chunk) :
    (s.withChunks b ch).berth b = { s.berth b with chunks := ch } := State.berth_modBerth s b _

theorem State.withChunks_self (s : State) (b : BerthId) : s.withChunks b (s.berth b).chunks = s := by
  have h : s.berths.set b.val { s.berth b with chunks := (s.berth b).chunks } b.isLt = s.berths := Vector.set_getElem_self b.isLt
  simp only [State.withChunks, State.modBerth, State.setBerth, h]

@[simp] theorem State.withChunks_withChunks (s : State) (b : BerthId) (ch ch' : List Chunk) :
    (s.withChunks b ch).withChunks b ch' = s.withChunks b ch' := s.modBerth_modBerth b _ _

/-! ### Parcels in order of arrival -/

/-- The first of a list that satisfies a predicate is taken out. -/
theorem filter_takeFirst {α : Type} {p : α → Bool} {l r : List α} {a : α} (h : l.filter p = a :: r) :
    (l.takeWhile (fun x => !p x) ++ [] ++ (l.dropWhile fun x => !p x).drop 1).filter p = r := by
  induction l with
  | nil => cases h
  | cons x l ih =>
    cases hx : p x with
    | true =>
      rw [List.filter_cons_of_pos hx] at h
      simp [hx, (List.cons.inj h).2]
    | false =>
      rw [List.filter_cons_of_neg (by simp [hx])] at h
      simpa [hx] using ih h

theorem Berth.myChunks_eq (x : Berth) (q : QInstr) : x.myChunks q = x.chunks.filter fun c => x.kind || c.tag == q.tag := by
  unfold Berth.myChunks
  cases x.kind <;> simp

/-- The first parcel of an instruction is taken. -/
theorem Berth.myChunks_dropChunk {x : Berth} {q : QInstr} {k : Chunk} {r : List Chunk} (h : x.myChunks q = k :: r) :
    (x.dropChunk q none).myChunks q = r := by
  rw [Berth.myChunks_eq] at h ⊢
  exact filter_takeFirst h

theorem Berth.myChunks_length_le (x : Berth) (q : QInstr) : (x.myChunks q).length ≤ x.chunks.length := by
  rw [Berth.myChunks_eq]
  exact List.length_filter_le _ _

theorem State.dropChunk_withCur (s : State) (b : BerthId) (c : Cur) (q : QInstr) :
    ((s.withCur b c).modBerth b fun x => x.dropChunk q none) =
      (s.withChunks b ((s.berth b).dropChunk q none).chunks).withCur b c := by
  rw [State.withCur, State.withCur, State.withChunks, State.modBerth_modBerth, State.modBerth_modBerth]
  rfl

/-- A parcel that fits what is still to come, and carries END only at its end, joins the data. -/
theorem State.gather_step {s : State} {b : BerthId} {c : Cur} {k : Chunk} {r : List Chunk} {need : Nat} (n : Nat)
    (hl : c.acc.length < need) (hk : (s.berth b).myChunks c.ins = k :: r) (hb : c.acc.length + k.bytes.length ≤ need)
    (he : k.last = true → c.acc.length + k.bytes.length = need) :
    State.gather (n + 1) b need need (s.withCur b c) =
      State.gather n b need need ((s.withChunks b ((s.berth b).dropChunk c.ins none).chunks).withCur b
        { c with acc := c.acc ++ k.bytes, tookLast := k.last }) := by
  have hk' : ({ s.berth b with cur := some c } : Berth).myChunks c.ins = k :: r := hk
  have hend : (k.last && decide (k.bytes.length < need - c.acc.length)) = false := by
    cases hlast : k.last with
    | true =>
      have := he hlast
      simp
      omega
    | false => rfl
  have hfit : ¬need - c.acc.length < k.bytes.length := by omega
  have htake : k.bytes.take (need - c.acc.length) = k.bytes := List.take_of_length_le (by omega)
  rw [State.gather]
  simp only [State.berth_withCur, hk', if_neg (show ¬need ≤ c.acc.length by omega), hend, hfit, htake, decide_false, Bool.or_false,
    Bool.false_eq_true, if_false, Option.isNone_none, Bool.true_and, State.dropChunk_withCur, State.modCur_withCur]

theorem State.gather_enough {s : State} {b : BerthId} {c : Cur} {need : Nat} (n total : Nat) (hl : need ≤ c.acc.length) :
    State.gather (n + 1) b need total (s.withCur b c) = (.got (c.acc.take need), s.withCur b c) := by
  rw [State.gather]
  simp only [State.berth_withCur, if_pos hl]

/-- With all the data there, the piece takes them (R155). -/
theorem State.gather_all {b : BerthId} {d : List Byte} : ∀ (n : Nat) (s : State) (c : Cur),
    ((s.berth b).myChunks c.ins).length < n → c.acc ++ ((s.berth b).myChunks c.ins).flatMap (·.bytes) = d →
    (∀ k ∈ ((s.berth b).myChunks c.ins).dropLast, k.last = false) →
    ∃ ch t, State.gather n b d.length d.length (s.withCur b c) =
      (.got d, (s.withChunks b ch).withCur b { c with acc := d, tookLast := t })
  | 0, _, _, h, _, _ => absurd h (Nat.not_lt_zero _)
  | n + 1, s, c, hn, hd, hlast => by
    have hlen := congrArg List.length hd
    rw [List.length_append] at hlen
    by_cases hl : d.length ≤ c.acc.length
    · have hacc : c.acc = d := by
        rw [← hd, List.self_eq_append_right, ← List.length_eq_zero_iff]
        omega
      refine ⟨(s.berth b).chunks, c.tookLast, ?_⟩
      rw [State.gather_enough n _ hl, State.withChunks_self, ← hacc, List.take_length]
    · cases hk : (s.berth b).myChunks c.ins with
      | nil =>
        rw [hk] at hlen
        simp at hlen
        omega
      | cons k r =>
        rw [hk] at hd hlast hn hlen
        rw [List.flatMap_cons] at hd hlen
        rw [List.length_append] at hlen
        have he : k.last = true → c.acc.length + k.bytes.length = d.length := by
          intro h
          cases r with
          | nil => simpa using hlen
          | cons k' r => simp [hlast k (by simp)] at h
        have hr : ((s.withChunks b ((s.berth b).dropChunk c.ins none).chunks).berth b).myChunks c.ins = r := by
          rw [State.berth_withChunks]
          exact Berth.myChunks_dropChunk hk
        obtain ⟨u, hu⟩ : ∃ u, s.withChunks b ((s.berth b).dropChunk c.ins none).chunks = u := ⟨_, rfl⟩
        rw [hu] at hr
        obtain ⟨ch, t, ih⟩ := State.gather_all (b := b) (d := d) n u
          { c with acc := c.acc ++ k.bytes, tookLast := k.last }
          (by simpa [hr] using hn) (by simpa [hr] using hd) (by
            simp only [hr]
            exact fun x hx => hlast x (by
              cases r with
              | nil => cases hx
              | cons k' r => exact List.mem_cons_of_mem k hx))
        refine ⟨ch, t, ?_⟩
        rw [State.gather_step n (by omega) hk (by omega) he, hu, ih, ← hu, State.withChunks_withChunks]

/-! ### The data of a piece -/

/-- The bytes of an instruction are all there: they are in its hands, or in the parcels that have come for it. -/
def State.dataIn (s : State) (b : BerthId) (c : Cur) (d : List Byte) : Prop :=
  (c.ownData = true ∧ c.acc = d) ∨
  (c.ownData = false ∧ c.acc = [] ∧ ((s.berth b).myChunks c.ins).flatMap (·.bytes) = d ∧
    ∀ k ∈ ((s.berth b).myChunks c.ins).dropLast, k.last = false)

/-- The one piece of a write has its data at once. -/
theorem State.pieceData_withCur {s : State} {b : BerthId} {c : Cur} {d : List Byte} (h : s.OnePiece c) (hd : s.dataIn b c d)
    (hb : d.length = c.len * s.blockSize c.dest) :
    ∃ ch a t, (s.withCur b c).pieceData b c = (.got d, (s.withChunks b ch).withCur b { c with acc := a, tookLast := t }) := by
  have hneed : (s.withCur b c).pieceBytes c = d.length := by
    rw [hb, ← h.piece]
    rfl
  have htot : (c.len - c.pos) * (s.withCur b c).blockSize c.dest = d.length := by
    rw [hb, h.pos]
    rfl
  unfold State.pieceData
  rw [hneed, htot]
  rcases hd with ⟨ho, ha⟩ | ⟨ho, ha, hm, hl⟩
  · have hs : slice c.acc (c.pos * (s.withCur b c).blockSize c.dest) d.length = d := by
      rw [h.pos, Nat.zero_mul, ha, slice_whole]
    refine ⟨(s.berth b).chunks, c.acc, c.tookLast, ?_⟩
    simp only [ho, if_true, State.withChunks_self, hs]
  · obtain ⟨ch, t, hg⟩ := State.gather_all (b := b) (d := d) (((s.withCur b c).berth b).chunks.length + d.length + 1) s c (by
      have := (s.berth b).myChunks_length_le c.ins
      rw [State.berth_withCur]
      exact Nat.lt_succ_of_le (this.trans (Nat.le_add_right _ _))) (by rw [ha, hm]; rfl) hl
    refine ⟨ch, d, t, ?_⟩
    simp only [ho, Bool.false_eq_true, if_false]
    exact hg

end Sys2Proof.Machine
end

section
/-! SUPPORT. An append unit completes (step 6 of Table ARCH-2, R249). -/

namespace Sys2Proof.Machine

/-- A ring with a unit more at its tail (R249). -/
def Ring.withUnit (x : Ring) (u : RUnit) : Ring :=
  { x with taken := [], units := x.units ++ [u], tail := Pair.mk' (x.tail.val + 64) }

theorem Ring.tailPos_withUnit {x : Ring} {u : RUnit} (h : x.tailPos + 64 < 2 ^ 56) : (x.withUnit u).tailPos = x.tailPos + 64 := by
  unfold Ring.tailPos at *
  simp only [Ring.withUnit, Pair.val_mk, BitVec.toNat_add]
  exact Nat.mod_eq_of_lt h

@[simp] theorem State.setRing_setRing (s : State) (r : Nat) (x y : Ring) : (s.setRing r x).setRing r y = s.setRing r y := by
  simp [State.setRing]

/-- The tail moves over the unit that stands at it, and stops where the next has not come (R249). -/
theorem State.advanceTail_one {s : State} {r : Nat} {x : Ring} {u : RUnit} (n : Nat) (hx : x.tailPos + 64 < 2 ^ 56)
    (hu : u.no = x.tailPos / 64) (hn : ∀ v ∈ x.units, v.no < x.tailPos / 64) :
    State.advanceTail (n + 1) r (s.setRing r { x with taken := [], units := x.units ++ [u] }) = s.setRing r (x.withUnit u) := by
  have hfirst : ((x.units ++ [u]).any fun v => v.no == x.tailPos / 64) = true := by simp [hu]
  have hnext : ((x.units ++ [u]).any fun v => v.no == (x.withUnit u).tailPos / 64) = false := by
    rw [Ring.tailPos_withUnit hx, List.any_eq_false]
    intro v hv
    rcases List.mem_append.1 hv with hv | hv
    · have := hn v hv
      simp
      omega
    · rw [List.mem_singleton.1 hv]
      simp
      omega
  have hstop : State.advanceTail n r (s.setRing r (x.withUnit u)) = s.setRing r (x.withUnit u) := by
    cases n with
    | zero => rfl
    | succ n =>
      rw [State.advanceTail]
      simp only [State.ring_setRing]
      exact if_neg (Bool.not_eq_true _ ▸ hnext)
  rw [State.advanceTail]
  simp only [State.ring_setRing, State.setRing_setRing]
  exact (if_pos hfirst).trans hstop

/-- With no wrap to settle, a unit at the tail completes by joining its ring (step 6 of Table ARCH-2). -/
theorem State.completeUnit_at_tail {s : State} {r : Nat} (ht : (s.ring r).taken = []) (hx : (s.ring r).tailPos + 64 < 2 ^ 56)
    (hn : ∀ v ∈ (s.ring r).units, v.no < (s.ring r).tailPos / 64) :
    ∃ u, s.completeUnit r ((s.ring r).tailPos / 64) = s.elapse.setRing r ((s.ring r).withUnit u) ∧
      u.no = (s.ring r).tailPos / 64 := by
  have hs : ∀ p, s.elapse.settleTaken r p = s.elapse.setRing r { s.ring r with taken := [] } := by
    intro p
    have hr : s.elapse.ring r = s.ring r := rfl
    simp only [State.settleTaken, hr, ht, List.filter_nil, List.filterMap_nil, List.foldl_nil]
  refine ⟨{ no := (s.ring r).tailPos / 64, time := s.elapse.now, qual := s.elapse.tim.qual }, ?_, rfl⟩
  rw [State.completeUnit, hs]
  simp only [State.ring_setRing, State.setRing_setRing]
  exact State.advanceTail_one _ hx rfl hn

end Sys2Proof.Machine
end

section
/-! SUPPORT. A piece lands in the write share (steps 5 to 7 of Table ARCH-2). -/

namespace Sys2Proof.Machine

/-- The program that is booked for a piece. -/
def State.pieceChange (s : State) (b : BerthId) (c : Cur) : Change where
  units := s.pieceKeys c
  stamp := c.stamp
  moves := []
  after := []
  owner := if c.writeThrough then some b else none
  cost := if c.writeThrough then 0 else dataCost (s.pieceBytes c)
  kib := if c.writeThrough then 0 else kibOf (s.pieceBytes c)
  blocks := s.pieceLen c
  commit := false

/-- The piece stands in the write share and its program is booked. -/
def State.booked (s : State) (b : BerthId) (c : Cur) (d : List Byte) : State :=
  { s with store := (s.storePiece c d).2.store }.addDie (.program (s.pieceChange b c))

/-- A write past its one piece. -/
def Cur.landed (c : Cur) (n : Nat) : Cur :=
  { c with
    pos := c.pos + n
    done := c.done + n
    admitted := false
    acc := if c.ownData then c.acc else []
    open_ := if c.writeThrough then c.open_ + 1 else c.open_ }

theorem State.newVersion_modBerth (s : State) (b : BerthId) (f : Berth → Berth) (k : Nat) (v : Version) :
    (s.modBerth b f).newVersion k v = (s.newVersion k v).modBerth b f := by
  rw [State.newVersion_eq, State.newVersion_eq]
  rfl

theorem State.newVersions_modBerth {b : BerthId} {f : Berth → Berth} {l : List (Nat × Nat)} {g : Nat × Nat → Version} (s : State) :
    l.foldl (fun t p => t.newVersion p.1 (g p)) (s.modBerth b f) =
      (l.foldl (fun t p => t.newVersion p.1 (g p)) s).modBerth b f := by
  induction l generalizing s with
  | nil => rfl
  | cons p r ih => rw [List.foldl_cons, List.foldl_cons, State.newVersion_modBerth, ih]

theorem State.storePiece_withCur (s : State) (b : BerthId) (c c' : Cur) (d : List Byte) : (s.withCur b c').storePiece c d =
    (s.pieceKeys c, { s with store := (s.storePiece c d).2.store }.withCur b c') := by
  refine Prod.ext rfl ?_
  refine (State.newVersions_modBerth (g := s.pieceVersion c d) s).trans ?_
  exact congrArg (State.withCur · b c') (State.storePiece_frame s c d)

theorem State.landPiece_eq (s : State) (b : BerthId) (c : Cur) (d : List Byte) : s.landPiece b c d =
    (if c.ins.op = 0x22 ∧ ¬c.writeThrough then
        ((s.storePiece c d).2.addDie (.program (s.pieceChange b c))).completeUnit c.dest ((c.destStart + c.pos) / 64)
      else (s.storePiece c d).2.addDie (.program (s.pieceChange b c))).modCur b fun x => x.landed (s.pieceLen c) := rfl

theorem State.addDie_withCur (s : State) (b : BerthId) (c c' : Cur) (d : List Byte) :
    ((s.withCur b c').storePiece c d).2.addDie (.program ((s.withCur b c').pieceChange b c)) = (s.booked b c d).withCur b c' := by
  rw [State.storePiece_withCur]
  rfl

theorem State.landPiece_withCur {s : State} {b : BerthId} {c c' : Cur} (d : List Byte) :
    (s.withCur b c').landPiece b c d =
      (if c.ins.op = 0x22 ∧ ¬c.writeThrough then
        ((s.booked b c d).withCur b c').completeUnit c.dest ((c.destStart + c.pos) / 64)
       else (s.booked b c d).withCur b c').modCur b fun x => x.landed (s.pieceLen c) := by
  rw [State.landPiece_eq, State.addDie_withCur]
  rfl

/-- The state after a piece: the write share and the die operations hold it; beside them only the time observed and the rings
move. -/
def State.lands (s : State) (c : Cur) (d : List Byte) (v : State) : Prop :=
  ∃ ds n tm k rs, v = { s with
    store := (s.storePiece c d).2.store, dies := ds, nextOp := n, tim := tm, freeCtr := k, rings := rs }

theorem State.lands_booked (s : State) (b : BerthId) (c : Cur) (d : List Byte) : s.lands c d (s.booked b c d) := ⟨_, _, _, _, _, rfl⟩

theorem State.lands_setRing {s v : State} {c : Cur} {d : List Byte} (h : s.lands c d v) (r : Nat) (x : Ring) :
    s.lands c d (v.elapse.setRing r x) := by
  obtain ⟨ds, n, tm, k, rs, rfl⟩ := h
  exact ⟨_, _, _, _, _, rfl⟩

theorem State.landPiece_of_write {s : State} {b : BerthId} {c c' : Cur} (ho : c.ins.op ≠ 0x22)
    (d : List Byte) : ∃ v, (s.withCur b c').landPiece b c d = v.withCur b (c'.landed (s.pieceLen c)) ∧ s.lands c d v := by
  refine ⟨s.booked b c d, ?_, s.lands_booked b c d⟩
  rw [State.landPiece_withCur, if_neg fun h => ho h.1, State.modCur_withCur]

/-- An append unit moves the tail past itself (R249). -/
theorem State.landPiece_of_append {s : State} {b : BerthId} {c c' : Cur} (hw : c.writeThrough = false) (ho : c.ins.op = 0x22)
    (hs : c.destStart + c.pos = (s.ring c.dest).tailPos) (ht : (s.ring c.dest).taken = [])
    (hx : (s.ring c.dest).tailPos + 64 < 2 ^ 56) (hn : ∀ v ∈ (s.ring c.dest).units, v.no < (s.ring c.dest).tailPos / 64)
    (d : List Byte) : ∃ v u, (s.withCur b c').landPiece b c d = v.withCur b (c'.landed (s.pieceLen c)) ∧ s.lands c d v ∧
      v.ring c.dest = (s.ring c.dest).withUnit u ∧ u.no = (s.ring c.dest).tailPos / 64 := by
  have hr : ((s.booked b c d).withCur b c').ring c.dest = s.ring c.dest := rfl
  rw [← hr] at ht hx hn hs
  obtain ⟨u, hc, hu⟩ := State.completeUnit_at_tail ht hx hn
  have hm : ((s.booked b c d).withCur b c').elapse.setRing c.dest ((s.ring c.dest).withUnit u) =
    ((s.booked b c d).elapse.setRing c.dest ((s.ring c.dest).withUnit u)).withCur b c' := rfl
  refine ⟨(s.booked b c d).elapse.setRing c.dest ((s.ring c.dest).withUnit u), u, ?_,
    State.lands_setRing (s.lands_booked b c d) _ _, State.ring_setRing _ _ _, hr ▸ hu⟩
  rw [State.landPiece_withCur, if_pos ⟨ho, by simp [hw]⟩, hs, hc, hr, hm, State.modCur_withCur]

end Sys2Proof.Machine
end

section
/-! SUPPORT. A write of one piece goes from its admission to its end in one turn (Table ARCH-2). -/

namespace Sys2Proof.Machine

/-- An admitted piece with its data there lands (steps 4 to 7 of Table ARCH-2). -/
theorem State.writeStep_land {s : State} {b : BerthId} {c : Cur} {d : List Byte} (n : Nat) (h : s.OnePiece c) (hs : s.single)
    (hl : 0 < c.len) (ha : c.admitted = true) (hn : c.denied = false) (hp : c.ins.op = 0x23 → allowedAt c.parts 0 = true)
    (hw : s.needsSlot c = false) (hd : s.dataIn b c d) (hb : d.length = c.len * s.blockSize c.dest) :
    ∃ ch a t, State.writeStep (n + 1) b (s.withCur b c) =
      State.writeStep n b (((s.withChunks b ch).withCur b { c with acc := a, tookLast := t }).landPiece b c d) := by
  obtain ⟨ch, a, t, hg⟩ := State.pieceData_withCur (b := b) h hd hb
  have hslot : (s.withCur b c).needsSlot c = false := hw
  have hrem : ∀ u x, (State.withCur (s.withChunks b u) b x).pieceRemotes c = [] := fun u x =>
    State.remotes_of_single (s := State.withCur (s.withChunks b u) b x) hs _ _ _
  refine ⟨ch, a, t, ?_⟩
  rw [State.writeStep]
  simp only [State.berth_withCur, ha, hn, hslot, hg, hrem]
  rw [if_neg (by rw [h.pos]; omega), if_neg (by rw [h.pos]; exact fun hx => hx.2 (hp hx.1))]
  simp

/-- A write that has nothing left to do completes (R190, R193). -/
theorem State.writeStep_end {s : State} {b : BerthId} {c : Cur} (n : Nat) (hl : c.len ≤ c.pos) (hs : c.status = .ok)
    (hw : c.writeThrough = false) (hn : c.denied = false) (ho : c.open_ = 0) :
    State.writeStep (n + 1) b (s.withCur b c) = (s.withCur b c).finish b c.ins .ok c.done c.first
      (some (BitVec.ofNat 64 (if c.ins.op = 0x22 then c.start else c.done))) := by
  rw [State.writeStep]
  simp only [State.berth_withCur, if_pos hl, State.writeEnd, hs, hw, hn, ho, Bool.false_eq_true, if_false, if_true]
  split_ifs <;> rfl

/-- The state in which a piece of `n` bytes has been admitted and has taken its data. -/
def State.admittedAs (s : State) (b : BerthId) (n : Nat) (f : Ftl) (k : Nat) (ch : List Chunk) : State :=
  ({ s with hup := s.hup.take (.data (kibOf n)) (dataCost n), ftl := f, freeCtr := k } : State).withChunks b ch

/-- An instruction with its data in hand. -/
def Cur.holding (c : Cur) (a : List Byte) (t : Bool) : Cur := { c with acc := a, tookLast := t }

/-- A write that begins, of one piece, with its data `d` there, that the ledger covers and that has room. -/
structure State.ReadyWrite (s : State) (b : BerthId) (c : Cur) (d : List Byte) : Prop where
  one : s.OnePiece c
  single : s.single
  len : 0 < c.len
  admitted : c.admitted = false
  denied : c.denied = false
  thru : c.writeThrough = false
  done : c.done = 0
  status : c.status = .ok
  open_ : c.open_ = 0
  first : c.first = none
  part : c.ins.op = 0x23 → allowedAt c.parts 0 = true
  room : (s.withCur b c).needsRoom b c = false
  slot : s.needsSlot c = false
  data : s.dataIn b c d
  bytes : d.length = c.len * s.blockSize c.dest
  ledger : s.hup.answerItem (dataCost d.length) = .admitted

namespace State.ReadyWrite
variable {s : State} {b : BerthId} {c : Cur} {d : List Byte} (h : s.ReadyWrite b c d)
include h

theorem pieceBytes : s.pieceBytes c = d.length := by rw [h.bytes, State.pieceBytes, h.one.piece]

/-- The state after the admission of the piece. -/
theorem writeStep_admit (n : Nat) : ∃ f k a ps, State.writeStep (n + 1) b (s.withCur b c) =
    State.writeStep n b (({ s with
      hup := s.hup.take (.data (kibOf d.length)) (dataCost d.length), ftl := f, freeCtr := k } : State).withCur b
        (c.granted s.ftl.stamp a ps)) := by
  obtain ⟨f, k, a, ps, ha⟩ := State.admitPiece_withCur (b := b) h.thru (h.pieceBytes.symm ▸ h.ledger)
  rw [h.pieceBytes] at ha
  refine ⟨f, k, a, ps, ?_⟩
  rw [State.writeStep]
  simp only [State.berth_withCur, h.admitted, h.denied, h.room, ha]
  rw [if_neg (by have := h.len; rw [h.one.pos]; omega), if_neg (by rw [h.one.pos]; exact fun hp => hp.2 (h.part hp.1))]
  simp

/-- A write goes on to the landing of its one piece. -/
theorem writeGo_admitted : ∃ f k ch a ps acc t, (s.withCur b c).writeGo b =
    State.writeStep (4 * c.len + 6) b (((s.admittedAs b d.length f k ch).withCur b
      ((c.granted s.ftl.stamp a ps).holding acc t)).landPiece b (c.granted s.ftl.stamp a ps) d) := by
  have hfuel : c.fuel = 4 * c.len + 6 + 1 + 1 := by rw [Cur.fuel, h.one.pos]; omega
  obtain ⟨f, k, a, ps, h1⟩ := h.writeStep_admit (4 * c.len + 6 + 1)
  have hone : ({ s with
      hup := s.hup.take (.data (kibOf d.length)) (dataCost d.length), ftl := f, freeCtr := k } : State).OnePiece
        (c.granted s.ftl.stamp a ps) := ⟨h.one.pos, h.one.piece, h.one.here⟩
  obtain ⟨ch, acc, t, h2⟩ := State.writeStep_land (b := b) (d := d) (4 * c.len + 6) hone h.single h.len rfl h.denied h.part h.slot
    h.data h.bytes
  refine ⟨f, k, ch, a, ps, acc, t, ?_⟩
  rw [State.writeGo]
  simp only [State.berth_withCur, hfuel, h1, h2]
  rfl

end State.ReadyWrite

/-- A piece has been written: the run reads its bytes, no other unit has changed, the ledger holds its cost, and of the berths
only the writer's parcels have changed. -/
structure State.Wrote (s v : State) (b : BerthId) (c : Cur) (d : List Byte) : Prop where
  blocks : ∀ i, i < c.len → v.blockData c.dest (c.destStart + i) = slice d (i * s.blockSize c.dest) (s.blockSize c.dest)
  others : ∀ k, (∀ i, i < c.len → s.blockKey c.dest (c.destStart + i) ≠ k) → v.unitOf k = s.unitOf k
  debit : v.hup.d = s.hup.d + dataCost d.length
  berth : ∃ ch, v.berth b = { s.berth b with chunks := ch }
  berths : ∀ b', b' ≠ b → v.berth b' = s.berth b'
  pool : v.pool = s.pool
  scratch : v.scratch = s.scratch

theorem State.ReadyWrite.wrote_of_lands {s v : State} {b : BerthId} {c : Cur} {d : List Byte} (h : s.ReadyWrite b c d)
    (hr : c.dest < 64) (hn : s.newest c.dest c.destStart c.len) (hd : 0 < d.length) {f : Ftl} {k : Nat} {ch : List Chunk} {a : W64}
    {ps : List Place} (hv : (s.admittedAs b d.length f k ch).lands (c.granted s.ftl.stamp a ps) d v) : s.Wrote v b c d := by
  have hone : (s.admittedAs b d.length f k ch).OnePiece (c.granted s.ftl.stamp a ps) := ⟨h.one.pos, h.one.piece, h.one.here⟩
  obtain ⟨ds, nx, tm, k', rs, rfl⟩ := hv
  exact {
    blocks := fun i hi => by
      have := hone.blockData_storePiece hr d hi (hn i hi)
      rw [State.storePiece_frame] at this
      exact this
    others := fun x hx => by
      have := hone.unitOf_storePiece_other d (k := x) hx
      rw [State.storePiece_frame] at this
      exact this
    debit := Hup.d_take h.ledger (dataCost_pos hd) _
    berth := ⟨ch, State.berth_withChunks _ b ch⟩
    berths := fun b' hb => State.berth_modBerth_other s (fun x => { x with chunks := ch }) hb
    pool := rfl
    scratch := rfl }

end Sys2Proof.Machine
end

section
/-! SUPPORT. What the end of an instruction that completes with OK leaves alone (R157, R161, R176). -/

namespace Sys2Proof.Machine

/-- A berth that has reported: its status block, its count, its parcels and where it stands have moved on. -/
def Berth.movedTo (x y : Berth) : Prop :=
  y = { x with
    state := y.state, chunks := y.chunks, cseq := y.cseq, kept := y.kept, lastStatus := y.lastStatus, lastOpcode := y.lastOpcode
    lastTag := y.lastTag, lastDone := y.lastDone, lastFirst := y.lastFirst, lastQfree := y.lastQfree, badTag := y.badTag
    badStat := y.badStat }

theorem Berth.movedTo_trans {x y z : Berth} (h : x.movedTo y) (g : y.movedTo z) : x.movedTo z := by
  unfold Berth.movedTo at *
  rw [h] at g
  exact g

/-- A step of an instruction's end: one berth and the path up have moved, and the parcels dropped are counted. -/
def State.movesOn (s t : State) (b : BerthId) : Prop :=
  (∃ n l d y, t = ({ s with nar := n, lnk := l, bth := d } : State).setBerth b y) ∧ (s.berth b).movedTo (t.berth b)

theorem State.setBerth_setBerth (s : State) (b : BerthId) (x y : Berth) : (s.setBerth b x).setBerth b y = s.setBerth b y := by
  simp [State.setBerth]

theorem State.movesOn_trans {s t u : State} {b : BerthId} (h : s.movesOn t b) (g : t.movesOn u b) : s.movesOn u b := by
  obtain ⟨⟨n, l, d, y, rfl⟩, hr⟩ := h
  obtain ⟨⟨n', l', d', y', hu⟩, gr⟩ := g
  refine ⟨⟨n', l', d', y', hu.trans ?_⟩, Berth.movedTo_trans hr gr⟩
  exact State.setBerth_setBerth { s with nar := n', lnk := l', bth := d' } b y y'

theorem State.movesOn_modBerth (s : State) (b : BerthId) {f : Berth → Berth} (h : (s.berth b).movedTo (f (s.berth b))) :
    s.movesOn (s.modBerth b f) b := ⟨⟨_, _, _, _, rfl⟩, by rwa [State.berth_modBerth]⟩

theorem State.movesOn_discard {s t : State} {b : BerthId} (h : s.movesOn t b) (m : Nat) : s.movesOn (t.discard m) b := by
  obtain ⟨⟨n, l, d, y, rfl⟩, hr⟩ := h
  exact ⟨⟨n, l, { d with discard := satNat 32 (d.discard.toNat + m) }, y, rfl⟩, hr⟩

theorem State.movesOn_sendUp {s t : State} {b : BerthId} (h : s.movesOn t b) (p : UpParcel) : s.movesOn (t.sendUp p) b := by
  obtain ⟨⟨n, l, d, y, rfl⟩, hr⟩ := h
  obtain ⟨n', l', hu, -⟩ := State.sendUp_spec (({ s with nar := n, lnk := l, bth := d } : State).setBerth b y) p
  rw [hu]
  exact ⟨⟨n', l', d, y, rfl⟩, hr⟩

theorem State.movesOn_leaveData (s : State) (b : BerthId) (q : QInstr) (took : Bool) : s.movesOn (s.leaveData b q took) b :=
  State.movesOn_discard (s.movesOn_modBerth b (by exact rfl)) _

theorem State.movesOn_dropChunks (s : State) (b : BerthId) (p : Chunk → Bool) : s.movesOn (s.dropChunks b p) b :=
  State.movesOn_discard (s.movesOn_modBerth b (by exact rfl)) _

theorem State.movesOn_sendCompletion (s : State) (b : BerthId) (tag : W16) (op : Byte) (st : Status) (done : Nat)
    (first : Option Nat) (res : W64) : s.movesOn (s.sendCompletion b tag op st done first res) b :=
  State.movesOn_sendUp (State.movesOn_trans (s.movesOn_modBerth b (by exact rfl)) (State.movesOn_modBerth _ b (by exact rfl))) _

theorem State.movesOn_rest (s : State) (b : BerthId) : s.movesOn (s.rest b) b := by
  have h := s.movesOn_modBerth b (f := fun x => { x with state := s.idleState b }) rfl
  unfold State.rest
  extract_lets t
  split_ifs
  · exact State.movesOn_trans h (State.movesOn_dropChunks _ b _)
  · exact h

theorem State.countThru_ok (s : State) : s.countThru .ok = s := by simp [State.countThru]

/-- An instruction that completes with OK, in a berth that goes on, leaves its berth past it; the rest is the report of its end
(R157, R161). -/
theorem State.movesOn_finish {s : State} {b : BerthId} {q : QInstr} (hq : q.op ≠ 1) (hs : (s.berth b).stopDue = false)
    (hk : (s.berth b).kind = true → (s.berth b).pc.toNat + q.words < (s.berth b).poolWords) (done : Nat) (first : Option Nat)
    (res : Option W64) : (s.modBerth b fun x => x.passed q .ok res ((s.berth b).pc.toNat + q.words)).movesOn
      (s.finish b q .ok done first res) b := by
  have hl := State.movesOn_leaveData (s.modBerth b fun x => x.passed q .ok res ((s.berth b).pc.toNat + q.words)) b q
    (s.berth b).tookLast
  rw [State.finish, State.finishAt_eq, State.leaves, State.countThru_ok]
  generalize (s.modBerth b fun x => x.passed q .ok res ((s.berth b).pc.toNat + q.words)).leaveData b q (s.berth b).tookLast = t at *
  have hc : (s.modBerth b fun x => x.passed q .ok res ((s.berth b).pc.toNat + q.words)).movesOn
      (if (t.berth b).sends q.op .ok then t.sendCompletion b q.tag q.op .ok done first (res.getD 0) else t) b := by
    split_ifs
    · exact State.movesOn_trans hl (t.movesOn_sendCompletion b _ _ _ _ _ _)
    · exact hl
  unfold State.concludes
  generalize (if (t.berth b).sends q.op .ok then t.sendCompletion b q.tag q.op .ok done first (res.getD 0) else t) = u at *
  have hu : (u.berth b).e = false ∧ (u.berth b).kind = (s.berth b).kind ∧ (u.berth b).poolWords = (s.berth b).poolWords ∧
      (u.berth b).stopDue = false := by
    have h := hc.2
    rw [State.berth_modBerth] at h
    rw [h]
    exact ⟨rfl, rfl, rfl, hs⟩
  obtain ⟨he, hkd, hpw, hst⟩ := hu
  have hstop : (Status.ok.stops || (q.op == 0x01 && Status.ok == .ok) || (!(u.berth b).kind && (u.berth b).stopErr && (u.berth b).e)) =
      false := by
    rw [beq_eq_false_iff_ne.2 hq, he]
    simp [Status.stops]
  have hfall : ((u.berth b).kind && decide ((u.berth b).poolWords ≤ (s.berth b).pc.toNat + q.words)) = false := by
    rw [hkd, hpw]
    cases hkind : (s.berth b).kind with
    | true => simpa using hk hkind
    | false => rfl
  simp only [hstop, hfall, hst, Bool.false_eq_true, if_false]
  exact State.movesOn_trans hc (u.movesOn_rest b)

end Sys2Proof.Machine
end

section
/-! SUPPORT. A write of one piece has landed when its instruction completes (Table ARCH-2, R190). -/

namespace Sys2Proof.Machine

theorem Berth.reg_dst_passed (x : Berth) (q : QInstr) (st : Status) (r : W64) (pc : Nat) :
    (x.passed q st (some r) pc).reg q.dst = r := by
  have h : bits q.word 48 4 < 16 := Nat.mod_lt _ (by decide)
  simp [Berth.reg, Berth.passed, QInstr.dst, Nat.mod_eq_of_lt h, Vector.getD, h]

theorem State.berth_movesOn_other {s t : State} {b b' : BerthId} (h : s.movesOn t b) (hb : b' ≠ b) : t.berth b' = s.berth b' := by
  obtain ⟨⟨n, l, d, y, rfl⟩, -⟩ := h
  exact State.berth_setBerth_other _ _ hb

/-- What the end of an instruction leaves alone of the write's facts, and what it gives its berth. -/
theorem State.landed_finish {s v : State} {b : BerthId} {c c' : Cur} {q : QInstr} {d : List Byte} (hw : s.Wrote v b c d)
    (hd : d.length = c.len * s.blockSize c.dest) (hg : s.goesOn b q) (hl : setsLastStat q.op = true) (done : Nat)
    (first : Option Nat) (res : Nat) :
    s.landed ((v.withCur b c').finish b q .ok done first (some (BitVec.ofNat 64 res))) b q c.dest c.destStart c.len d res ∧
      ((v.withCur b c').finish b q .ok done first (some (BitVec.ofNat 64 res))).rings = v.rings := by
  obtain ⟨hq, hs, hk⟩ := hg
  obtain ⟨ch, hb⟩ := hw.berth
  have hwb : (v.withCur b c').berth b = { s.berth b with chunks := ch, cur := some c' } := by rw [State.berth_withCur, hb]
  have hm := State.movesOn_finish (s := v.withCur b c') (b := b) (q := q) hq (by rw [hwb]; exact hs)
    (by rw [hwb]; exact fun h => (hk h).1) done first (some (BitVec.ofNat 64 res))
  generalize (v.withCur b c').finish b q .ok done first (some (BitVec.ofNat 64 res)) = u at hm ⊢
  have hber : ∀ b', b' ≠ b → u.berth b' = s.berth b' := fun b' hne =>
    (State.berth_movesOn_other hm hne).trans ((State.berth_modBerth_other _ _ hne).trans
      ((State.berth_modBerth_other v _ hne).trans (hw.berths b' hne)))
  obtain ⟨⟨n, l, t, y, hu⟩, hy⟩ := hm
  rw [State.berth_modBerth] at hy
  have hreg := Berth.reg_dst_passed ((v.withCur b c').berth b) q .ok (BitVec.ofNat 64 res)
    (((v.withCur b c').berth b).pc.toNat + q.words)
  refine ⟨⟨?_, ?_, ?_, ?_, ?_, ?_, ?_, hber, ?_, ?_⟩, ?_⟩
  · intro i hi
    rw [hu, ← hw.blocks i hi]
    rfl
  · intro k hk
    rw [hu, ← hw.others k hk]
    rfl
  · rw [hu, ← hd, ← hw.debit]
    rfl
  · rw [hy]
    simp [Berth.passed, hl]
  · rw [hy]
    rfl
  · rw [hy]
    rfl
  · rw [hy]
    exact hreg
  · rw [hu, ← hw.pool]
    rfl
  · rw [hu, ← hw.scratch]
    rfl
  · rw [hu]
    rfl

theorem State.blockSize_pos (s : State) (r : Nat) : 0 < s.blockSize r := by
  unfold State.blockSize
  split_ifs <;> decide

namespace State.ReadyWrite
variable {s : State} {b : BerthId} {c : Cur} {d : List Byte} (h : s.ReadyWrite b c d)
include h

theorem length_pos : 0 < d.length := by
  rw [h.bytes]
  exact Nat.mul_pos h.len (s.blockSize_pos _)

/-- The write ends once its piece is in. -/
theorem writeStep_landed (n : Nat) (v : State) (stamp : Nat) (a : W64) (ps : List Place) (acc : List Byte) (t : Bool)
    {m : Nat} (hm : m = c.len) : State.writeStep (n + 1) b (v.withCur b (((c.granted stamp a ps).holding acc t).landed m)) =
      (v.withCur b (((c.granted stamp a ps).holding acc t).landed m)).finish b c.ins .ok c.len none
        (some (BitVec.ofNat 64 (if c.ins.op = 0x22 then c.start else c.len))) := by
  have hp : c.pos + m = c.len := by rw [h.one.pos, hm, Nat.zero_add]
  have hd : c.done + m = c.len := by rw [h.done, hm, Nat.zero_add]
  have he := State.writeStep_end (s := v) (b := b) (c := ((c.granted stamp a ps).holding acc t).landed m) n hp.ge h.status rfl h.denied
    h.open_
  have hf : (((c.granted stamp a ps).holding acc t).landed m).first = none := h.first
  have hdone : (((c.granted stamp a ps).holding acc t).landed m).done = c.len := hd
  rw [hf, hdone] at he
  exact he

/-- WRITE and COPY of one piece land (R190, R194). -/
theorem landed_write (ho : c.ins.op ≠ 0x22) (hr : c.dest < 64) (hn : s.newest c.dest c.destStart c.len) (hg : s.goesOn b c.ins)
    (hl : setsLastStat c.ins.op = true) :
    s.landed ((s.withCur b c).writeGo b) b c.ins c.dest c.destStart c.len d c.len := by
  obtain ⟨f, k, ch, a, ps, acc, t, hgo⟩ := h.writeGo_admitted
  obtain ⟨v, hv, hlands⟩ := State.landPiece_of_write (s := s.admittedAs b d.length f k ch) (b := b) (c := c.granted s.ftl.stamp a ps)
    (c' := (c.granted s.ftl.stamp a ps).holding acc t) ho d
  have hp : (s.admittedAs b d.length f k ch).pieceLen (c.granted s.ftl.stamp a ps) = c.len := h.one.piece
  rw [hgo, hv, hp, h.writeStep_landed _ v _ a ps acc t rfl, if_neg ho]
  exact (State.landed_finish (h.wrote_of_lands hr hn h.length_pos hlands) h.bytes hg hl _ _ _).1

/-- APPEND of a unit lands at the tail, which moves past it (R193, R249). -/
theorem landed_append (ho : c.ins.op = 0x22) (hs : c.start = (s.ring c.region).tailPos) (ht : (s.ring c.region).taken = [])
    (hx : (s.ring c.region).tailPos + 64 < 2 ^ 56) (hu : ∀ v ∈ (s.ring c.region).units, v.no < (s.ring c.region).tailPos / 64)
    (hr : c.region < 64) (hn : s.newest c.region c.start c.len) (hg : s.goesOn b c.ins) :
    s.landed ((s.withCur b c).writeGo b) b c.ins c.region c.start c.len d c.start ∧
      (((s.withCur b c).writeGo b).ring c.region).tailPos = (s.ring c.region).tailPos + 64 ∧
      ((((s.withCur b c).writeGo b).ring c.region).units.getLast?.map (·.no)) = some ((s.ring c.region).tailPos / 64) := by
  have hdest : c.dest = c.region := by simp [Cur.dest, ho]
  have hst : c.destStart = c.start := by simp [Cur.destStart, ho]
  obtain ⟨f, k, ch, a, ps, acc, t, hgo⟩ := h.writeGo_admitted
  have hp : (s.admittedAs b d.length f k ch).pieceLen (c.granted s.ftl.stamp a ps) = c.len := h.one.piece
  have hd : (c.granted s.ftl.stamp a ps).dest = c.region := hdest
  have hrg : (s.admittedAs b d.length f k ch).ring c.region = s.ring c.region := rfl
  have hat : (c.granted s.ftl.stamp a ps).destStart + (c.granted s.ftl.stamp a ps).pos = (s.ring c.region).tailPos := by
    change c.destStart + c.pos = _
    rw [hst, h.one.pos, hs, Nat.add_zero]
  obtain ⟨v, w, hv, hlands, hring, hno⟩ := State.landPiece_of_append (s := s.admittedAs b d.length f k ch) (b := b)
    (c := c.granted s.ftl.stamp a ps) (c' := (c.granted s.ftl.stamp a ps).holding acc t) rfl ho (by rw [hd, hrg, hat])
    (by rw [hd, hrg, ht]) (by rwa [hd, hrg]) (by rwa [hd, hrg]) d
  rw [hd, hrg] at hring hno
  rw [hgo, hv, hp, h.writeStep_landed _ v _ a ps acc t rfl, if_pos ho]
  have hwrote := h.wrote_of_lands (hdest ▸ hr) (by rw [hdest, hst]; exact hn) h.length_pos hlands
  obtain ⟨hland, hrings⟩ := State.landed_finish hwrote (c' := ((c.granted s.ftl.stamp a ps).holding acc t).landed c.len) h.bytes hg
    (by rw [ho]; decide) c.len none c.start
  rw [hdest, hst] at hland
  refine ⟨hland, ?_⟩
  generalize State.finish _ b c.ins .ok c.len none _ = u at *
  have hur : u.ring c.region = (s.ring c.region).withUnit w := by
    rw [← hring, State.ring, hrings]
    rfl
  rw [hur, Ring.tailPos_withUnit hx]
  exact ⟨rfl, by simp [Ring.withUnit, hno]⟩

end State.ReadyWrite

end Sys2Proof.Machine
end

section
/-! PROOFS. WRITE, APPEND and COPY (O31). -/

namespace Sys2Proof.Machine

/-! ### The body of WRITE and APPEND -/

/-- What WRITE and APPEND ask. -/
def State.writeAsk (s : State) (b : BerthId) (f : Form) (append : Bool) : Ask :=
  { region := f.region, types := if append then [.ring] else [.general, .compat], write := true, start := f.start
    len := f.len, ranged := true, append := append
    misfit := (s.berth b).misfit f.scratch (f.len * s.blockSize f.region) }

/-- A write that begins, with the bytes that it has in hand. -/
def writeCur (q : QInstr) (f : Form) (start : Nat) (acc : List Byte) : Cur :=
  { Cur.init q .data with region := f.region, start := start, len := f.len, acc := acc, scratch := f.scratch }

/-- The bytes that a write has in hand at its beginning: those of its scratch. -/
def Form.inHand (f : Form) (d : List Byte) : List Byte := if f.scratch.isSome then d else []

/-- A condition that matters to APPEND alone. -/
theorem and_isAppend_eq_false {q : QInstr} {p : Bool} (h : q.op = 0x22 → p = false) : (q.op == 0x22 && p) = false := by
  by_cases ho : q.op = 0x22
  · rw [h ho, Bool.and_false]
  · rw [beq_eq_false_iff_ne.2 ho, Bool.false_and]

section
variable {s : State} {b : BerthId} {q : QInstr} {f : Form}

theorem State.writeBody_of_refusal (hf : q.form (s.berth b) 1 true = some f) (h64 : q.op = 0x22 → f.len % 64 = 0) {st : Status}
    (hg : s.gated f.region = false) (he : s.entryOk f.region) (hr : s.refusal (s.writeAsk b f (q.op == 0x22)) = some st) :
    s.writeBody b q = s.refuse b q st := by
  have hm : (q.op == 0x22 && f.len % 64 != 0) = false := and_isAppend_eq_false fun ho => by simp [h64 ho]
  rw [State.writeBody, hf]
  simp only [hm, Bool.false_eq_true, if_false]
  exact State.opened_of_refusal hg he hr _

theorem State.touchesLost_of_single (h : s.single) (r start len : Nat) : s.touchesLost r start len = false := by
  simp [State.touchesLost, h.2.1]

/-- The data that a write names are those that it begins with. -/
theorem State.writeBegin_of_dataFor {d : List Byte} (hd : s.dataFor b q f.scratch d) (hl : d.length = f.len * s.blockSize f.region)
    (start : Nat) : s.writeBegin b q f start = (s.withCur b (writeCur q f start (f.inHand d))).writeGo b := by
  unfold State.writeBegin State.scratchData
  rw [← hl]
  cases hs : f.scratch with
  | none => simp only [writeCur, Form.inHand, hs]; rfl
  | some off =>
    rw [hs] at hd
    obtain ⟨-, hr⟩ := hd
    simp only [hr, writeCur, Form.inHand, hs]
    rfl

/-- A write that opens, is allowed, and meets no fence, lost member, sleeping domain or foreign tag begins. -/
theorem State.writeBody_of_go (hf : q.form (s.berth b) 1 true = some f) {d : List Byte} (hl : 0 < f.len)
    (hdl : d.length = f.len * s.blockSize f.region) (hs : s.single) (hd : s.dataFor b q f.scratch d)
    (hc : (s.berth b).has (s.region f.region).colour = true) (ho : s.opensFor (s.writeAsk b f (q.op == 0x22))) {start : Nat}
    (hst : start = if q.op == 0x22 then s.appendPos f.region else f.start)
    (happ : q.op = 0x22 → f.len % 64 = 0 ∧ s.appendWaits f.region = false ∧ s.tailLeaving f.region = false)
    (hp : s.later { region := f.region, write := true, lost := false, media := !(q.op == 0x22), doms := s.dataDoms f.region } = .go)
    (hw : s.writeClash f.region start f.len = false) :
    s.writeBody b q = (s.withCur b (writeCur q f start (f.inHand d))).writeGo b := by
  have h1 : (q.op == 0x22 && f.len % 64 != 0) = false := and_isAppend_eq_false fun ho => by simp [(happ ho).1]
  have h2 : (q.op == 0x22 && s.appendWaits f.region) = false := and_isAppend_eq_false fun ho => (happ ho).2.1
  have h3 : (q.op == 0x22 && s.tailLeaving f.region) = false := and_isAppend_eq_false fun ho => (happ ho).2.2
  have hlost : ∀ x, (if q.op == 0x22 then bit (s.region f.region).cfg.val 16 && s.quy.lost != 0
      else s.touchesLost f.region x f.len) = false := by
    intro x
    rw [State.touchesLost_of_single hs, hs.2.1]
    simp
  have hfit : ∀ off, f.scratch = some off → (s.scratchPlace b off (f.len * s.blockSize f.region)).1 = .ok := by
    intro off hoff
    rw [hoff] at hd
    exact hdl ▸ hd.1
  rw [State.writeBody, hf]
  simp only [h1, Bool.false_eq_true, if_false]
  refine (State.opened_of_opensFor ho _).trans ?_
  subst hst
  simp only [hc, h2, h3, Bool.false_eq_true, Bool.not_true, if_false]
  rw [if_neg (by omega), State.spanned_of_fits hfit, hlost, State.onPath_of_go hp rfl, hw, State.tagged_false]
  exact State.writeBegin_of_dataFor hd hdl _

/-! ### The piece of a write -/

/-- An instruction of no more than 1 MiB is one piece (Table HUP-4). -/
theorem State.pieceLen_whole {c : Cur} (hp : c.pos = 0) (h64 : c.ins.op = 0x22 → c.len = 64)
    (hm : c.ins.op ≠ 0x22 → c.len * s.blockSize c.dest ≤ 1048576)
    (hparts : c.parts = [] ∨ ∃ p, c.parts = [p] ∧ p.off = 0 ∧ p.len = c.len ∧ 0 < c.len) : s.pieceLen c = c.len := by
  unfold State.pieceLen
  by_cases ho : c.ins.op = 0x22
  · simp only [ho, if_true, h64 ho]
  · have hmib : c.len ≤ 1048576 / s.blockSize c.dest := (Nat.le_div_iff_mul_le (s.blockSize_pos _)).2 (hm ho)
    simp only [ho, if_false, if_pos hmib, hp]
    rcases hparts with hn | ⟨p, hps, hoff, hlen, hpos⟩
    · simp [hn]
    · simp [hps, hoff, hlen, hpos]

theorem dataIn_writeCur {d : List Byte} (hd : s.dataFor b q f.scratch d) (hop : q.op ≠ 0x23) (start : Nat) :
    s.dataIn b (writeCur q f start (f.inHand d)) d := by
  cases hs : f.scratch with
  | none =>
    rw [hs] at hd
    refine .inr ⟨?_, ?_, hd.1, hd.2.2⟩
    · simp only [Cur.ownData, writeCur, hs, Option.isSome_none, Bool.false_or]
      exact beq_eq_false_iff_ne.2 hop
    · simp [writeCur, Form.inHand, hs]
  | some off => exact .inl ⟨by simp [Cur.ownData, writeCur, hs], by simp [writeCur, Form.inHand, hs]⟩

theorem dest_writeCur (hop : q.op ≠ 0x23) (start : Nat) (acc : List Byte) : (writeCur q f start acc).dest = f.region := if_neg hop

theorem destStart_writeCur (hop : q.op ≠ 0x23) (start : Nat) (acc : List Byte) : (writeCur q f start acc).destStart = start :=
  if_neg hop

/-- A write of one piece that is there, is covered and has room is ready to go. -/
theorem State.readyWrite_writeCur {d : List Byte} {start : Nat} (hop : q.op ≠ 0x23) (hs : s.single) (hl : 0 < f.len)
    (hd : s.dataFor b q f.scratch d) (hdl : d.length = f.len * s.blockSize f.region)
    (ha : s.hup.answerItem (dataCost d.length) = .admitted) (h64 : q.op = 0x22 → f.len = 64)
    (hm : q.op ≠ 0x22 → d.length ≤ 1048576) (hloc : s.isLocal f.region start f.len) (hpg : s.pagesFor b f.region start f.len)
    (hsh : q.op = 0x22 → s.shareRoom f.region = true)
    (hslot : q.op = 0x22 → (s.ring f.region).segs.contains (start / segSize) = true) :
    s.ReadyWrite b (writeCur q f start (f.inHand d)) d := by
  have hdest := dest_writeCur (f := f) hop start (f.inHand d)
  have hst := destStart_writeCur (f := f) hop start (f.inHand d)
  have hone : s.OnePiece (writeCur q f start (f.inHand d)) :=
    { pos := rfl
      piece := State.pieceLen_whole rfl h64 (fun ho => by rw [hdest]; exact hdl ▸ hm ho) (.inl rfl)
      here := by rw [hdest, hst]; exact hloc }
  exact {
    one := hone
    single := hs
    len := hl
    admitted := rfl
    denied := rfl
    thru := rfl
    done := rfl
    status := rfl
    open_ := rfl
    first := rfl
    part := fun ho => absurd ho hop
    room := State.needsRoom_withCur hone (by rw [hdest, hst]; exact hpg) hsh _
    slot := and_isAppend_eq_false fun ho => by
      rw [Bool.not_eq_false']
      exact hslot ho
    data := dataIn_writeCur hd hop start
    bytes := by rw [hdest]; exact hdl
    ledger := ha }

/-- WRITE of one piece lands (R190). -/
theorem State.landed_write {d : List Byte} (hop : q.op = 0x21) (hr : f.region < 64)
    (h : s.ReadyWrite b (writeCur q f f.start (f.inHand d)) d) (hn : s.newest f.region f.start f.len) (hg : s.goesOn b q) :
    s.landed ((s.withCur b (writeCur q f f.start (f.inHand d))).writeGo b) b q f.region f.start f.len d f.len := by
  have hdest := dest_writeCur (q := q) (f := f) (by rw [hop]; decide) f.start (f.inHand d)
  have hst := destStart_writeCur (q := q) (f := f) (by rw [hop]; decide) f.start (f.inHand d)
  have hins : (writeCur q f f.start (f.inHand d)).ins.op = 0x21 := hop
  have hland := h.landed_write (by rw [hins]; decide) (hdest ▸ hr) (by rw [hdest, hst]; exact hn) hg (by rw [hins]; decide)
  rw [hdest, hst] at hland
  exact hland

end

end Sys2Proof.Machine
end

section
/-! PROOFS. COPY, and the settlement of O31. -/

namespace Sys2Proof.Machine

/-! ### The body of COPY -/

section
variable {s : State} {b : BerthId} {q : QInstr} {f : Form}

/-- A COPY that both ends allow reads its source (R194). -/
theorem State.copyBody_of_go (hf : q.form (s.berth b) 2 false = some f) (hs : s.single) (hl : 0 < f.len)
    (hg : s.gated f.region = false) (hg2 : s.gated f.region2 = false) (he : s.entryOk f.region) (he2 : s.entryOk f.region2)
    (hbs : s.blockSize f.region = s.blockSize f.region2)
    (hr : s.refusal2
      { region := f.region, types := [.ring, .general, .compat], write := false, start := f.start, len := f.len, ranged := true }
      { region := f.region2, types := [.general, .compat], write := true, start := f.start2, len := f.len, ranged := true } = none)
    (ha : s.allowed b f.region f.start f.len) (hc : (s.berth b).has (s.region f.region2).colour = true)
    (hpf : s.pathFenced f.region false = false)
    (hp : s.later { region := f.region2, write := true, lost := false, media := true,
                    doms := (s.dataDoms f.region ++ s.dataDoms f.region2).dedup } = .go)
    (hrc : s.readClash f (s.partsOf (s.berth b) f.region f.start f.len) = false)
    (hwc : s.writeClash f.region2 f.start2 f.len = false) :
    s.copyBody b q = s.readStart b q f (s.partsOf (s.berth b) f.region f.start f.len) := by
  have hgate : ((s.gated f.region || s.gated f.region2) && f.len != 0) = false := by simp [hg, hg2]
  have hd := State.not_all_denied ha hl
  rw [State.copyBody, hf]
  simp only [hgate, Bool.false_eq_true, if_false, State.checkEntry_of_entryOk he, State.checkEntry_of_entryOk he2, if_pos hbs, hr]
  rw [if_neg (by omega)]
  simp only [hc, hd, hpf, Bool.not_true, Bool.false_or, Bool.false_eq_true, if_false, if_true]
  rw [State.touchesLost_of_single hs, deniedCount_of_all_ok ha]
  refine (State.onPath_of_go ?_ ?_ b q _).trans ?_
  · dsimp only
    exact hp
  · rfl
  · rw [hrc, hwc]
    exact State.tagged_false _ _ _ _

/-- A COPY whose source is in. -/
def State.copyCur (s : State) (q : QInstr) (f : Form) (parts : List Part) : Cur :=
  { s.sharedRead q f parts with phase := .data, parts := cutParts parts f.len }

/-- A source that is whole goes on to be written (R194). -/
theorem State.readDone_copy (hq : q.op = 0x23) (ha : s.allowed b f.region f.start f.len) :
    s.readDone b (s.sharedRead q f (s.partsOf (s.berth b) f.region f.start f.len)) =
      (s.withCur b (s.copyCur q f (s.partsOf (s.berth b) f.region f.start f.len))).writeGo b := by
  rw [State.readDone, State.readEnd_sharedRead ha]
  exact if_pos hq

/-- A region that is no ring is one part. -/
theorem State.cutParts_partsOf (hr : s.rtype f.region ≠ .ring) (ha : s.allowed b f.region f.start f.len) :
    cutParts (s.partsOf (s.berth b) f.region f.start f.len) f.len =
      if 0 < f.len then [{ off := 0, len := f.len, colour := (s.region f.region).colour, ok := true }] else [] := by
  have hp : s.partsOf (s.berth b) f.region f.start f.len = 
      [{ off := 0, len := f.len, colour := (s.region f.region).colour, ok := (s.berth b).has (s.region f.region).colour }] :=
    if_neg hr
  rw [State.allowed, hp] at ha
  rw [hp]
  simp only [List.all_cons, List.all_nil, Bool.and_true] at ha
  simp only [cutParts, ha]
  split_ifs with h <;> simp [h]

theorem State.readyWrite_copyCur (hq : q.op = 0x23) (hs : s.single) (hl : 0 < f.len) (hr : s.rtype f.region ≠ .ring)
    (hbs : s.blockSize f.region = s.blockSize f.region2) (ha : s.allowed b f.region f.start f.len)
    (hm : s.inShare f.region f.start f.len)
    (had : s.hup.answerItem (dataCost (s.runData f.region f.start f.len).length) = .admitted)
    (hmib : (s.runData f.region f.start f.len).length ≤ 1048576) (hloc : s.isLocal f.region2 f.start2 f.len)
    (hpg : s.pagesFor b f.region2 f.start2 f.len) :
    s.ReadyWrite b (s.copyCur q f (s.partsOf (s.berth b) f.region f.start f.len)) (s.runData f.region f.start f.len) := by
  have hdest : (s.copyCur q f (s.partsOf (s.berth b) f.region f.start f.len)).dest = f.region2 := if_pos hq
  have hst : (s.copyCur q f (s.partsOf (s.berth b) f.region f.start f.len)).destStart = f.start2 := if_pos hq
  have hparts : (s.copyCur q f (s.partsOf (s.berth b) f.region f.start f.len)).parts =
      [{ off := 0, len := f.len, colour := (s.region f.region).colour, ok := true }] :=
    (State.cutParts_partsOf hr ha).trans (if_pos hl)
  have hlen : (s.runData f.region f.start f.len).length = f.len * s.blockSize f.region2 := hbs ▸ State.runData_length hm
  have h22 : q.op ≠ 0x22 := by rw [hq]; decide
  have hone : s.OnePiece (s.copyCur q f (s.partsOf (s.berth b) f.region f.start f.len)) :=
    { pos := rfl
      piece := State.pieceLen_whole rfl (fun ho => absurd ho h22) (fun _ => by rw [hdest]; exact hlen ▸ hmib)
        (.inr ⟨_, hparts, rfl, rfl, hl⟩)
      here := by rw [hdest, hst]; exact hloc }
  exact {
    one := hone
    single := hs
    len := hl
    admitted := rfl
    denied := rfl
    thru := rfl
    done := rfl
    status := rfl
    open_ := rfl
    first := rfl
    part := fun _ => by rw [hparts]; simp [allowedAt, hl]
    room := State.needsRoom_withCur hone (by rw [hdest, hst]; exact hpg) (fun ho => absurd ho h22) _
    slot := and_isAppend_eq_false fun ho => absurd ho h22
    data := .inl ⟨by simp [Cur.ownData, State.copyCur, State.sharedRead, Cur.init, hq],
      by simp [State.copyCur, State.sharedRead, hq]⟩
    bytes := by rw [hdest]; exact hlen
    ledger := had }

/-- COPY of one piece lands (R194). -/
theorem State.landed_copy (hq : q.op = 0x23) (hr : f.region2 < 64)
    (h : s.ReadyWrite b (s.copyCur q f (s.partsOf (s.berth b) f.region f.start f.len)) (s.runData f.region f.start f.len))
    (hn : s.newest f.region2 f.start2 f.len) (hg : s.goesOn b q) :
    s.landed ((s.withCur b (s.copyCur q f (s.partsOf (s.berth b) f.region f.start f.len))).writeGo b) b q f.region2 f.start2 f.len
      (s.runData f.region f.start f.len) f.len := by
  have hdest : (s.copyCur q f (s.partsOf (s.berth b) f.region f.start f.len)).dest = f.region2 := if_pos hq
  have hst : (s.copyCur q f (s.partsOf (s.berth b) f.region f.start f.len)).destStart = f.start2 := if_pos hq
  have hins : (s.copyCur q f (s.partsOf (s.berth b) f.region f.start f.len)).ins.op = 0x23 := hq
  have hland := h.landed_write (by rw [hins]; decide) (hdest ▸ hr) (by rw [hdest, hst]; exact hn) hg (by rw [hins]; decide)
  rw [hdest, hst] at hland
  exact hland

end

/-- Settles O31: the one piece of the write is admitted, takes its data, lands in the write share as the newest version of its
units, and the instruction completes, all in the turn that starts it. -/
theorem writesComplete : Obligations.WritesComplete := by
  unfold Obligations.WritesComplete
  refine ⟨?_, ?_⟩
  · intro s b q f d hrun hg s' hf hl hdl ask
    have hr : f.region < 64 := (QInstr.form_inv hf).1
    have hask : ∀ a, ask a = s'.writeAsk b f a := fun a => by simp only [ask, State.writeAsk, hdl]
    have hturn : knownOp q.op = true → turn b q.op s (fun q s => s.writeBody b q) = .next (s.close (s'.writeBody b q)) :=
      fun hk => turn_of_mayRun hrun hk _
    have hwrite : q.op = 0x21 → exec (.write b) s = .next (s.close (s'.writeBody b q)) := fun ho => by
      rw [ho] at hturn
      exact hturn (by decide)
    have happend : q.op = 0x22 → exec (.append b) s = .next (s.close (s'.writeBody b q)) := fun ho => by
      rw [ho] at hturn
      exact hturn (by decide)
    refine ⟨fun st hgt he => ⟨fun ho href => ?_, fun ho h64 href => ?_⟩, fun hs hd hc hled => ⟨?_, ?_⟩⟩
    · rw [hwrite ho, State.writeBody_of_refusal hf (fun h => absurd (ho.symm.trans h) (by decide)) hgt he]
      rw [ho, ← hask]
      exact href
    · rw [happend ho, State.writeBody_of_refusal hf (fun _ => h64) hgt he]
      rw [ho, ← hask]
      exact href
    · intro ho hmib hloc hnew _ hopen hpg hp hwc
      have h22 : q.op ≠ 0x22 := by rw [ho]; decide
      have hready := State.readyWrite_writeCur (b := b) (by rw [ho]; decide) hs hl hd hdl hled (fun h => absurd h h22)
        (fun _ => hmib) hloc hpg (fun h => absurd h h22) (fun h => absurd h h22)
      have hbody := State.writeBody_of_go hf hl hdl hs hd hc (by rw [ho, ← hask]; exact hopen) (start := f.start) (by rw [ho]; rfl)
        (fun h => absurd h h22) (by rw [ho]; exact hp) hwc
      exact ⟨_, hwrite ho, hbody ▸ State.landed_write ho hr hready hnew hg⟩
    · intro ho h64 x hloc hpos hal hx hseg htk hun hnew hsh haw htl hopen hpg hp hwc
      have hready := State.readyWrite_writeCur (b := b) (start := x.tailPos) (by rw [ho]; decide) hs hl hd hdl hled (fun _ => h64)
        (fun h => absurd ho h) (by rw [h64]; exact hloc) (by rw [h64]; exact hpg) (fun _ => hsh) (fun _ => hseg)
      have hbody := State.writeBody_of_go hf hl hdl hs hd hc (by rw [ho, ← hask]; exact hopen) (start := x.tailPos)
        (by rw [ho]; exact hpos.symm) (fun _ => ⟨by rw [h64], haw, htl⟩) (by rw [ho]; exact hp) (by rw [h64]; exact hwc)
      have hlen : (writeCur q f x.tailPos (f.inHand d)).len = 64 := h64
      have hland := hready.landed_append ho rfl htk hx hun hr (by rw [hlen]; exact hnew) hg
      rw [← hbody, hlen] at hland
      exact ⟨_, happend ho, hland⟩
  · intro s b q f hrun hg hq s' hf hs hl d parts src dst hg1 hg2 he1 he2 hr hbs href ha hm hc hpf hp hrc hwc hmib hloc hnew hpg _
      had
    have hturn := turn_of_mayRun hrun (by rw [hq]; decide) fun q s => s.copyBody b q
    rw [hq] at hturn
    have hbody : s'.copyBody b q = (s'.withCur b (s'.copyCur q f parts)).writeGo b :=
      (State.copyBody_of_go hf hs hl hg1 hg2 he1 he2 hbs href ha hc hpf hp hrc hwc).trans
        ((State.readStart_of_inShare hs ha hm).trans (State.readDone_copy hq ha))
    have hready := State.readyWrite_copyCur (b := b) hq hs hl hr hbs ha hm had hmib hloc hpg
    exact ⟨_, hturn, hbody ▸ State.landed_copy hq (QInstr.form_inv hf).2.1 hready hnew hg⟩

end Sys2Proof.Machine
end

section
/-! SUPPORT. What the operations of the machine leave of the counters: one lemma for each operation that a command's closing step
can reach. None but an install of settings and the end of a counter step touches them (R293, R296). -/

namespace Sys2Proof.Machine

@[simp] theorem ctr_foldl {α : Type} {f : State → α → State} (h : ∀ s a, (f s a).ctr = s.ctr) (l : List α) (s : State) :
    (l.foldl f s).ctr = s.ctr := by
  induction l generalizing s with
  | nil => rfl
  | cons a r ih => rw [List.foldl_cons, ih, h]

@[simp] theorem ctr_foldl_snd {α β : Type} {f : β × State → α → β × State} (h : ∀ p a, (f p a).2.ctr = p.2.ctr)
    (l : List α) (p : β × State) : (l.foldl f p).2.ctr = p.2.ctr := by
  induction l generalizing p with
  | nil => rfl
  | cons a r ih => rw [List.foldl_cons, ih, h]

/-! ### Machine.Ops -/

@[simp] theorem State.ctr_drainUp (n : Nat) (s : State) : (State.drainUp n s).ctr = s.ctr := by
  obtain ⟨x, y, h, -⟩ := State.drainUp_spec n s
  rw [h]

@[simp] theorem State.ctr_sendUp (s : State) (p : UpParcel) : (s.sendUp p).ctr = s.ctr := by
  simp [State.sendUp]

@[simp] theorem State.ctr_raiseEvent (s : State) (code : Nat) (arg : W32) (src : Option BerthId) :
    (s.raiseEvent code arg src).ctr = s.ctr := by
  simp only [State.raiseEvent]
  split <;> simp

@[simp] theorem State.ctr_sendCompletion (s : State) (b : BerthId) (tag : W16) (op : Byte) (st : Status) (done : Nat)
    (first : Option Nat) (res : W64) : (s.sendCompletion b tag op st done first res).ctr = s.ctr := by
  simp [State.sendCompletion]

@[simp] theorem State.ctr_sendInterim (s : State) (b : BerthId) (q : QInstr) : (s.sendInterim b q).ctr = s.ctr := by
  simp [State.sendInterim]

@[simp] theorem State.ctr_discard (s : State) (n : Nat) : (s.discard n).ctr = s.ctr := rfl

@[simp] theorem State.ctr_dropChunks (s : State) (b : BerthId) (p : Chunk → Bool) : (s.dropChunks b p).ctr = s.ctr := rfl

@[simp] theorem State.ctr_leaveData (s : State) (b : BerthId) (q : QInstr) (took : Bool) :
    (s.leaveData b q took).ctr = s.ctr := rfl

@[simp] theorem State.ctr_flushQueue (s : State) (b : BerthId) (qs : List QInstr) : (s.flushQueue b qs).ctr = s.ctr := by
  induction qs generalizing s with
  | nil => rfl
  | cons q r ih =>
    rw [State.flushQueue, ih]
    simp

@[simp] theorem State.ctr_stopBerth (s : State) (b : BerthId) (st : Status) : (s.stopBerth b st).ctr = s.ctr := by
  simp only [State.stopBerth]
  split <;> simp

@[simp] theorem State.ctr_rest (s : State) (b : BerthId) : (s.rest b).ctr = s.ctr := by
  simp only [State.rest]
  split <;> simp

@[simp] theorem State.ctr_stopHere (s : State) (b : BerthId) : (s.stopHere b).ctr = s.ctr := by
  simp only [State.stopHere]
  split <;> simp

theorem State.ctr_concludes (s : State) (b : BerthId) (q : QInstr) (st : Status) (done : Nat) (first : Option Nat)
    (res : Option W64) (pc : Nat) : (s.concludes b q st done first res pc).ctr = s.ctr := by
  unfold State.concludes
  extract_lets u x
  have hu : u.ctr = s.ctr := by
    simp only [u]
    split_ifs <;> simp
  split_ifs <;> simp [hu]

@[simp] theorem State.ctr_finishAt (s : State) (b : BerthId) (q : QInstr) (st : Status) (done : Nat) (first : Option Nat)
    (res : Option W64) (pc : Nat) : (s.finishAt b q st done first res pc).ctr = s.ctr := by
  rw [State.finishAt_eq, State.ctr_concludes]
  simp [State.leaves, State.countThru]

@[simp] theorem State.ctr_finish (s : State) (b : BerthId) (q : QInstr) (st : Status) (done : Nat) (first : Option Nat)
    (res : Option W64) : (s.finish b q st done first res).ctr = s.ctr := by
  simp [State.finish]

@[simp] theorem State.ctr_finishCur (s : State) (b : BerthId) (st : Status) (done : Nat) (first : Option Nat)
    (res : Option W64) : (s.finishCur b st done first res).ctr = s.ctr := by
  unfold State.finishCur
  split <;> simp

@[simp] theorem State.ctr_waitFor (s : State) (b : BerthId) (why : WaitWhy) (c : Cur) : (s.waitFor b why c).ctr = s.ctr := rfl

@[simp] theorem State.ctr_takeEvent (s : State) (b : BerthId) (q : QInstr) (i : Nat) : (s.takeEvent b q i).ctr = s.ctr := by
  simp [State.takeEvent]

theorem State.ctr_wakeOne {s t : State} {b : BerthId} (h : s.wakeOne b = some t) : t.ctr = s.ctr := by
  simp only [State.wakeOne] at h
  split at h
  · split at h
    · split at h
      · rw [← Option.some.inj h, State.ctr_takeEvent]
      · cases h
    · split_ifs at h
      · rw [← Option.some.inj h, State.ctr_finish]
      · rw [← Option.some.inj h, State.ctr_finish]
    · cases h
  · cases h

/-! ### Machine.PowerOps -/

@[simp] theorem State.ctr_refuseReq (s : State) (reason : Nat) : (s.refuseReq reason).ctr = s.ctr := by
  unfold State.refuseReq
  split <;> simp

@[simp] theorem State.ctr_wakeBy (s : State) (src : Nat) (ds : List (Fin 16)) : (s.wakeBy src ds).ctr = s.ctr := by
  simp only [State.wakeBy]
  split_ifs <;> simp

@[simp] theorem State.ctr_demand (s : State) (ds : List (Fin 16)) : (s.demand ds).ctr = s.ctr := by
  simp only [State.demand]
  split <;> simp

/-! ### Machine.Ledger -/

@[simp] theorem State.ctr_ledgerUpdate (s : State) : (s.ledgerUpdate).ctr = s.ctr := by
  simp only [State.ledgerUpdate]
  split <;> simp

@[simp] theorem State.ctr_debitBy (s : State) (n : Nat) : (s.debitBy n).ctr = s.ctr := rfl

@[simp] theorem State.ctr_creditBy (s : State) (n : Nat) : (s.creditBy n).ctr = s.ctr := rfl

@[simp] theorem State.ctr_admitItem (s : State) (k : ItemKind) (cost : Nat) : (s.admitItem k cost).ctr = s.ctr := rfl

@[simp] theorem State.ctr_creditItem (s : State) (k : ItemKind) (cost : Nat) : (s.creditItem k cost).ctr = s.ctr := rfl

@[simp] theorem State.ctr_ledgerWait (s : State) (b : BerthId) (c : Cur) (cost : Nat) :
    (s.ledgerWait b c cost).ctr = s.ctr := by
  simp [State.ledgerWait]

/-! ### Machine.LogOps -/

@[simp] theorem State.ctr_command (s : State) (e : CartridgeEvent) : (s.command e).ctr = s.ctr := by
  unfold State.command
  split <;> simp

@[simp] theorem State.ctr_sealRec (s : State) (r : ToSeal) : (s.sealRec r).ctr = s.ctr := by
  simp only [State.sealRec]
  split_ifs <;> simp

@[simp] theorem State.ctr_sealCard (s : State) (typ : W16) (payload : List Byte) : (s.sealCard typ payload).ctr = s.ctr := by
  unfold State.sealCard
  split <;> simp

@[simp] theorem State.ctr_startCheckpoint (s : State) (owner : Option BerthId) (cost : Nat) :
    (s.startCheckpoint owner cost).ctr = s.ctr := by
  simp [State.startCheckpoint]

/-! ### Machine.MediaOps -/

@[simp] theorem State.ctr_putUnit (s : State) (k : Nat) (u : MUnit) : (s.putUnit k u).ctr = s.ctr := rfl

@[simp] theorem State.ctr_addStale (s : State) (k : Nat) (orphan : Bool) (x : Option Copy) :
    (s.addStale k orphan x).ctr = s.ctr := by
  unfold State.addStale
  split <;> simp

@[simp] theorem State.ctr_newVersion (s : State) (k : Nat) (v : Version) : (s.newVersion k v).ctr = s.ctr := rfl

@[simp] theorem State.ctr_orphan (s : State) (k : Nat) (base : Option Copy) (v : Version) :
    (s.orphan k base v).ctr = s.ctr := by
  unfold State.orphan
  split <;> simp

@[simp] theorem State.ctr_commitVersion (s : State) (stamp : Nat) (k : Nat) : (s.commitVersion stamp k).ctr = s.ctr := by
  simp only [State.commitVersion]
  split <;> simp

@[simp] theorem State.ctr_purgeUnit (s : State) (k : Nat) : (s.purgeUnit k).ctr = s.ctr := by
  simp [State.purgeUnit]

@[simp] theorem State.ctr_nextStamp (s : State) : (s.nextStamp).2.ctr = s.ctr := rfl

@[simp] theorem State.ctr_closeRows (s : State) (set : Nat) (c : RowClass) : (s.closeRows set c).ctr = s.ctr := rfl

@[simp] theorem State.ctr_openRow (s : State) (set : Nat) (c : RowClass) : (s.openRow set c).2.ctr = s.ctr := rfl

theorem State.ctr_givePlaces {s t : State} {c : RowClass} {l : Loc} {code : Code} {n : Nat} {be : Bool} {ps : List Place}
    (h : s.givePlaces c l code n be = some (ps, t)) : t.ctr = s.ctr := by
  rw [State.givePlaces_frame h]

@[simp] theorem State.ctr_planMoves (s : State) (ks : List Nat) (bestEffort : Bool) :
    (s.planMoves ks bestEffort).2.ctr = s.ctr := by
  refine ctr_foldl_snd (fun p k => ?_) _ _
  split
  · rfl
  · simp only
    split
    · next h => exact State.ctr_givePlaces h
    · rfl

@[simp] theorem State.ctr_commitMove (s : State) (m : Move) : (s.commitMove m).ctr = s.ctr := by
  simp only [State.commitMove]
  (repeat' split) <;> simp

@[simp] theorem State.ctr_freeRow (s : State) (id : Nat) : (s.freeRow id).ctr = s.ctr := by
  unfold State.freeRow
  split <;> simp

/-! ### Machine.RingOps -/

@[simp] theorem State.ctr_raiseCut (s : State) (r : Nat) : (s.raiseCut r).ctr = s.ctr := rfl

@[simp] theorem State.ctr_retag (s : State) : (s.retag).ctr = s.ctr := rfl

@[simp] theorem State.ctr_purgeSeg (s : State) (r : Nat) (seg : Nat) : (s.purgeSeg r seg).ctr = s.ctr := by
  simp [State.purgeSeg]

@[simp] theorem State.ctr_leaveSlot (s : State) (r : Nat) (seg : Nat) : (s.leaveSlot r seg).ctr = s.ctr := rfl

@[simp] theorem State.ctr_dropSeg (s : State) (r : Nat) (seg : Nat) : (s.dropSeg r seg).ctr = s.ctr := by
  simp [State.dropSeg]

@[simp] theorem State.ctr_sweepRing (s : State) (r : Nat) (segs : List Nat) : (s.sweepRing r segs).ctr = s.ctr := by
  refine ctr_foldl (fun s g => ?_) _ _
  split_ifs <;> simp

theorem State.ctr_sweepStep {s t : State} (h : s.sweepStep = some t) : t.ctr = s.ctr := by
  obtain ⟨r, -, rfl⟩ := Option.map_eq_some_iff.1 h
  exact State.ctr_sweepRing _ _ _

@[simp] theorem State.ctr_advanceTail (n r : Nat) (s : State) : (State.advanceTail n r s).ctr = s.ctr := by
  induction n generalizing s with
  | zero => rfl
  | succ n ih =>
    simp only [State.advanceTail]
    split_ifs <;> simp [ih]

@[simp] theorem State.ctr_settleTaken (s : State) (r : Nat) (p : Taken → Bool) : (s.settleTaken r p).ctr = s.ctr := by
  simp [State.settleTaken]

@[simp] theorem State.ctr_completeUnit (s : State) (r : Nat) (no : Nat) : (s.completeUnit r no).ctr = s.ctr := by
  simp [State.completeUnit]

theorem State.ctr_takeSlot {s t : State} {r seg : Nat} (h : s.takeSlot r seg = some t) : t.ctr = s.ctr := by
  simp only [State.takeSlot] at h
  split_ifs at h
  · rw [← Option.some.inj h]
    rfl
  · split at h
    · cases h
    · rw [← Option.some.inj h]
      simp

@[simp] theorem State.ctr_settleWrap (s : State) (r : Nat) : (s.settleWrap r).ctr = s.ctr := by
  simp [State.settleWrap]

/-! ### Machine.Durable -/

@[simp] theorem State.ctr_guardRecord (s : State) (region : Nat) (old : W32) (new : W32) (how : Nat) (b : BerthId) :
    (s.guardRecord region old new how b).ctr = s.ctr := by
  simp [State.guardRecord]

@[simp] theorem State.ctr_closeSessions (s : State) : (s.closeSessions).ctr = s.ctr := rfl

@[simp] theorem State.ctr_cancelResv (s : State) (b : BerthId) : (s.cancelResv b).ctr = s.ctr := by
  unfold State.cancelResv
  split <;> simp

@[simp] theorem State.ctr_lockRecord (s : State) (old : Nat) (new : Nat) (pw : Nat) (b : BerthId) :
    (s.lockRecord old new pw b).ctr = s.ctr := by
  simp [State.lockRecord]

@[simp] theorem State.ctr_lockChange (s : State) (b : BerthId) (st : BitVec 2) (pw : PwChange) :
    (s.lockChange b st pw).ctr = s.ctr := by
  simp only [State.lockChange]
  split <;> simp

@[simp] theorem State.ctr_releaseHold (s : State) (id : Nat) : (s.releaseHold id).ctr = s.ctr := by
  unfold State.releaseHold
  split <;> simp

@[simp] theorem State.ctr_rekey (s : State) (r : Nat) (region : Nat) (segs : List Nat) :
    (s.rekey r region segs).ctr = s.ctr := by
  unfold State.rekey
  exact ctr_foldl (fun s p => by simp) _ _

@[simp] theorem State.ctr_harvestHold (s : State) (b : BerthId) (id : Nat) (region : Nat) :
    (s.harvestHold b id region).ctr = s.ctr := by
  unfold State.harvestHold
  split <;> simp

@[simp] theorem State.ctr_itemDurable (s : State) (b : BerthId) : (s.itemDurable b).ctr = s.ctr := by
  unfold State.itemDurable
  (repeat' split) <;> simp

@[simp] theorem State.ctr_itemDurableOpt (s : State) (x : Option BerthId) : (s.itemDurable? x).ctr = s.ctr := by
  unfold State.itemDurable?
  split <;> simp

@[simp] theorem State.ctr_reportWeed (s : State) (region : Nat) (start : Nat) (done : Nat) :
    (s.reportWeed region start done).ctr = s.ctr := by
  unfold State.reportWeed
  split <;> simp

@[simp] theorem State.ctr_weedRecord (s : State) (b : Option BerthId) (region : Nat) (start : Nat) (done : Nat) :
    (s.weedRecord b region start done).ctr = s.ctr := by
  simp only [State.weedRecord]
  split_ifs <;> simp

@[simp] theorem State.ctr_weedDone (s : State) (b : Option BerthId) (region : Nat) (start : Nat) (done : Nat)
    (rows : List Nat) : (s.weedDone b region start done rows).ctr = s.ctr := by
  simp [State.weedDone]

@[simp] theorem State.ctr_startMove (s : State) (id : Nat) : (s.startMove id).ctr = s.ctr := rfl

@[simp] theorem State.ctr_weedStart (s : State) (b : Option BerthId) (region : Nat) (start : Nat) (blocks : Nat)
    (done : Nat) (segs : List Nat) : (s.weedStart b region start blocks done segs).ctr = s.ctr := by
  unfold State.weedStart
  extract_lets u per lo hi rows c v w
  have hu : u.ctr = s.ctr := ctr_foldl (fun s g => s.ctr_purgeSeg region g) _ _
  have hw : w.ctr = v.ctr := ctr_foldl State.ctr_startMove _ _
  split_ifs
  · exact (State.ctr_weedDone _ _ _ _ _ _).trans hu
  · rw [State.ctr_addDie, State.ctr_planMoves, hw]
    exact hu

@[simp] theorem State.ctr_busyOut (s : State) (b : BerthId) : (s.busyOut b).ctr = s.ctr := by
  unfold State.busyOut
  (repeat' split) <;> simp

@[simp] theorem State.ctr_eraseStart (s : State) (b : BerthId) : (s.eraseStart b).ctr = s.ctr := by
  simp only [State.eraseStart]
  split_ifs
  · rfl
  · refine (ctr_foldl (fun s x => ?_) _ _).trans (by simp)
    split_ifs <;> simp

@[simp] theorem State.ctr_eraseKeys (s : State) : s.eraseKeys.ctr = s.ctr :=
  ctr_foldl State.ctr_cancelResv _ _

@[simp] theorem State.ctr_delegate (s : State) (b : BerthId) (ps : List (Fin 4)) : (s.delegate b ps).ctr = s.ctr := by
  simp [State.delegate]

@[simp] theorem State.ctr_orderErase (s : State) (b : BerthId) : (s.orderErase b).ctr = s.ctr := by
  simp only [State.orderErase]
  split_ifs <;> simp

@[simp] theorem State.ctr_eraseSteps (s : State) (b : BerthId) : (s.eraseSteps b).ctr = s.ctr := by
  simp only [State.eraseSteps, State.ctr_orderErase, State.ctr_eraseKeys, State.ctr_sealCard]

@[simp] theorem State.ctr_weedNext (s : State) (b : Option BerthId) (region : Nat) (start : Nat) (done : Nat)
    (rows : List Nat) : (s.weedNext b region start done rows).ctr = s.ctr := by
  simp only [State.weedNext]
  split <;> simp

@[simp] theorem State.ctr_runAfter (s : State) (a : After) : (s.runAfter a).ctr = s.ctr := by
  cases a with
  | drop region segs => exact ctr_foldl (fun s g => s.ctr_purgeSeg region g) _ _
  | blocks xs => exact ctr_foldl (fun s _ => s.ctr_modBerth _ _) _ _
  | _ => simp [State.runAfter]

@[simp] theorem State.ctr_commitChange (s : State) (c : Change) : (s.commitChange c).ctr = s.ctr := by
  unfold State.commitChange
  split_ifs <;> simp

@[simp] theorem State.ctr_enter (s : State) (seq : W64) (cs : List Change) (items : List JItem) :
    (s.enter seq cs items).ctr = s.ctr := rfl

@[simp] theorem State.ctr_writePage (s : State) (p : Nat) : (s.writePage p).ctr = s.ctr := by
  unfold State.writePage
  split
  · next h => simp [State.ctr_givePlaces h]
  · rfl

@[simp] theorem State.ctr_writeRoot (s : State) : (s.writeRoot).ctr = s.ctr := by
  simp [State.writeRoot]

@[simp] theorem State.ctr_boundDirty (s : State) : s.boundDirty.ctr = s.ctr := by
  simp only [State.boundDirty]
  exact ctr_foldl State.ctr_writePage _ _

@[simp] theorem State.ctr_journalCommit (s : State) : (s.journalCommit).ctr = s.ctr := by
  simp only [State.journalCommit]
  (repeat' split) <;> simp

@[simp] theorem State.ctr_journalDone (s : State) (seq : W64) (cs : List Change) : (s.journalDone seq cs).ctr = s.ctr := by
  simp [State.journalDone]

@[simp] theorem State.ctr_completeRecords (n : Nat) (s : State) : (State.completeRecords n s).ctr = s.ctr := by
  induction n generalizing s with
  | zero => rfl
  | succ n ih =>
    rw [State.completeRecords]
    split
    · rfl
    · rw [ih]
      split_ifs <;> simp

@[simp] theorem State.ctr_logCopyDone (s : State) (seq : W64) (copyB : Bool) : (s.logCopyDone seq copyB).ctr = s.ctr := by
  simp [State.logCopyDone]

@[simp] theorem State.ctr_disownBy (s : State) (p : BerthId → Bool) : (s.disownBy p).ctr = s.ctr := rfl

@[simp] theorem State.ctr_disown (s : State) (b : BerthId) : (s.disown b).ctr = s.ctr := rfl

/-! ### Machine.Resv -/

@[simp] theorem State.ctr_cancelDram (s : State) : s.cancelDram.ctr = s.ctr := by
  refine ctr_foldl (fun t p => ?_) _ _
  split
  · split_ifs <;> simp
  · rfl

@[simp] theorem State.ctr_cancelShrunk (n : Nat) (s : State) : (State.cancelShrunk n s).ctr = s.ctr := by
  induction n generalizing s with
  | zero => rfl
  | succ n ih =>
    rw [State.cancelShrunk]
    split_ifs
    · rfl
    · split
      · rw [ih, State.ctr_cancelResv]
      · rfl

/-! ### Machine.Fault -/

@[simp] theorem State.ctr_leaveLane (s : State) : (s.leaveLane).ctr = s.ctr := rfl

@[simp] theorem State.ctr_dropLane (s : State) (n : Nat) : (s.dropLane n).ctr = s.ctr := by
  simp only [State.dropLane]
  split <;> simp

@[simp] theorem State.ctr_isolate (s : State) (u : FUnit) (forced : Bool) : (s.isolate u forced).ctr = s.ctr := by
  unfold State.isolate
  (repeat' split) <;> simp

@[simp] theorem State.ctr_reportClass (s : State) (src : Nat) : (s.reportClass src).ctr = s.ctr := by
  simp only [State.reportClass]
  split <;> simp

@[simp] theorem State.ctr_haltBerth (s : State) (b : BerthId) : (s.haltBerth b).ctr = s.ctr := by
  unfold State.haltBerth
  split <;> simp

/-! ### Machine.Guard -/

@[simp] theorem State.ctr_refuse (s : State) (b : BerthId) (q : QInstr) (st : Status) (first : Option Nat) :
    (s.refuse b q st first).ctr = s.ctr := by
  simp [State.refuse]

/-! ### Machine.Data -/

@[simp] theorem State.ctr_pushData (n : Nat) (b : BerthId) (s : State) : (State.pushData n b s).ctr = s.ctr := by
  induction n generalizing s with
  | zero => rfl
  | succ n ih =>
    rw [State.pushData]
    split
    · rfl
    · split_ifs <;> simp [ih]

@[simp] theorem State.ctr_gather (n : Nat) (b : BerthId) (need total : Nat) (s : State) :
    (State.gather n b need total s).2.ctr = s.ctr := by
  induction n generalizing s with
  | zero => rfl
  | succ n ih =>
    rw [State.gather]
    split
    · rfl
    · split_ifs
      · rfl
      · split
        · rfl
        · simp only
          split_ifs <;> simp [ih]

@[simp] theorem State.ctr_storePiece (s : State) (c : Cur) (d : List Byte) : (s.storePiece c d).2.ctr = s.ctr := by
  simp only [State.storePiece]
  exact ctr_foldl (fun s p => State.ctr_newVersion s _ _) _ _

@[simp] theorem State.ctr_landPiece (s : State) (b : BerthId) (c : Cur) (d : List Byte) : (s.landPiece b c d).ctr = s.ctr := by
  unfold State.landPiece
  split_ifs <;> simp

@[simp] theorem State.ctr_writeEnd (s : State) (b : BerthId) (c : Cur) : (s.writeEnd b c).ctr = s.ctr := by
  unfold State.writeEnd
  split_ifs <;> simp

@[simp] theorem State.ctr_releasePiece (s : State) (c : Cur) : (s.releasePiece c).ctr = s.ctr := by
  unfold State.releasePiece
  split_ifs <;> simp

@[simp] theorem State.ctr_writeFail (s : State) (b : BerthId) (c : Cur) (st : Status) : (s.writeFail b c st).ctr = s.ctr := by
  simp [State.writeFail]

@[simp] theorem State.ctr_piecePlaces (s : State) (b : BerthId) (c : Cur) : ((s.piecePlaces b c).getD ([], s)).2.ctr = s.ctr := by
  rw [State.piecePlaces_getD_frame]

@[simp] theorem State.ctr_takePiece (s : State) (b : BerthId) (c : Cur) (thru : Bool) : (s.takePiece b c thru).ctr = s.ctr :=
  State.ctr_piecePlaces s.nextStamp.2 b c

@[simp] theorem State.ctr_admitPiece (s : State) (b : BerthId) (c : Cur) : (s.admitPiece b c).2.ctr = s.ctr := by
  simp only [State.admitPiece]
  (repeat' split) <;> simp

@[simp] theorem State.ctr_pieceData (s : State) (b : BerthId) (c : Cur) : (s.pieceData b c).2.ctr = s.ctr := by
  unfold State.pieceData
  split <;> simp

@[simp] theorem State.ctr_writeStep (n : Nat) (b : BerthId) (s : State) : (State.writeStep n b s).ctr = s.ctr := by
  induction n generalizing s with
  | zero => rfl
  | succ n ih =>
    rw [State.writeStep]
    split
    · rfl
    · next c _ =>
      split
      · simp
      split
      · simp [ih]
      split
      · have ha := s.ctr_admitPiece b c
        split
        · simp
        · split
          · next h => simpa [h, ih] using ha
          · next h => simpa [h] using ha
      split
      · split
        · next h => simp [ih, State.ctr_takeSlot h]
        · simp only [State.ctr_waitFor]
          split_ifs <;> simp
      · have hd := s.ctr_pieceData b c
        split
        · next h =>
          rw [h] at hd
          split <;> simpa using hd
        · next h => simpa [h] using hd
        · next h =>
          rw [h] at hd
          simp only
          split_ifs <;> simpa [ih] using hd

@[simp] theorem State.ctr_writeGo (s : State) (b : BerthId) : (s.writeGo b).ctr = s.ctr := by
  unfold State.writeGo
  split <;> simp

/-! ### Machine.RegionOps -/

@[simp] theorem State.ctr_untilDurable (s : State) (b : BerthId) (c : Cur) (n : Nat) : (s.untilDurable b c n).ctr = s.ctr :=
  rfl

@[simp] theorem State.ctr_commitFail (s : State) (b : BerthId) (q : QInstr) (covered : Bool) (st : Status) :
    (s.commitFail b q covered st).ctr = s.ctr := by
  unfold State.commitFail
  split <;> simp

@[simp] theorem State.ctr_unmapRange (s : State) (r start len : Nat) (thru : Bool) :
    (s.unmapRange r start len thru).2.2.ctr = s.ctr := by
  refine (ctr_foldl (fun s k => ?_) _ _).trans (State.ctr_nextStamp s)
  simp only
  split_ifs
  · simp
  · rw [State.ctr_newVersion]
    split
    · next h => exact State.ctr_givePlaces h
    · rfl

@[simp] theorem State.ctr_trimGo (s : State) (b : BerthId) (covered : Bool) : (s.trimGo b covered).ctr = s.ctr := by
  unfold State.trimGo
  split <;> simp

@[simp] theorem State.ctr_weedGo (s : State) (b : BerthId) (covered : Bool) : (s.weedGo b covered).ctr = s.ctr := by
  simp only [State.weedGo]
  split
  · rfl
  · next c _ =>
    have h := fun segs => ctr_foldl (fun s g => State.ctr_leaveSlot s c.region g) segs s
    split_ifs <;> simp [h]

@[simp] theorem State.ctr_holdGo (s : State) (b : BerthId) (covered : Bool) : (s.holdGo b covered).ctr = s.ctr := by
  simp only [State.holdGo]
  (repeat' split) <;> simp

@[simp] theorem State.ctr_markLeaving (s : State) (id : Nat) : (s.markLeaving id).ctr = s.ctr := rfl

@[simp] theorem State.ctr_releaseGo (s : State) (b : BerthId) (covered : Bool) : (s.releaseGo b covered).ctr = s.ctr := by
  simp only [State.releaseGo]
  (repeat' split) <;> simp

@[simp] theorem State.ctr_harvestGo (s : State) (b : BerthId) (covered : Bool) : (s.harvestGo b covered).ctr = s.ctr := by
  simp only [State.harvestGo]
  (repeat' split) <;> simp

/-! ### Machine.RecordOps -/

@[simp] theorem State.ctr_askSeal (s : State) (b : BerthId) (c : Cur) {go : Bool → State → State}
    (h : ∀ v s, (go v s).ctr = s.ctr) :
    (s.askSeal b c go).ctr = s.ctr := by
  simp only [State.askSeal]
  split <;> simp [h]

@[simp] theorem State.ctr_sealGo (s : State) (b : BerthId) (covered : Bool) : (s.sealGo b covered).ctr = s.ctr := by
  unfold State.sealGo
  (repeat' split) <;> simp

@[simp] theorem State.ctr_sealAsk (s : State) (b : BerthId) (c : Cur) : (s.sealAsk b c).ctr = s.ctr := by
  simp [State.sealAsk]

@[simp] theorem State.ctr_sealData (s : State) (b : BerthId) : (s.sealData b).ctr = s.ctr := by
  unfold State.sealData
  split
  · rfl
  · next c _ =>
    have hg := State.ctr_gather ((s.berth b).chunks.length + c.len + 1) b c.len c.len s
    split
    · next h =>
      rw [h] at hg
      split <;> simpa using hg
    · next h => simpa [h] using hg
    · next h =>
      rw [h] at hg
      simpa using hg

@[simp] theorem State.ctr_checkptGo (s : State) (b : BerthId) (covered : Bool) : (s.checkptGo b covered).ctr = s.ctr := by
  unfold State.checkptGo
  (repeat' split) <;> simp

@[simp] theorem State.ctr_ctrincGo (s : State) (b : BerthId) (covered : Bool) : (s.ctrincGo b covered).ctr = s.ctr := by
  unfold State.ctrincGo
  split
  · rfl
  · extract_lets n old sum new logs sealed mirrors c t u v
    have hu : u.ctr = s.ctr := by
      simp only [u]
      split_ifs <;> rfl
    have hv : v.ctr = s.ctr := by
      simp only [v]
      split_ifs
      · exact hu
      · exact hu
    split
    · split_ifs
      · exact State.ctr_finish _ _ _ _ _ _ _
      · exact State.ctr_finish _ _ _ _ _ _ _
    · split
      · exact hv
      · split
        · exact hv
        · exact (State.ctr_sealRec v _).trans hv

/-! ### Machine.Abort -/

@[simp] theorem State.ctr_openGate (s : State) : s.openGate.ctr = s.ctr := by
  refine ctr_foldl (fun s b => ?_) _ _
  split
  · split_ifs <;> simp
  · rfl

/-! ### Machine.AdminOps -/

@[simp] theorem State.ctr_tryPassword (s : State) (b : BerthId) (p : Password) (key : List Byte) :
    (s.tryPassword b p key).2.ctr = s.ctr := by
  simp only [State.tryPassword]
  split_ifs <;> simp

@[simp] theorem State.ctr_newPassword (s : State) (key : List Byte) : (s.newPassword key).2.ctr = s.ctr := rfl

@[simp] theorem State.ctr_openColour (s : State) (b : BerthId) (colour : Nat) : (s.openColour b colour).ctr = s.ctr := rfl

@[simp] theorem State.ctr_judgeResponse (s : State) (b : BerthId) (q : QInstr) (colour : Nat) (resp : List Byte) :
    (s.judgeResponse b q colour resp).ctr = s.ctr := by
  unfold State.judgeResponse
  (repeat' split) <;> simp

@[simp] theorem State.ctr_sessionData (s : State) (b : BerthId) : (s.sessionData b).ctr = s.ctr := by
  unfold State.sessionData
  split
  · rfl
  · next c _ =>
    have hg := State.ctr_gather ((s.berth b).chunks.length + 33) b 32 32 s
    split
    · next h =>
      rw [h] at hg
      split <;> simpa using hg
    · next h => simpa [h] using hg
    · next h =>
      rw [h] at hg
      split_ifs <;> simpa using hg

@[simp] theorem State.ctr_closeGate (s : State) (b : BerthId) (c : Cur) (regions : W64) :
    (s.closeGate b c regions).ctr = s.ctr := rfl

@[simp] theorem State.ctr_awaitGate (s : State) (b : BerthId) (c : Cur) : (s.awaitGate b c).ctr = s.ctr := rfl

@[simp] theorem State.ctr_takeGate (s : State) (b : BerthId) (c : Cur) (regions : W64) :
    (s.takeGate b c regions).ctr = s.ctr := by
  unfold State.takeGate
  split <;> simp

@[simp] theorem State.ctr_gateCommit (s : State) (b : BerthId) (c : Cur) (wait : Bool) (units : List Nat)
    (after : List After) : (s.gateCommit b c wait units after).ctr = s.ctr := by
  simp only [State.gateCommit]
  split_ifs <;> simp

@[simp] theorem State.ctr_gateFail (s : State) (b : BerthId) (c : Cur) (st : Status) (first : Option Nat) :
    (s.gateFail b c st first).ctr = s.ctr := by
  simp only [State.gateFail]
  split_ifs <;> simp

@[simp] theorem State.ctr_guardGo (s : State) (b : BerthId) (covered : Bool) : (s.guardGo b covered).ctr = s.ctr := by
  unfold State.guardGo
  split <;> simp

@[simp] theorem State.ctr_guardInstall (s : State) (b : BerthId) (c : Cur) : (s.guardInstall b c).ctr = s.ctr := by
  unfold State.guardInstall
  split <;> simp

@[simp] theorem State.ctr_lockGo (s : State) (b : BerthId) (covered : Bool) : (s.lockGo b covered).ctr = s.ctr := by
  simp only [State.lockGo]
  (repeat' split) <;> simp

@[simp] theorem State.ctr_feraseGo (s : State) (b : BerthId) (covered : Bool) : (s.feraseGo b covered).ctr = s.ctr := by
  unfold State.feraseGo
  (repeat' split) <;> simp

@[simp] theorem State.ctr_quiesceDone (s : State) : (s.quiesceDone).ctr = s.ctr := by
  simp only [State.quiesceDone]
  split <;> simp

@[simp] theorem State.ctr_applyPatch (s : State) (blob : List Byte) : (s.applyPatch blob).ctr = s.ctr := by
  simp [State.applyPatch]

@[simp] theorem State.ctr_patchWith (s : State) (b : BerthId) (q : QInstr) (blob : List Byte) :
    (s.patchWith b q blob).ctr = s.ctr := by
  unfold State.patchWith
  split <;> simp

@[simp] theorem State.ctr_patchData (s : State) (b : BerthId) : (s.patchData b).ctr = s.ctr := by
  unfold State.patchData
  split
  · rfl
  · next c _ =>
    have hg := State.ctr_gather ((s.berth b).chunks.length + c.len + 1) b c.len c.len s
    split
    · next h =>
      rw [h] at hg
      split <;> simpa using hg
    · next h => simpa [h] using hg
    · next h =>
      rw [h] at hg
      simpa using hg

/-! ### Machine.Apply -/

@[simp] theorem State.ctr_deleteRegion (s : State) (n : Nat) (thru : Bool) : (s.deleteRegion n thru).2.ctr = s.ctr := by
  simp only [State.deleteRegion, State.ctr_setRing, State.ctr_setRegion]
  exact ctr_foldl (fun s k => State.ctr_newVersion s _ _) _ _

@[simp] theorem State.ctr_resizeRing (s : State) (n : Nat) (k : Nat) : (s.resizeRing n k).2.ctr = s.ctr := by
  simp only [State.resizeRing]
  split <;> simp

@[simp] theorem State.ctr_commitRegion (s : State) (p : Plan) (thru : Bool) (n : Nat) :
    (s.commitRegion p thru n).2.2.ctr = s.ctr := by
  simp only [State.commitRegion]
  split_ifs <;> simp

@[simp] theorem State.ctr_commitPw (s : State) (p : Plan) : (s.commitPw p).ctr = s.ctr := by
  simp only [State.commitPw]
  (repeat' split) <;> simp

@[simp] theorem State.ctr_commitMap (s : State) (v : BitVec 4) : (s.commitMap v).ctr = s.ctr := rfl

/-! ### Machine.Sched -/

@[simp] theorem State.ctr_wakeFor (s : State) (os : List DieOp) : (s.wakeFor os).ctr = s.ctr := by
  simp [State.wakeFor]

@[simp] theorem State.ctr_arrange (s : State) : (s.arrange).ctr = s.ctr := by
  simp [State.arrange]

/-! ### Machine.Resume -/

@[simp] theorem State.ctr_pieceGo (s : State) (b : BerthId) (c : Cur) (covered : Bool) :
    (s.pieceGo b c covered).ctr = s.ctr := by
  unfold State.pieceGo
  split_ifs <;> simp

theorem State.ctr_quiesceStep {s t : State} (h : s.quiesceStep = some t) : t.ctr = s.ctr := by
  unfold State.quiesceStep at h
  split_ifs at h
  rw [← Option.some.inj h, State.ctr_quiesceDone]

@[simp] theorem State.ctr_returnCredits (s : State) : (s.returnCredits).ctr = s.ctr := by
  unfold State.returnCredits
  split <;> simp

end Sys2Proof.Machine
end

section
/-! SUPPORT. What a closing step leaves of mirror A's journal: no install of settings touches it. -/

namespace Sys2Proof.Machine

/-- Mirror A's journal: the entries in its block, and the values that it holds. -/
def Counters.mirrorA (x : Counters) : Nat × Vector (Option (Pair 64)) 32 := (x.usedA, x.c.map Counter.a)

theorem mirrorA_foldl {α : Type} {f : State → α → State} (h : ∀ s a, (f s a).ctr.mirrorA = s.ctr.mirrorA) (l : List α)
    (s : State) : (l.foldl f s).ctr.mirrorA = s.ctr.mirrorA := by
  induction l generalizing s with
  | nil => rfl
  | cons a r ih => rw [List.foldl_cons, ih, h]

theorem Counters.a_eq_of_mirrorA {x y : Counters} (h : x.mirrorA = y.mirrorA) (n : Fin 32) : x.c[n].a = y.c[n].a := by
  have hv : x.c.map Counter.a = y.c.map Counter.a := congrArg Prod.snd h
  simpa using congrArg (fun v => v[n]) hv

/-- A write of a counter's entry that keeps its value in mirror A keeps the mirror. -/
theorem State.mirrorA_setCounter (s : State) (n : Fin 32) (x : Counter) (h : x.a = (s.counter n).a) :
    (s.setCounter n x).ctr.mirrorA = s.ctr.mirrorA := by
  refine Prod.ext rfl (Vector.ext fun i hi => ?_)
  simp only [State.setCounter, Counters.mirrorA, Vector.getElem_map, Vector.getElem_set]
  split_ifs with hn
  · subst hn
    exact h
  · rfl

/-! ### Install of settings -/

@[simp] theorem State.mirrorA_commitCtr (s : State) (b : BerthId) (n : Fin 32) (v : W32) :
    (s.commitCtr b n v).ctr.mirrorA = s.ctr.mirrorA := by
  simp only [State.commitCtr]
  split_ifs
  · rfl
  · rw [State.ctr_sealCard]
    exact s.mirrorA_setCounter n _ rfl

@[simp] theorem State.mirrorA_commitSet (s : State) (p : Plan) (thru : Bool) :
    (s.commitSet p thru).2.2.ctr.mirrorA = s.ctr.mirrorA := by
  simp only [State.commitSet, State.ctr_commitPw]
  refine (mirrorA_foldl (fun s t => ?_) _ _).trans (congrArg Counters.mirrorA ?_)
  · split <;> simp
  · exact List.foldlRecOn (motive := fun (acc : List Nat × List (Nat × List Nat) × State) => acc.2.2.ctr = s.ctr) _ _ rfl
      fun acc h n _ => (State.ctr_commitRegion _ _ _ _).trans h

@[simp] theorem State.mirrorA_applyInstall (s : State) (b : BerthId) (c : Cur) :
    (s.applyInstall b c).ctr.mirrorA = s.ctr.mirrorA := by
  simp only [State.applyInstall]
  split <;> simp

@[simp] theorem State.mirrorA_applyGo (s : State) (b : BerthId) (covered : Bool) :
    (s.applyGo b covered).ctr.mirrorA = s.ctr.mirrorA := by
  simp only [State.applyGo]
  split
  · rfl
  · split_ifs <;> simp

theorem State.mirrorA_onFlash (s : State) (b : BerthId) (q : QInstr) {body : State → State}
    (h : ∀ s, (body s).ctr.mirrorA = s.ctr.mirrorA) : (s.onFlash b q body).ctr.mirrorA = s.ctr.mirrorA := by
  unfold State.onFlash
  split_ifs
  · simp
  · split <;> simp [h]

theorem State.mirrorA_askCommit (s : State) (b : BerthId) (c : Cur) {go : Bool → State → State}
    (h : ∀ v s, (go v s).ctr.mirrorA = s.ctr.mirrorA) : (s.askCommit b c go).ctr.mirrorA = s.ctr.mirrorA := by
  simp only [State.askCommit]
  split <;> simp [h]

@[simp] theorem State.mirrorA_applyAsk (s : State) (b : BerthId) (c : Cur) : (s.applyAsk b c).ctr.mirrorA = s.ctr.mirrorA := by
  unfold State.applyAsk
  split
  · simp
  · exact s.mirrorA_onFlash b c.ins fun s => s.mirrorA_askCommit b _ fun cov s => s.mirrorA_applyGo b cov

@[simp] theorem State.mirrorA_applyData (s : State) (b : BerthId) : (s.applyData b).ctr.mirrorA = s.ctr.mirrorA := by
  unfold State.applyData
  split
  · rfl
  · next c _ =>
    have hg := State.ctr_gather ((s.berth b).chunks.length + c.len + 1) b c.len c.len s
    split
    · next h =>
      rw [h] at hg
      split <;> simpa using congrArg Counters.mirrorA hg
    · next h => simpa [h] using congrArg Counters.mirrorA hg
    · next h =>
      rw [h] at hg
      simpa using congrArg Counters.mirrorA hg

/-! ### Settling -/

@[simp] theorem State.mirrorA_proceed (s : State) (b : BerthId) (covered : Bool) :
    (s.proceed b covered).ctr.mirrorA = s.ctr.mirrorA := by
  unfold State.proceed
  split
  · rfl
  · split <;> simp

@[simp] theorem State.mirrorA_dataGo (s : State) (b : BerthId) (op : Nat) : (s.dataGo b op).ctr.mirrorA = s.ctr.mirrorA := by
  unfold State.dataGo
  split <;> simp

theorem State.mirrorA_resumeOne {s t : State} {b : BerthId} (h : s.resumeOne b = some t) : t.ctr.mirrorA = s.ctr.mirrorA := by
  unfold State.resumeOne at h
  split at h
  · split at h
    · split_ifs at h
      simp [← Option.some.inj h]
    · split_ifs at h
      simp [← Option.some.inj h]
    · split_ifs at h
      simp [← Option.some.inj h]
    · split_ifs at h
      simp [← Option.some.inj h]
    · rw [State.ctr_wakeOne h]
  · cases h

theorem State.mirrorA_admitFront {s t : State} (h : s.admitFront = some t) : t.ctr.mirrorA = s.ctr.mirrorA := by
  unfold State.admitFront at h
  split at h
  · split_ifs at h
    split at h
    · simp [← Option.some.inj h]
    · simp [← Option.some.inj h]
  · cases h

theorem State.mirrorA_gateStep {s t : State} (h : s.gateStep = some t) : t.ctr.mirrorA = s.ctr.mirrorA := by
  unfold State.gateStep at h
  split at h
  · split_ifs at h
    split at h
    · split_ifs at h
      · simp [← Option.some.inj h]
      · simp [← Option.some.inj h]
    · cases h
  · simp only at h
    split at h
    · obtain ⟨w, -, rfl⟩ := Option.map_eq_some_iff.1 h
      simp
    · cases h

theorem State.mirrorA_resumeFirst {s t : State} {bs : List BerthId} (h : s.resumeFirst bs = some t) :
    t.ctr.mirrorA = s.ctr.mirrorA := by
  induction bs with
  | nil => cases h
  | cons b r ih =>
    rw [State.resumeFirst] at h
    split at h
    · next hb => exact Option.some.inj h ▸ State.mirrorA_resumeOne hb
    · exact ih h

theorem State.mirrorA_settleOne {s t : State} (h : s.settleOne = some t) : t.ctr.mirrorA = s.ctr.mirrorA := by
  unfold State.settleOne at h
  split_ifs at h
  split at h
  · next ha => exact Option.some.inj h ▸ State.mirrorA_admitFront ha
  · split at h
    · next hg => exact Option.some.inj h ▸ State.mirrorA_gateStep hg
    · split at h
      · next hr => exact Option.some.inj h ▸ State.mirrorA_resumeFirst hr
      · split at h
        · next hw => rw [← Option.some.inj h, State.ctr_sweepStep hw]
        · rw [State.ctr_quiesceStep h]

@[simp] theorem State.mirrorA_settle (n : Nat) (s : State) : (State.settle n s).ctr.mirrorA = s.ctr.mirrorA := by
  induction n generalizing s with
  | zero => rfl
  | succ n ih =>
    rw [State.settle]
    split
    · next h => rw [ih, State.mirrorA_settleOne h]
    · rfl

end Sys2Proof.Machine
end

section
/-! SUPPORT. What a closing step does to mirror A's journal: it may end counter steps, and each lengthens the journal. -/

namespace Sys2Proof.Machine

/-- From `x` to `y` mirror A's journal grew, or its entries and its values stayed. -/
def Counters.Journalled (x y : Counters) : Prop := x.usedA < y.usedA ∨ y.mirrorA = x.mirrorA

theorem Counters.Journalled.of_mirrorA {x y : Counters} (h : y.mirrorA = x.mirrorA) : x.Journalled y := .inr h

theorem Counters.Journalled.of_eq {x y : Counters} (h : y = x) : x.Journalled y := .inr (congrArg Counters.mirrorA h)

theorem Counters.Journalled.refl (x : Counters) : x.Journalled x := .of_eq rfl

theorem Counters.usedA_of_mirrorA {x y : Counters} (h : x.mirrorA = y.mirrorA) : x.usedA = y.usedA := congrArg Prod.fst h

theorem Counters.Journalled.trans {x y z : Counters} (h : x.Journalled y) (k : y.Journalled z) : x.Journalled z := by
  rcases h with h | h
  · rcases k with k | k
    · exact .inl (h.trans k)
    · exact .inl (h.trans_eq (Counters.usedA_of_mirrorA k).symm)
  · rcases k with k | k
    · exact .inl ((Counters.usedA_of_mirrorA h).symm.trans_lt k)
    · exact .inr (k.trans h)

/-- A journal that did not grow holds the values that it held. -/
theorem Counters.Journalled.a_eq {x y : Counters} (h : x.Journalled y) (hu : x.usedA = y.usedA) (n : Fin 32) :
    y.c[n].a = x.c[n].a :=
  h.elim (fun hl => absurd hu hl.ne) fun hm => Counters.a_eq_of_mirrorA hm n

/-! ### Die operations that succeed -/

theorem State.journalled_mirrorDone (s : State) (n : Fin 32) (v : W64) (mirrorB : Bool) :
    s.ctr.Journalled (s.mirrorDone n v mirrorB).ctr := by
  unfold State.mirrorDone
  cases mirrorB with
  | false =>
    refine .inl ?_
    simp only [Bool.false_eq_true, if_false]
    split_ifs <;> exact Nat.lt_succ_self _
  | true =>
    simp only [if_true]
    split_ifs
    · exact .inr (s.mirrorA_setCounter n _ rfl)
    · exact .refl _

theorem State.journalled_dieOk (s : State) (k : DieKind) : s.ctr.Journalled (s.dieOk k).ctr := by
  cases k with
  | ctrMirror n v mb o cost =>
    refine (s.journalled_mirrorDone n v mb).trans (.of_eq ?_)
    simp only [State.dieOk]
    split_ifs <;> simp
  | _ => exact .of_eq (by simp [State.dieOk])

theorem State.journalled_finishWhere (p : DieKind → Bool) (n : Nat) (s : State) :
    s.ctr.Journalled (State.finishWhere p n s).ctr := by
  induction n generalizing s with
  | zero => exact .refl _
  | succ n ih =>
    rw [State.finishWhere]
    split
    · next o _ => exact ((s.dropDie o.id).journalled_dieOk o.kind).trans (ih _)
    · split_ifs
      · exact .refl _
      · exact (Counters.Journalled.of_eq s.ctr_journalCommit).trans (ih _)

theorem State.journalled_finishPromised (n : Nat) (s : State) : s.ctr.Journalled (State.finishPromised n s).ctr :=
  s.journalled_finishWhere _ n

/-! ### Machine checks -/

theorem State.journalled_haltEntry (s : State) (src : Nat) : s.ctr.Journalled (s.haltEntry src).ctr := by
  unfold State.haltEntry
  split
  · exact .refl _
  · extract_lets hup u v n sealed w x flt y z
    have hu : u.ctr = s.ctr := State.ctr_command _ _
    have hv : u.ctr.Journalled v.ctr := by
      simp only [v]
      split_ifs
      · exact u.journalled_finishWhere _ _
      · exact u.journalled_finishPromised _
    have hy : v.ctr.Journalled y.ctr := by
      simp only [y]
      split
      · exact .refl _
      · exact (Counters.Journalled.of_eq (State.ctr_sealCard _ _ _)).trans (w.journalled_finishPromised _)
    refine ((Counters.Journalled.of_eq hu).trans (hv.trans hy)).trans (.of_eq ?_)
    rw [ctr_foldl State.ctr_haltBerth, State.ctr_reportClass, State.ctr_leaveLane]

theorem State.journalled_capture (s : State) (i : Fin 64) (k : Cls) (u : FUnit) (forced : Bool) :
    s.ctr.Journalled (s.capture i k u forced).ctr := by
  unfold State.capture
  extract_lets u x
  split
  next c esc merged _ =>
  extract_lets y flt z w a b
  have hb : b.ctr = s.ctr := by
    rw [State.ctr_reportClass, State.ctr_wakeBy]
    simp only [w]
    split_ifs
    · rfl
    · exact State.ctr_isolate _ _ _
  split_ifs
  · exact (Counters.Journalled.of_eq hb).trans (b.journalled_haltEntry _)
  · exact .of_eq hb

theorem State.journalled_raise (s : State) (i : Fin 64) (k : Cls) (u : FUnit) (forced : Bool) :
    s.ctr.Journalled (s.raise i k u forced).ctr := by
  have h : s.ctr.Journalled ((s.capture i k u forced).cancelDram.cancelShrunk (s.capture i k u forced).resvs.length).ctr :=
    (s.journalled_capture i k u forced).trans (.of_eq (by simp))
  simp only [State.raise]
  split_ifs
  · exact h.trans (State.journalled_capture _ _ _ _ _)
  · exact h

theorem State.journalled_checkLedger (s : State) : s.ctr.Journalled s.checkLedger.ctr := by
  unfold State.checkLedger
  split_ifs
  · exact .refl _
  · exact (s.journalled_raise 5 .degrade .none false).trans (.of_eq (by simp))

theorem State.journalled_checkDebit (before s : State) : s.ctr.Journalled (before.checkDebit s).ctr := by
  unfold State.checkDebit
  split_ifs
  · exact s.journalled_checkLedger
  · exact .refl _

theorem State.journalled_checkLog (before s : State) : s.ctr.Journalled (before.checkLog s).ctr := by
  unfold State.checkLog
  split_ifs
  · exact s.journalled_raise 6 .fence .none false
  · exact .refl _

theorem State.journalled_close (before s : State) : s.ctr.Journalled (before.close s).ctr := by
  unfold State.close
  rw [State.ctr_arrange, State.ctr_returnCredits]
  exact ((before.journalled_checkLog s).trans (.of_mirrorA (State.mirrorA_settle _ _))).trans (before.journalled_checkDebit _)

end Sys2Proof.Machine
end

section
/-! Refutation: media events. -/

namespace Sys2Proof.Machine

/-! The journal moves after every counter is checked. Where the check of a broken counter escalates to HALT, the halt ends the
die operations in flight (R419), and among them a step of another counter: the new block then holds the counter's later value. -/

/-- Mirror A's journal is full and the log is spent. Counter 0 has lost both mirrors, and its source already shows FENCE, so that
the next one escalates (R417); a step of counter 1 from 0 to 7 is in flight in mirror A. -/
def State.midStep : State := { State.reset with
  rst := { State.reset.rst with power := .on, phase := .running }
  ctr := { Counters.init with
           usedA := 12288
           c := (Vector.replicate 32 Counter.init).set 0 { Counter.init with a := none, b := none }
           fence := 0xFFFFFFFE }
  flt := { State.reset.flt with
           src := State.reset.flt.src.set 5 { sticky := true, cls := .fence, count := 0, ceil := 3 }
           reported := some .halt }
  dies := [{ id := 0, kind := .ctrMirror 1 7 false none 0, need := [], run := false, suspended := false }]
  log := { State.reset.log with full := true, spent := true } }

theorem State.midStep_alive : State.midStep.alive = true := rfl

theorem State.midStep_value : (State.midStep.counter 1).value = some 0 := by decide +kernel

/-- The check of counter 0 halts the cartridge, and the halt ends counter 1's step. -/
theorem State.midStep_checkCounter : ((State.midStep.checkCounter 0).ctr.fence = BitVec.allOnes 32 ∧
    (State.midStep.checkCounter 0).flt.halted = true ∧ (State.midStep.checkCounter 0).hup.debit.ok = true) ∧
    ((State.midStep.checkCounter 0).counter 1).value = some 7 := by
  decide +kernel

theorem State.checkCounter_of_fence {s : State} (h : s.ctr.fence = BitVec.allOnes 32) (n : Fin 32) : s.checkCounter n = s := by
  have hb : bit s.ctr.fence n = true := by
    rw [h]
    revert n
    decide
  unfold State.checkCounter
  exact if_pos hb

theorem State.checkAll_of_fence {s : State} (h : s.ctr.fence = BitVec.allOnes 32) (ns : List (Fin 32)) :
    ns.foldl State.checkCounter s = s :=
  List.foldl_fixed' (State.checkCounter_of_fence h) ns

theorem State.midStep_checkAll : (List.finRange 32).foldl State.checkCounter State.midStep = State.midStep.checkCounter 0 := by
  rw [List.finRange_succ, List.foldl_cons]
  exact State.checkAll_of_fence State.midStep_checkCounter.1.1 _

/-- The new block's entry of a counter whose value is `v`, once every counter is checked. -/
theorem State.switchJournal_a (s : State) (n : Fin 32) (v : W64)
    (h : (((List.finRange 32).foldl State.checkCounter s).counter n).value = some v) :
    (s.switchJournal false).ctr.c[n].a = some (Pair.mk' v) := by
  have hv : ((List.finRange 32).foldl State.checkCounter s).ctr.c[n.val].value = some v := h
  simp [State.switchJournal, hv]

theorem State.switchJournal_flt (s : State) (mirrorB : Bool) :
    (s.switchJournal mirrorB).flt = ((List.finRange 32).foldl State.checkCounter s).flt := rfl

theorem State.switchJournal_hup (s : State) (mirrorB : Bool) :
    (s.switchJournal mirrorB).hup = ((List.finRange 32).foldl State.checkCounter s).hup := rfl

theorem State.switchJournal_usedA (s : State) : (s.switchJournal false).ctr.usedA = 32 := rfl

theorem exec_counterJournalSwitch_A {s : State} (ha : s.alive = true) (hl : s.ctr.liveA = true) (hu : 12288 ≤ s.ctr.usedA) :
    exec (.counterJournalSwitch false) s = .next (s.close (s.switchJournal false)) := by
  change execCounterJournalSwitch false s = _
  simp [execCounterJournalSwitch, settled, ha, hl, hu]

theorem State.settle_of_halted {s : State} (h : s.flt.halted = true) (n : Nat) : State.settle n s = s := by
  cases n with
  | zero => rfl
  | succ n =>
    rw [State.settle, State.settleOne, if_pos h]

theorem State.checkDebit_of_ok (before : State) {s : State} (h : s.hup.debit.ok = true) : before.checkDebit s = s := by
  simp [State.checkDebit, h]

theorem State.checkLog_of_spent {before : State} (hf : before.log.full = true) (he : before.log.exhausted = true) (s : State) :
    before.checkLog s = s := by
  simp [State.checkLog, hf, he]

/-- Where the log was spent before and the cartridge is halted, the end of a command steps no counter. -/
theorem State.ctr_close_of_halted {before s : State} (hf : before.log.full = true) (he : before.log.exhausted = true)
    (hh : s.flt.halted = true) (hd : s.hup.debit.ok = true) : (before.close s).ctr = s.ctr := by
  rw [State.close, State.checkLog_of_spent hf he, State.settle_of_halted hh, State.checkDebit_of_ok before hd,
    State.ctr_arrange, State.ctr_returnCredits]

theorem State.midStep_close : (State.midStep.close (State.midStep.switchJournal false)).ctr =
    (State.midStep.switchJournal false).ctr := by
  obtain ⟨⟨-, hh, hd⟩, -⟩ := State.midStep_checkCounter
  refine State.ctr_close_of_halted rfl (by decide) ?_ ?_
  · rw [State.switchJournal_flt, State.midStep_checkAll, hh]
  · rw [State.switchJournal_hup, State.midStep_checkAll, hd]

/-- Refutes O41: the new block of a journal that moves need not hold the value that a counter had before. From `State.midStep`
the check of counter 0 halts the cartridge, and the halt ends the step of counter 1, so that its entry is 7 and not 0. No other
state fits the clause: from a block of 32 entries that holds 0, a close keeps the 0 or lengthens the journal. -/
theorem not_mediaEvents : ¬ Obligations.MediaEvents := by
  unfold Obligations.MediaEvents
  rintro ⟨-, -, -, -, -, -, hswitch, -⟩
  obtain ⟨u, hexec, hused, hval⟩ := (hswitch State.midStep State.midStep_alive).1 rfl le_rfl
  have hclose : State.midStep.close (State.midStep.switchJournal false) = State.midStep.close u :=
    Host.Outcome.next.inj ((exec_counterJournalSwitch_A State.midStep_alive rfl le_rfl).symm.trans hexec)
  have hj : u.ctr.Journalled (State.midStep.switchJournal false).ctr := by
    rw [← State.midStep_close, hclose]
    exact State.journalled_close _ _
  have hnew : (State.midStep.switchJournal false).ctr.c[(1 : Fin 32)].a = some (Pair.mk' 7) := by
    refine State.switchJournal_a _ 1 7 ?_
    rw [State.midStep_checkAll]
    exact State.midStep_checkCounter.2
  have hold : (u.counter 1).a = some (Pair.mk' 0) := hval 1 0 State.midStep_value
  have h := hj.a_eq (hused.trans (State.switchJournal_usedA _).symm) 1
  rw [hnew] at h
  exact absurd (h.trans hold) (by decide)

end Sys2Proof.Machine
end

section
/-! SUPPORT. Time observed, and what an event moves (R58, R163). -/

namespace Sys2Proof.Machine

/-- An event observes the time, stands in every berth's pending set, and may go up the path (R163). -/
theorem State.raiseEvent_spec (s : State) (code : Nat) (arg : W32) (src : Option BerthId) : ∃ w n l,
    s.raiseEvent code arg src = { s.elapse with berths := s.berths.map fun x => x.pendEvent code w, nar := n, lnk := l } := by
  unfold State.raiseEvent
  extract_lets u n v
  split_ifs
  · obtain ⟨x, y, h, -⟩ := v.sendUp_spec
      { berth := BitVec.ofNat 16 n, tag := 0, body := .event { code := BitVec.ofNat 8 code, arg, time := v.now, qual := v.tim.qual } }
    exact ⟨_, x, y, h⟩
  · exact ⟨_, _, _, rfl⟩

@[simp] theorem State.tim_raiseEvent (s : State) (code : Nat) (arg : W32) (src : Option BerthId) :
    (s.raiseEvent code arg src).tim = s.elapse.tim := by
  obtain ⟨w, n, l, h⟩ := s.raiseEvent_spec code arg src
  rw [h]

@[simp] theorem State.pmu_raiseEvent (s : State) (code : Nat) (arg : W32) (src : Option BerthId) :
    (s.raiseEvent code arg src).pmu = s.pmu := by
  obtain ⟨w, n, l, h⟩ := s.raiseEvent_spec code arg src
  rw [h]
  rfl

@[simp] theorem State.state_raiseEvent (s : State) (code : Nat) (arg : W32) (src : Option BerthId) (b : BerthId) :
    ((s.raiseEvent code arg src).berth b).state = (s.berth b).state := by
  obtain ⟨w, n, l, h⟩ := s.raiseEvent_spec code arg src
  rw [h]
  simp [State.berth, Berth.pendEvent]

end Sys2Proof.Machine
end

section
/-! SUPPORT. A stopped berth (R151). -/

namespace Sys2Proof.Machine

@[simp] theorem State.berth_sendUp (s : State) (p : UpParcel) (b : BerthId) : (s.sendUp p).berth b = s.berth b := by
  obtain ⟨x, y, h, -⟩ := s.sendUp_spec p
  rw [h]
  rfl

@[simp] theorem State.state_sendCompletion (s : State) (b : BerthId) (tag : W16) (op : Byte) (st : Status) (done : Nat)
    (first : Option Nat) (res : W64) : ((s.sendCompletion b tag op st done first res).berth b).state = (s.berth b).state := by
  simp [State.sendCompletion, Berth.record]

@[simp] theorem State.berth_discard (s : State) (n : Nat) (b : BerthId) : (s.discard n).berth b = s.berth b := rfl

@[simp] theorem State.state_dropChunks (s : State) (b : BerthId) (p : Chunk → Bool) :
    ((s.dropChunks b p).berth b).state = (s.berth b).state := by
  simp [State.dropChunks]

@[simp] theorem State.state_flushQueue (s : State) (b : BerthId) (l : List QInstr) :
    ((s.flushQueue b l).berth b).state = (s.berth b).state := by
  induction l generalizing s with
  | nil => rfl
  | cons q r ih => simp [State.flushQueue, ih]

theorem State.state_stopBerth (s : State) (b : BerthId) (st : Status) : ((s.stopBerth b st).berth b).state = .stopped := by
  simp only [State.stopBerth, State.state_dropChunks]
  split <;> simp

/-- HALT stops the berth that it completes in (R151). -/
theorem State.state_finish_halt (s : State) (b : BerthId) {q : QInstr} (h : q.op = 1) :
    ((s.finish b q .ok).berth b).state = .stopped := by
  rw [State.finish, State.finishAt_eq, State.concludes]
  simp [h, State.state_stopBerth]

end Sys2Proof.Machine
end

section
/-! PROOFS. The control family (O26). -/

namespace Sys2Proof.Machine

theorem State.checked_of_ok {ok : Bool} (h : ok = true) (s : State) (b : BerthId) (q : QInstr) (body : State → State) :
    s.checked b q ok body = body s := if_pos h

theorem State.checked_of_bad {ok : Bool} (h : ok = false) (s : State) (b : BerthId) (q : QInstr) (body : State → State) :
    s.checked b q ok body = s.finish b q .badField := by simp [State.checked, h]

section
variable {s : State} {b : BerthId} {q : QInstr} (h : s.mayRun b q)
include h

/-- The turn of an instruction with a known opcode, its fields right: its body runs on the state with the turn taken. -/
theorem runTurn_checked {op : Byte} (ho : q.op = op) (hk : knownOp op = true) {fs : List (Nat × Nat)} (hf : q.only fs = true)
    (body : QInstr → State → State) : (runTurn b op s fun q s => s.checked b q (q.only fs) (body q)) =
      .next ((body q (s.takeTurn b q)).wakeAll 512) := by
  subst ho
  rw [runTurn_of_mayRun h hk, State.checked_of_ok hf]

theorem exec_nop_of_mayRun (ho : q.op = 0) (hf : q.only [] = true) :
    exec (.nop b) s = .next (((s.takeTurn b q).finish b q .ok).wakeAll 512) :=
  runTurn_checked h ho rfl hf fun q s => s.finish b q .ok

theorem exec_halt_of_mayRun (ho : q.op = 1) (hf : q.only [] = true) :
    exec (.halt b) s = .next (((s.takeTurn b q).finish b q .ok).wakeAll 512) :=
  runTurn_checked h ho rfl hf fun q s => s.finish b q .ok

theorem exec_waitt_of_mayRun (ho : q.op = 7) (hf : q.only [fSrcA, (40, 1), (0, 32)] = true) :
    exec (.waitt b) s = .next (State.wakeAll 512 (
      if q.modeBit 0 then (s.takeTurn b q).waitFor b .waitt { Cur.init q .waitt with target := ((s.berth b).reg q.srcA).toNat }
      else if q.imm 0 32 = 0 then (s.takeTurn b q).finish b q .ok
      else (s.takeTurn b q).waitFor b .waitt { Cur.init q .waitt with target := q.imm 0 32 })) :=
  runTurn_checked h ho rfl hf _

/-- The berth as WAITE looks at it: CLR has cleared the named events first (R185). -/
def State.clearPending (s : State) (b : BerthId) (q : QInstr) : State :=
  if q.modeBit 0 then s.modBerth b fun x => { x with pend := x.pend &&& ~~~(q.word.setWidth 16) } else s

/-- WAITE once its fields are right: a pending event is taken at once, else the berth waits (R185). -/
def State.waiteBody (s : State) (b : BerthId) (q : QInstr) : State :=
  match lowestBit ((s.berth b).pend &&& q.word.setWidth 16) with
  | some i => s.takeEvent b q i
  | none => s.waitFor b .waite { Cur.init q .waite with target := q.imm 16 24 }

theorem exec_waite_of_mayRun (ho : q.op = 8) : exec (.waite b) s = .next (State.wakeAll 512 ((s.takeTurn b q).checked b q
    (q.only [fDst, (40, 1), (0, 40)] && !(q.imm 0 16 == 0 && q.imm 16 24 == 0)) fun s => (s.clearPending b q).waiteBody b q)) := by
  have hk : knownOp q.op = true := by rw [ho]; rfl
  rw [exec, execWaite, ← ho, runTurn_of_mayRun h hk]
  rfl

theorem exec_waite_of_named (ho : q.op = 8) (hf : q.only [fDst, (40, 1), (0, 40)] = true)
    (hi : q.imm 0 16 ≠ 0 ∨ q.imm 16 24 ≠ 0) :
    exec (.waite b) s = .next ((((s.takeTurn b q).clearPending b q).waiteBody b q).wakeAll 512) := by
  rw [exec_waite_of_mayRun h ho, State.checked_of_ok]
  simpa [hf, imp_iff_not_or] using hi

theorem exec_signal_of_mayRun (ho : q.op = 9) (hf : q.only [fSrcA, (40, 1), (0, 32)] = true) :
    exec (.signal b) s = .next ((((s.takeTurn b q).raiseEvent 1
      (if q.modeBit 0 then q.word.setWidth 32 else ((s.berth b).reg q.srcA).setWidth 32) (some b)).finish b q .ok).wakeAll 512) :=
  runTurn_checked h ho rfl hf _

theorem exec_order_of_mayRun (ho : q.op = 10) (hf : q.only [fSrcA, (0, 9)] = true) :
    exec (.order b) s = .next (State.wakeAll 512 (
      let t := berthOf (q.imm 0 9)
      let c := ((s.berth b).reg q.srcA).toNat % 2 ^ 32
      if t = b ∨ orderReached s t c then (s.takeTurn b q).finish b q .ok
      else if orderBroken (s.berth t) ∨ (s.berth t).onOrder then (s.takeTurn b q).finish b q .wrongState
      else (s.takeTurn b q).waitFor b .order { Cur.init q .order with target := c })) :=
  runTurn_checked h ho rfl hf _

end

/-- Settles O26: each instruction's own rules run on the state with its turn taken, and each wait ends by its mark. -/
theorem controlCompletes : Obligations.ControlCompletes := by
  unfold Obligations.ControlCompletes
  refine ⟨fun s b q h => ?_, fun s b c hc hw ha => ⟨fun hp => ?_, fun hp => ?_⟩⟩
  · refine ⟨exec_nop_of_mayRun h, fun ho hf => ⟨_, exec_halt_of_mayRun h ho hf, State.state_finish_halt _ b ho⟩,
      fun ho hf hm hi => ?_, fun ho hf hm hi => ?_, fun ho hf hm => ?_, fun i ho hf hi he => ?_, fun ho hf hi he => ?_,
      fun ho hf hi hj => ?_, exec_signal_of_mayRun h, fun ho hf => ⟨fun hr => ?_, fun ht hr hb => ?_, fun ht hr hb hw => ?_⟩⟩
    · rw [exec_waitt_of_mayRun h ho hf]
      simp [hm, hi]
    · rw [exec_waitt_of_mayRun h ho hf]
      simp [hm, hi]
    · rw [exec_waitt_of_mayRun h ho hf]
      simp [hm]
    · rw [exec_waite_of_named h ho hf hi, State.waiteBody, State.clearPending, he]
    · rw [exec_waite_of_named h ho hf hi, State.waiteBody, State.clearPending, he]
    · rw [exec_waite_of_mayRun h ho, State.checked_of_bad (by simp [hi, hj])]
    · rw [exec_order_of_mayRun h ho hf]
      simp only [if_pos hr]
    · rw [exec_order_of_mayRun h ho hf]
      simp only [ht, hr, hb, Bool.false_eq_true, or_self, if_false, if_true]
    · rw [exec_order_of_mayRun h ho hf]
      simp only [ht, hr, hb, hw, Bool.false_eq_true, or_self, if_false]
  · simp [exec, execWaittWake, hc, hw, ha, hp, answer]
  · simp [exec, execWaiteTimeout, hc, hw, ha, hp, answer]

end Sys2Proof.Machine
end

section
/-! PROOFS. Registers and the values after reset (O42, O51). -/

namespace Sys2Proof.Machine

theorem bit_setBit {w i : Nat} (h : i < w) (v : BitVec w) : bit (setBit v i) i = true := by
  rw [bit, setBit, BitVec.getLsbD_or, BitVec.getLsbD_ofNat, Nat.testBit_two_pow_self]
  simp [h]

/-- A counter in service whose mirrors hold is read without consequence (R28). -/
theorem State.checkCounter_of_good {s : State} {n : Fin 32} {v : W64} (hv : (s.counter n).value = some v)
    (ha : badPair (s.counter n).a = false) (hb : badPair (s.counter n).b = false) : s.checkCounter n = s := by
  unfold State.checkCounter
  simp [hv, ha, hb]

theorem State.checkLedger_of_ok {s : State} (h : s.hup.pairsOk = true) : s.checkLedger = s := if_pos h

theorem State.latchCounter_of_good {s : State} {v : W64}
    (hv : (s.counter (Fin.ofNat 32 (bits s.ctr.sel 0 5))).value = some v)
    (ha : badPair (s.counter (Fin.ofNat 32 (bits s.ctr.sel 0 5))).a = false)
    (hb : badPair (s.counter (Fin.ofNat 32 (bits s.ctr.sel 0 5))).b = false) :
    s.latchCounter = { s with ctr := { s.ctr with snap := Pair.mk' v } } := by
  simp only [State.latchCounter]
  rw [State.checkCounter_of_good hv ha hb, hv]

/-- The flip-mask arms for a mask of data bits, where the memory takes one (R347, R348). -/
theorem State.armFlip_of_mask {s : State} {m : Fin 10} (hm : s.memSel = some m) (hf : bits (s.memOf m).flipMask 0 8 ≠ 0)
    (h7 : m.val ≠ 7) (h8 : m.val ≠ 8) (h0 : m.val = 0 → writeShareWords ≤ (s.memOf m).flipAddr.toNat) :
    s.armFlip.2 = s.setMem m { s.memOf m with flipArmed := true } := by
  have hs : ¬(m.val = 0 ∧ (s.memOf m).flipAddr.toNat < writeShareWords) := fun h => absurd h.2 (h0 h.1).not_gt
  simp only [State.armFlip, hm, hf, h7, h8, hs, false_and, or_self, if_false]

/-- Memories 7 and 8 take no flip-mask (R347). -/
theorem State.armFlip_of_rom {s : State} {m : Fin 10} (hm : s.memSel = some m) (h : m.val = 7 ∨ m.val = 8) :
    s.armFlip.2 = s := by
  have hr : m.val = 7 ∨ m.val = 8 ∨ (m.val = 0 ∧ (s.memOf m).flipAddr.toNat < writeShareWords) := h.imp_right .inl
  simp only [State.armFlip, hm, if_pos hr, ite_self]

/-- The backup pair is committed where its halves agree (R15, R414). -/
theorem State.bkWrite_of_pair {s : State} (hi : 4 ≤ s.bkIndex.val)
    (h : s.rst.bkch ++ s.rst.bkcl = ~~~(s.rst.bkh ++ s.rst.bkl)) :
    s.bkWrite.2 = { s with rst := { s.rst with
      bk := s.rst.bk.set s.bkIndex.val (Pair.mk' (s.rst.bkh ++ s.rst.bkl)) s.bkIndex.isLt
      bkValid := setBit s.rst.bkValid s.bkIndex.val } } := by
  have hp : Pair.mk (s.rst.bkh ++ s.rst.bkl) (s.rst.bkch ++ s.rst.bkcl) = Pair.mk' (s.rst.bkh ++ s.rst.bkl) := by rw [h]; rfl
  simp only [State.bkWrite, if_neg hi.not_gt, hp, Pair.ok_mk]
  rfl

theorem State.bkIndex_val (s : State) : s.bkIndex.val = s.rst.bkSel.toNat := Nat.mod_eq_of_lt s.rst.bkSel.isLt

/-- Settles O42: under its conditions each command answers with the state that its named operation gives. -/
theorem registerCommands : Obligations.RegisterCommands := by
  unfold Obligations.RegisterCommands
  intro s h
  refine ⟨if_pos h, fun v _ hv ha hb => ?_, if_pos h, fun hp => ?_, if_pos h, ⟨_, if_pos h, ?_⟩, fun m hm hf h7 h8 h0 => ?_,
    fun m hm hr => ?_, fun a v ha => ?_, fun hi hp => ?_, fun hp => ?_, fun op => ?_⟩
  · rw [exec, execCtrVallRead, if_pos h, State.latchCounter_of_good hv ha hb, settled]
  · rw [exec, execHupEuRead, if_pos h, State.checkLedger_of_ok hp, settled, State.latchEu]
  · exact ⟨rfl, rfl, rfl, rfl, rfl, rfl, rfl, rfl, rfl, rfl⟩
  · rw [exec, execMemFlipctlArm, if_pos h, State.armFlip_of_mask hm hf h7 h8 h0]
  · rw [exec, execMemFlipctlArm, if_pos h, State.armFlip_of_rom hm hr]
  · rw [exec, execRegisterWrite, if_pos h, State.ctlWrite, if_pos ha, settled]
  · rw [← s.bkIndex_val] at hi ⊢
    refine ⟨_, (if_pos h).trans (congrArg (settled s) (State.bkWrite_of_pair hi hp)), ?_, bit_setBit s.bkIndex.isLt _⟩
    exact Vector.getElem_set_self _
  · rw [exec, execRstBklRead, if_pos h, State.bkLatch, if_pos hp, settled]
  · rw [exec, execTapInstruction, if_pos rfl]

/-- Every register of a berth that nothing has written holds 0 (R143). -/
theorem Berth.reg_init (i : Nat) : Berth.init.reg i = 0 := by
  have h : i % 16 < 16 := Nat.mod_lt _ (by decide)
  simp [Berth.reg, Berth.init, Vector.getD, h]

/-- Settles O51: every berth after reset is a fresh one, and the rest is read off the state. -/
theorem resetState : Obligations.ResetState := by
  unfold Obligations.ResetState
  have hb : ∀ b, State.reset.berth b = Berth.init := fun b => Vector.getElem_replicate b.isLt
  refine ⟨rfl, State.reset_memWf, rfl, rfl, rfl, rfl, rfl, rfl, rfl, rfl, rfl, by decide, rfl, rfl, rfl, rfl, rfl, rfl, rfl,
    rfl, rfl, rfl, fun b => ?_⟩
  rw [hb]
  exact ⟨rfl, rfl, rfl, rfl, fun i => Berth.reg_init i⟩

end Sys2Proof.Machine
end

section
/-! SUPPORT. The servo and the quality of time (R62, R65, R67). -/

namespace Sys2Proof.Machine

@[simp] theorem State.quality_setQuality (s : State) (q : Quality) : (s.setQuality q).tim.quality = q := by
  unfold State.setQuality
  split_ifs with h
  · exact h.symm
  · rw [State.tim_raiseEvent]
    rfl

@[simp] theorem State.qualified_setQuality (s : State) (q : Quality) : (s.setQuality q).tim.qualified = s.tim.qualified := by
  unfold State.setQuality
  split_ifs
  · rfl
  · rw [State.tim_raiseEvent]
    rfl

/-- What the time of a marker leaves to be read: its number, the count of those accepted, the last offset (Table TIDE-9). -/
def Tim.account (t : Tim) : Byte × W32 × Int := (t.htSeq, t.mkAcc, t.offset)

@[simp] theorem State.account_setQuality (s : State) (q : Quality) : (s.setQuality q).tim.account = s.tim.account := by
  unfold State.setQuality
  split_ifs
  · rfl
  · rw [State.tim_raiseEvent]
    rfl

theorem State.account_useMarker (s : State) (o : Int) (lane : Bool) : (s.useMarker o lane).tim.account = s.tim.account := by
  unfold State.useMarker
  extract_lets t f u
  have hu : u.tim.account = s.tim.account := rfl
  split_ifs
  · rw [State.account_setQuality, hu]
  · exact hu

theorem State.account_servo (s : State) (o : Int) (lane : Bool) : (s.servo o lane).tim.account = s.tim.account := by
  simp only [State.servo]
  split_ifs
  · exact State.account_setQuality _ _
  · exact State.account_setQuality _ _
  · rfl
  · exact s.account_useMarker o lane

/-! ### The time of a marker (R62) -/

theorem State.markerTime_of_unmatched {s : State} {n : Byte} (h : (s.tim.marks.find? fun m => m.number == n) = none) (time : W64) :
    s.markerTime time n = s.lateMarker := by
  simp only [State.markerTime, h]

theorem State.account_markerTime {s : State} {m : Marker} {n : Byte}
    (h : (s.tim.marks.find? fun m => m.number == n) = some m) (hd : m.dropped = false) (hs : s.tim.step = none) (time : W64) :
    (s.markerTime time n).tim.account = (s.tim.htSeq, satInc s.tim.mkAcc, (m.instant.toNat : Int) - (time.toNat : Int)) := by
  simp only [State.markerTime, h, hd, hs, Option.isSome_none, Bool.false_eq_true, or_self, if_false, State.account_servo]
  rfl

theorem State.htSeq_markerTime (s : State) (time : W64) (n : Byte) : (s.markerTime time n).tim.htSeq = s.tim.htSeq := by
  simp only [State.markerTime]
  split
  · rfl
  · split_ifs
    · rfl
    · exact congrArg Prod.fst (State.account_servo _ _ _)

end Sys2Proof.Machine
end

section
/-! PROOFS. Markers, snapshots and the alarm (O21). -/

namespace Sys2Proof.Machine

/-- A marker joins those whose times may come (R60). -/
theorem State.marks_seeMarker (s : State) (lane : Bool) (n : Byte) (latency : W16) : ∃ m,
    (s.seeMarker lane n latency).tim.marks = s.tim.marks ++ [m] ∧ m.number = n ∧ m.lane = lane ∧
    m.instant = (s.seeMarker lane n latency).tim.counter - latency.setWidth 64 := ⟨_, rfl, rfl, rfl, rfl⟩

theorem State.wakeSrc_wakeBy (s : State) (src : Nat) (ds : List (Fin 16)) :
    (s.wakeBy src ds).pmu.wakeSrc = setBit s.pmu.wakeSrc src := by
  simp only [State.wakeBy, State.refuseReq]
  split_ifs <;> rfl

theorem State.tim_wakeBy (s : State) (src : Nat) (ds : List (Fin 16)) : (s.wakeBy src ds).tim = s.tim := by
  simp only [State.wakeBy, State.refuseReq]
  split_ifs <;> rfl

/-- The alarm that fires disarms and is recorded as wake source 5 (R206). -/
theorem State.fireAlarm_spec (s : State) :
    s.fireAlarm.tim.armed = false ∧ s.fireAlarm.tim.fired = true ∧ bit s.fireAlarm.pmu.wakeSrc 5 = true := by
  simp only [State.fireAlarm, State.tim_raiseEvent, State.pmu_raiseEvent, State.wakeSrc_wakeBy, State.elapse, State.tim_wakeBy,
    true_and]
  exact bit_setBit (by decide) _

theorem bne_zero_eq_decide_toNat (v : W64) : (v != 0) = decide (v.toNat ≠ 0) := by
  rw [Bool.eq_iff_iff, bne_iff_ne, decide_eq_true_iff, ne_eq, ne_eq, ← BitVec.toNat_inj]
  rfl

/-- Settles O21: each command answers with the named operation of the time, whose fields read so. -/
theorem timeCommands : Obligations.TimeCommands := by
  unfold Obligations.TimeCommands
  refine ⟨⟨fun s ha hp hm => ?_, fun s n hl => ?_, fun s n ha => ?_⟩, fun s ha => ?_, fun s ha => ?_, fun t => rfl,
    fun s hr ho hd => ?_⟩
  · obtain ⟨m, hm', hn, hl, hi⟩ := s.marks_seeMarker false s.tim.markers Config.rxlatNarrow
    exact ⟨_, if_pos ⟨ha, hp, .inl hm⟩, rfl, m, hm', hn, hl, hi⟩
  · obtain ⟨m, hm, hn, hm', -⟩ := s.marks_seeMarker true n Config.rxlatLane
    refine ⟨_, (if_pos hl).trans ?_, rfl, m, hm, hn, hm'⟩
    rw [if_pos rfl, settled]
  · refine ⟨_, if_pos ha, State.htSeq_markerTime _ _ _, fun hu => ?_, fun m hm hd hs => ?_⟩
    · have h := State.markerTime_of_unmatched (s := { s with tim := { s.tim with htSeq := n } }) hu (s.tim.hth ++ s.tim.htl)
      exact ⟨congrArg (fun u => u.tim.mkLate) h, congrArg (fun u => u.tim.mkAcc) h⟩
    · have h := State.account_markerTime (s := { s with tim := { s.tim with htSeq := n } }) hm hd hs (s.tim.hth ++ s.tim.htl)
      exact ⟨congrArg (fun x => x.2.1) h, congrArg (fun x => x.2.2) h⟩
  · exact ⟨_, if_pos ha, rfl, rfl⟩
  · exact ⟨_, if_pos ha, rfl, bne_zero_eq_decide_toNat _⟩
  · refine ⟨s.fireAlarm, ?_, s.fireAlarm_spec⟩
    simp [exec, execAlarmFire, hr, hd, ho, settled]

end Sys2Proof.Machine
end

section
/-! SUPPORT. What the operations of the machine leave of the time: all of it but the counter, which runs on as time is observed
(R58). One lemma for each operation that a tide boundary can reach. -/

namespace Sys2Proof.Machine

/-- The time without its counter, which moves whenever it is observed. -/
def Tim.still (t : Tim) : Tim := { t with counter := 0, opened := false }

@[simp] theorem State.still_elapse (s : State) : s.elapse.tim.still = s.tim.still := rfl

@[simp] theorem still_foldl {α : Type} {f : State → α → State} (h : ∀ s a, (f s a).tim.still = s.tim.still)
    (l : List α) (s : State) : (l.foldl f s).tim.still = s.tim.still := by
  induction l generalizing s with
  | nil => rfl
  | cons a r ih => rw [List.foldl_cons, ih, h]

@[simp] theorem still_foldl_snd {α β : Type} {f : β × State → α → β × State}
    (h : ∀ p a, (f p a).2.tim.still = p.2.tim.still) (l : List α) (p : β × State) :
    (l.foldl f p).2.tim.still = p.2.tim.still := by
  induction l generalizing p with
  | nil => rfl
  | cons a r ih => rw [List.foldl_cons, ih, h]

/-! ### Machine.Ops -/

@[simp] theorem State.still_drainUp (n : Nat) (s : State) : (State.drainUp n s).tim.still = s.tim.still := by
  obtain ⟨x, y, h, -⟩ := State.drainUp_spec n s
  rw [h]

@[simp] theorem State.still_sendUp (s : State) (p : UpParcel) : (s.sendUp p).tim.still = s.tim.still := by
  simp [State.sendUp]

@[simp] theorem State.still_sendCompletion (s : State) (b : BerthId) (tag : W16) (op : Byte) (st : Status) (done : Nat)
    (first : Option Nat) (res : W64) : (s.sendCompletion b tag op st done first res).tim.still = s.tim.still := by
  simp [State.sendCompletion]

@[simp] theorem State.still_dropChunks (s : State) (b : BerthId) (p : Chunk → Bool) :
    (s.dropChunks b p).tim.still = s.tim.still := rfl

@[simp] theorem State.still_leaveData (s : State) (b : BerthId) (q : QInstr) (took : Bool) :
    (s.leaveData b q took).tim.still = s.tim.still := rfl

@[simp] theorem State.still_flushQueue (s : State) (b : BerthId) (qs : List QInstr) :
    (s.flushQueue b qs).tim.still = s.tim.still := by
  induction qs generalizing s with
  | nil => rfl
  | cons q r ih =>
    rw [State.flushQueue, ih]
    simp

@[simp] theorem State.still_stopBerth (s : State) (b : BerthId) (st : Status) : (s.stopBerth b st).tim.still = s.tim.still := by
  simp only [State.stopBerth]
  split <;> simp

@[simp] theorem State.still_rest (s : State) (b : BerthId) : (s.rest b).tim.still = s.tim.still := by
  simp only [State.rest]
  split <;> simp

@[simp] theorem State.still_stopHere (s : State) (b : BerthId) : (s.stopHere b).tim.still = s.tim.still := by
  simp only [State.stopHere]
  split <;> simp

theorem State.still_concludes (s : State) (b : BerthId) (q : QInstr) (st : Status) (done : Nat) (first : Option Nat)
    (res : Option W64) (pc : Nat) : (s.concludes b q st done first res pc).tim.still = s.tim.still := by
  unfold State.concludes
  extract_lets u x
  have hu : u.tim.still = s.tim.still := by
    simp only [u]
    split_ifs <;> simp
  split_ifs <;> simp [hu]

@[simp] theorem State.still_finishAt (s : State) (b : BerthId) (q : QInstr) (st : Status) (done : Nat) (first : Option Nat)
    (res : Option W64) (pc : Nat) : (s.finishAt b q st done first res pc).tim.still = s.tim.still := by
  rw [State.finishAt_eq, State.still_concludes]
  simp [State.leaves, State.countThru]

@[simp] theorem State.still_finish (s : State) (b : BerthId) (q : QInstr) (st : Status) (done : Nat) (first : Option Nat)
    (res : Option W64) : (s.finish b q st done first res).tim.still = s.tim.still := by
  simp [State.finish]

/-! ### Machine.PowerOps -/

@[simp] theorem State.still_refuseReq (s : State) (reason : Nat) : (s.refuseReq reason).tim.still = s.tim.still := by
  unfold State.refuseReq
  split <;> simp

@[simp] theorem State.still_wakeBy (s : State) (src : Nat) (ds : List (Fin 16)) :
    (s.wakeBy src ds).tim.still = s.tim.still := by
  simp only [State.wakeBy]
  split_ifs <;> simp

@[simp] theorem State.still_demand (s : State) (ds : List (Fin 16)) : (s.demand ds).tim.still = s.tim.still := by
  simp only [State.demand]
  split <;> simp

/-! ### Machine.Ledger -/

@[simp] theorem State.still_ledgerUpdate (s : State) : s.ledgerUpdate.tim.still = s.tim.still := by
  simp only [State.ledgerUpdate]
  split <;> simp

@[simp] theorem State.still_debitBy (s : State) (n : Nat) : (s.debitBy n).tim.still = s.tim.still := rfl

@[simp] theorem State.still_admitItem (s : State) (k : ItemKind) (cost : Nat) :
    (s.admitItem k cost).tim.still = s.tim.still := rfl

@[simp] theorem State.still_creditItem (s : State) (k : ItemKind) (cost : Nat) :
    (s.creditItem k cost).tim.still = s.tim.still := rfl

/-! ### Machine.LogOps -/

@[simp] theorem State.still_command (s : State) (e : CartridgeEvent) : (s.command e).tim.still = s.tim.still := by
  unfold State.command
  split <;> simp

@[simp] theorem State.still_sealRec (s : State) (r : ToSeal) : (s.sealRec r).tim.still = s.tim.still := by
  simp only [State.sealRec]
  split_ifs <;> simp

@[simp] theorem State.still_sealCard (s : State) (typ : W16) (payload : List Byte) :
    (s.sealCard typ payload).tim.still = s.tim.still := by
  unfold State.sealCard
  split <;> simp

@[simp] theorem State.still_startCheckpoint (s : State) (owner : Option BerthId) (cost : Nat) :
    (s.startCheckpoint owner cost).tim.still = s.tim.still := by
  simp [State.startCheckpoint]

/-! ### Machine.MediaOps -/

@[simp] theorem State.still_putUnit (s : State) (k : Nat) (u : MUnit) : (s.putUnit k u).tim.still = s.tim.still := rfl

@[simp] theorem State.still_addStale (s : State) (k : Nat) (orphan : Bool) (x : Option Copy) :
    (s.addStale k orphan x).tim.still = s.tim.still := by
  unfold State.addStale
  split <;> simp

@[simp] theorem State.still_newVersion (s : State) (k : Nat) (v : Version) : (s.newVersion k v).tim.still = s.tim.still := rfl

@[simp] theorem State.still_orphan (s : State) (k : Nat) (base : Option Copy) (v : Version) :
    (s.orphan k base v).tim.still = s.tim.still := by
  unfold State.orphan
  split <;> simp

@[simp] theorem State.still_commitVersion (s : State) (stamp : Nat) (k : Nat) :
    (s.commitVersion stamp k).tim.still = s.tim.still := by
  simp only [State.commitVersion]
  split <;> simp

@[simp] theorem State.still_purgeUnit (s : State) (k : Nat) : (s.purgeUnit k).tim.still = s.tim.still := by
  simp [State.purgeUnit]

@[simp] theorem State.still_nextStamp (s : State) : s.nextStamp.2.tim.still = s.tim.still := rfl

theorem State.still_givePlaces {s t : State} {c : RowClass} {l : Loc} {code : Code} {n : Nat} {be : Bool} {ps : List Place}
    (h : s.givePlaces c l code n be = some (ps, t)) : t.tim.still = s.tim.still := by
  rw [State.givePlaces_frame h]

@[simp] theorem State.still_planMoves (s : State) (ks : List Nat) (bestEffort : Bool) :
    (s.planMoves ks bestEffort).2.tim.still = s.tim.still := by
  refine still_foldl_snd (fun p k => ?_) _ _
  split
  · rfl
  · simp only
    split
    · next h => exact State.still_givePlaces h
    · rfl

@[simp] theorem State.still_commitMove (s : State) (m : Move) : (s.commitMove m).tim.still = s.tim.still := by
  simp only [State.commitMove]
  (repeat' split) <;> simp

@[simp] theorem State.still_freeRow (s : State) (id : Nat) : (s.freeRow id).tim.still = s.tim.still := by
  unfold State.freeRow
  split <;> simp

/-! ### Machine.RingOps -/

@[simp] theorem State.still_retag (s : State) : s.retag.tim.still = s.tim.still := rfl

@[simp] theorem State.still_purgeSeg (s : State) (r : Nat) (seg : Nat) : (s.purgeSeg r seg).tim.still = s.tim.still := by
  simp [State.purgeSeg]

@[simp] theorem State.still_leaveSlot (s : State) (r : Nat) (seg : Nat) : (s.leaveSlot r seg).tim.still = s.tim.still := rfl

@[simp] theorem State.still_dropSeg (s : State) (r : Nat) (seg : Nat) : (s.dropSeg r seg).tim.still = s.tim.still := by
  simp [State.dropSeg]

@[simp] theorem State.still_sweepRing (s : State) (r : Nat) (segs : List Nat) :
    (s.sweepRing r segs).tim.still = s.tim.still := by
  refine still_foldl (fun s g => ?_) _ _
  split_ifs <;> simp

@[simp] theorem State.still_advanceTail (n r : Nat) (s : State) : (State.advanceTail n r s).tim.still = s.tim.still := by
  induction n generalizing s with
  | zero => rfl
  | succ n ih =>
    simp only [State.advanceTail]
    split_ifs <;> simp [ih]

@[simp] theorem State.still_settleTaken (s : State) (r : Nat) (p : Taken → Bool) :
    (s.settleTaken r p).tim.still = s.tim.still := by
  simp [State.settleTaken]

@[simp] theorem State.still_completeUnit (s : State) (r : Nat) (no : Nat) : (s.completeUnit r no).tim.still = s.tim.still := by
  simp [State.completeUnit]

@[simp] theorem State.still_settleWrap (s : State) (r : Nat) : (s.settleWrap r).tim.still = s.tim.still := by
  simp [State.settleWrap]

/-! ### Machine.Durable -/

@[simp] theorem State.still_guardRecord (s : State) (region : Nat) (old : W32) (new : W32) (how : Nat) (b : BerthId) :
    (s.guardRecord region old new how b).tim.still = s.tim.still := by
  simp [State.guardRecord]

@[simp] theorem State.still_closeSessions (s : State) : s.closeSessions.tim.still = s.tim.still := rfl

@[simp] theorem State.still_cancelResv (s : State) (b : BerthId) : (s.cancelResv b).tim.still = s.tim.still := by
  unfold State.cancelResv
  split <;> simp

@[simp] theorem State.still_lockRecord (s : State) (old : Nat) (new : Nat) (pw : Nat) (b : BerthId) :
    (s.lockRecord old new pw b).tim.still = s.tim.still := by
  simp [State.lockRecord]

@[simp] theorem State.still_lockChange (s : State) (b : BerthId) (st : BitVec 2) (pw : PwChange) :
    (s.lockChange b st pw).tim.still = s.tim.still := by
  simp only [State.lockChange]
  split <;> simp

@[simp] theorem State.still_releaseHold (s : State) (id : Nat) : (s.releaseHold id).tim.still = s.tim.still := by
  unfold State.releaseHold
  split <;> simp

@[simp] theorem State.still_rekey (s : State) (r : Nat) (region : Nat) (segs : List Nat) :
    (s.rekey r region segs).tim.still = s.tim.still := by
  unfold State.rekey
  exact still_foldl (fun s p => by simp) _ _

@[simp] theorem State.still_harvestHold (s : State) (b : BerthId) (id : Nat) (region : Nat) :
    (s.harvestHold b id region).tim.still = s.tim.still := by
  unfold State.harvestHold
  split <;> simp

@[simp] theorem State.still_itemDurable (s : State) (b : BerthId) : (s.itemDurable b).tim.still = s.tim.still := by
  unfold State.itemDurable
  (repeat' split) <;> simp

@[simp] theorem State.still_itemDurableOpt (s : State) (x : Option BerthId) : (s.itemDurable? x).tim.still = s.tim.still := by
  unfold State.itemDurable?
  split <;> simp

@[simp] theorem State.still_reportWeed (s : State) (region : Nat) (start : Nat) (done : Nat) :
    (s.reportWeed region start done).tim.still = s.tim.still := by
  unfold State.reportWeed
  split <;> simp

@[simp] theorem State.still_weedRecord (s : State) (b : Option BerthId) (region : Nat) (start : Nat) (done : Nat) :
    (s.weedRecord b region start done).tim.still = s.tim.still := by
  simp only [State.weedRecord]
  split_ifs <;> simp

@[simp] theorem State.still_weedDone (s : State) (b : Option BerthId) (region : Nat) (start : Nat) (done : Nat)
    (rows : List Nat) : (s.weedDone b region start done rows).tim.still = s.tim.still := by
  simp [State.weedDone]

@[simp] theorem State.still_startMove (s : State) (id : Nat) : (s.startMove id).tim.still = s.tim.still := rfl

@[simp] theorem State.still_weedStart (s : State) (b : Option BerthId) (region : Nat) (start : Nat) (blocks : Nat)
    (done : Nat) (segs : List Nat) : (s.weedStart b region start blocks done segs).tim.still = s.tim.still := by
  unfold State.weedStart
  extract_lets u per lo hi rows c v w
  have hu : u.tim.still = s.tim.still := still_foldl (fun s g => s.still_purgeSeg region g) _ _
  have hw : w.tim.still = v.tim.still := still_foldl State.still_startMove _ _
  split_ifs
  · exact (State.still_weedDone _ _ _ _ _ _).trans hu
  · rw [State.tim_addDie, State.still_planMoves, hw]
    exact hu

@[simp] theorem State.still_busyOut (s : State) (b : BerthId) : (s.busyOut b).tim.still = s.tim.still := by
  unfold State.busyOut
  (repeat' split) <;> simp

@[simp] theorem State.still_eraseStart (s : State) (b : BerthId) : (s.eraseStart b).tim.still = s.tim.still := by
  simp only [State.eraseStart]
  split_ifs
  · rfl
  · refine (still_foldl (fun s x => ?_) _ _).trans (by simp)
    split_ifs <;> simp

@[simp] theorem State.still_eraseKeys (s : State) : s.eraseKeys.tim.still = s.tim.still :=
  still_foldl State.still_cancelResv _ _

@[simp] theorem State.still_delegate (s : State) (b : BerthId) (ps : List (Fin 4)) :
    (s.delegate b ps).tim.still = s.tim.still := by
  simp [State.delegate]

@[simp] theorem State.still_orderErase (s : State) (b : BerthId) : (s.orderErase b).tim.still = s.tim.still := by
  simp only [State.orderErase]
  split_ifs <;> simp

@[simp] theorem State.still_eraseSteps (s : State) (b : BerthId) : (s.eraseSteps b).tim.still = s.tim.still := by
  simp only [State.eraseSteps, State.still_orderErase, State.still_eraseKeys, State.still_sealCard]

@[simp] theorem State.still_weedNext (s : State) (b : Option BerthId) (region : Nat) (start : Nat) (done : Nat)
    (rows : List Nat) : (s.weedNext b region start done rows).tim.still = s.tim.still := by
  simp only [State.weedNext]
  split <;> simp

@[simp] theorem State.still_runAfter (s : State) (a : After) : (s.runAfter a).tim.still = s.tim.still := by
  cases a with
  | drop region segs => exact still_foldl (fun s g => s.still_purgeSeg region g) _ _
  | blocks xs => exact still_foldl (fun s _ => congrArg Tim.still (s.tim_modBerth _ _)) _ _
  | _ => simp [State.runAfter]

@[simp] theorem State.still_commitChange (s : State) (c : Change) : (s.commitChange c).tim.still = s.tim.still := by
  unfold State.commitChange
  split_ifs <;> simp

@[simp] theorem State.still_enter (s : State) (seq : W64) (cs : List Change) (items : List JItem) :
    (s.enter seq cs items).tim.still = s.tim.still := rfl

@[simp] theorem State.still_writePage (s : State) (p : Nat) : (s.writePage p).tim.still = s.tim.still := by
  unfold State.writePage
  split
  · next h => simp [State.still_givePlaces h]
  · rfl

@[simp] theorem State.still_writeRoot (s : State) : s.writeRoot.tim.still = s.tim.still := by
  simp [State.writeRoot]

@[simp] theorem State.still_boundDirty (s : State) : s.boundDirty.tim.still = s.tim.still := by
  simp only [State.boundDirty]
  exact still_foldl State.still_writePage _ _

@[simp] theorem State.still_journalCommit (s : State) : s.journalCommit.tim.still = s.tim.still := by
  simp only [State.journalCommit]
  (repeat' split) <;> simp

@[simp] theorem State.still_journalDone (s : State) (seq : W64) (cs : List Change) :
    (s.journalDone seq cs).tim.still = s.tim.still := by
  simp [State.journalDone]

@[simp] theorem State.still_completeRecords (n : Nat) (s : State) : (State.completeRecords n s).tim.still = s.tim.still := by
  induction n generalizing s with
  | zero => rfl
  | succ n ih =>
    rw [State.completeRecords]
    split
    · rfl
    · rw [ih]
      split_ifs <;> simp

@[simp] theorem State.still_logCopyDone (s : State) (seq : W64) (copyB : Bool) :
    (s.logCopyDone seq copyB).tim.still = s.tim.still := by
  simp [State.logCopyDone]

@[simp] theorem State.still_disown (s : State) (b : BerthId) : (s.disown b).tim.still = s.tim.still := rfl

/-! ### Machine.Resv -/

@[simp] theorem State.still_cancelDram (s : State) : s.cancelDram.tim.still = s.tim.still := by
  refine still_foldl (fun t p => ?_) _ _
  split
  · split_ifs <;> simp
  · rfl

@[simp] theorem State.still_cancelShrunk (n : Nat) (s : State) : (State.cancelShrunk n s).tim.still = s.tim.still := by
  induction n generalizing s with
  | zero => rfl
  | succ n ih =>
    rw [State.cancelShrunk]
    split_ifs
    · rfl
    · split
      · rw [ih, State.still_cancelResv]
      · rfl

/-! ### Machine.Fault -/

@[simp] theorem State.still_leaveLane (s : State) : s.leaveLane.tim.still = s.tim.still := rfl

@[simp] theorem State.still_dropLane (s : State) (n : Nat) : (s.dropLane n).tim.still = s.tim.still := by
  simp only [State.dropLane]
  split <;> simp

@[simp] theorem State.still_isolate (s : State) (u : FUnit) (forced : Bool) : (s.isolate u forced).tim.still = s.tim.still := by
  unfold State.isolate
  (repeat' split) <;> simp

@[simp] theorem State.still_reportClass (s : State) (src : Nat) : (s.reportClass src).tim.still = s.tim.still := by
  simp only [State.reportClass]
  split <;> simp

@[simp] theorem State.still_haltBerth (s : State) (b : BerthId) : (s.haltBerth b).tim.still = s.tim.still := by
  unfold State.haltBerth
  split <;> simp

/-! ### Machine.Guard -/

/-! ### Machine.Data -/

@[simp] theorem State.still_releasePiece (s : State) (c : Cur) : (s.releasePiece c).tim.still = s.tim.still := by
  unfold State.releasePiece
  split_ifs <;> simp

@[simp] theorem State.still_writeFail (s : State) (b : BerthId) (c : Cur) (st : Status) :
    (s.writeFail b c st).tim.still = s.tim.still := by
  simp [State.writeFail]

/-! ### Machine.RegionOps -/

/-! ### Machine.RecordOps -/

/-! ### Machine.Abort -/

@[simp] theorem State.still_openGate (s : State) : s.openGate.tim.still = s.tim.still := by
  refine still_foldl (fun s b => ?_) _ _
  split
  · split_ifs <;> simp
  · rfl

/-! ### Machine.AdminOps -/

/-! ### Machine.Apply -/

/-! ### Machine.Sched -/

@[simp] theorem State.still_wakeFor (s : State) (os : List DieOp) : (s.wakeFor os).tim.still = s.tim.still := by
  simp [State.wakeFor]

@[simp] theorem State.still_arrange (s : State) : s.arrange.tim.still = s.tim.still := by
  simp [State.arrange]

/-! ### Machine.Resume -/

/-! ### Die operations that succeed, and what was promised (R363, R405) -/

@[simp] theorem State.still_mirrorDone (s : State) (n : Fin 32) (v : W64) (mirrorB : Bool) :
    (s.mirrorDone n v mirrorB).tim.still = s.tim.still := by
  simp only [State.mirrorDone]
  split_ifs <;> rfl

@[simp] theorem State.still_dieOk (s : State) (k : DieKind) : (s.dieOk k).tim.still = s.tim.still := by
  cases k with
  | ctrMirror n v mb o cost =>
    simp only [State.dieOk]
    split_ifs <;> simp
  | _ => simp [State.dieOk]

@[simp] theorem State.still_finishWhere (p : DieKind → Bool) (n : Nat) (s : State) :
    (State.finishWhere p n s).tim.still = s.tim.still := by
  induction n generalizing s with
  | zero => rfl
  | succ n ih =>
    rw [State.finishWhere]
    split
    · simp [ih]
    · split_ifs
      · rfl
      · simp [ih]

@[simp] theorem State.still_finishPromised (n : Nat) (s : State) : (State.finishPromised n s).tim.still = s.tim.still :=
  s.still_finishWhere _ n

/-! ### Fault events (R417 to R419) -/

@[simp] theorem State.still_haltEntry (s : State) (src : Nat) : (s.haltEntry src).tim.still = s.tim.still := by
  simp only [State.haltEntry]
  split_ifs <;> simp

@[simp] theorem State.still_capture (s : State) (i : Fin 64) (k : Cls) (u : FUnit) (forced : Bool) :
    (s.capture i k u forced).tim.still = s.tim.still := by
  simp only [State.capture]
  split_ifs <;> simp

@[simp] theorem State.still_raise (s : State) (i : Fin 64) (k : Cls) (u : FUnit) (forced : Bool) :
    (s.raise i k u forced).tim.still = s.tim.still := by
  simp only [State.raise]
  split_ifs <;> simp

@[simp] theorem State.still_checkLedger (s : State) : s.checkLedger.tim.still = s.tim.still := by
  unfold State.checkLedger
  split_ifs <;> simp

/-! ### Memories (R342 to R348) -/

@[simp] theorem State.still_remap (s : State) (m : Fin 10) (addr : W32) : (s.remap m addr).tim.still = s.tim.still := by
  simp only [State.remap]
  split_ifs <;> simp

@[simp] theorem State.still_memCe (s : State) (m : Fin 10) (addr : W32) (recurs : Bool) :
    (s.memCe m addr recurs).tim.still = s.tim.still := by
  simp only [State.memCe]
  split_ifs <;> simp

@[simp] theorem State.still_unsetPage (s : State) (page : Nat) : (s.unsetPage page).tim.still = s.tim.still := rfl

@[simp] theorem State.still_memUe (s : State) (m : Fin 10) (addr : W32) : (s.memUe m addr).tim.still = s.tim.still := by
  simp only [State.memUe]
  split_ifs <;> simp

@[simp] theorem State.still_memHeal (s : State) (m : Fin 10) (word : Nat) : (s.memHeal m word).tim.still = s.tim.still := rfl

@[simp] theorem State.still_memRead (m : Fin 10) (word n : Nat) (s : State) :
    (s.memRead m word n).2.tim.still = s.tim.still := by
  induction n generalizing s word with
  | zero => rfl
  | succ n ih =>
    rw [State.memRead]
    split <;> simp [ih]

@[simp] theorem State.still_memWrote (s : State) (m : Fin 10) (a : Nat) : (s.memWrote m a).tim.still = s.tim.still := by
  simp only [State.memWrote]
  split_ifs <;> rfl

/-! ### An instruction in progress is withdrawn (R150, R366) -/

@[simp] theorem State.still_freeBerths (s : State) : s.freeBerths.tim.still = s.tim.still := by
  refine still_foldl (fun s b => ?_) _ _
  split_ifs <;> simp

@[simp] theorem State.still_startRelease (s : State) : s.startRelease.tim.still = s.tim.still := by
  simp [State.startRelease]

@[simp] theorem State.still_leaveQuiesce (s : State) : s.leaveQuiesce.tim.still = s.tim.still := by
  simp only [State.leaveQuiesce]
  split_ifs <;> simp

@[simp] theorem State.still_restoreCfg (s : State) (o : OldCfg) : (s.restoreCfg o).tim.still = s.tim.still := by
  rw [State.restoreCfg, State.still_retag]
  refine (still_foldl (fun s p => ?_) _ _).trans (still_foldl (fun s p => ?_) _ _)
  · rfl
  · rfl

@[simp] theorem State.still_dropVersion (s : State) (stamp k : Nat) : (s.dropVersion stamp k).tim.still = s.tim.still := by
  simp only [State.dropVersion]
  split <;> simp

@[simp] theorem State.still_undoChange (s : State) (c : Change) : (s.undoChange c).tim.still = s.tim.still := by
  simp only [State.undoChange]
  refine (still_foldl (fun s a => ?_) _ _).trans ?_
  · cases a <;> simp
  · split_ifs <;> simp [still_foldl fun s k => State.still_dropVersion s c.stamp k]

@[simp] theorem State.still_withdraw (s : State) (p : Change → Bool) : (s.withdraw p).tim.still = s.tim.still := by
  simp only [State.withdraw]
  exact still_foldl State.still_undoChange _ _

@[simp] theorem State.still_unsign (s : State) (b : BerthId) : (s.unsign b).tim.still = s.tim.still := by
  simp only [State.unsign]
  refine still_foldl (fun s c => ?_) _ _
  split_ifs <;> simp

@[simp] theorem State.still_unstep (s : State) (b : BerthId) : (s.unstep b).tim.still = s.tim.still := by
  simp only [State.unstep]
  split
  · split_ifs <;> simp
  · rfl

theorem State.still_unsealLast {s t : State} {b : BerthId} (h : s.unsealLast b = some t) : t.tim.still = s.tim.still := by
  simp only [State.unsealLast] at h
  split at h
  · split_ifs at h <;> rw [← Option.some.inj h] <;> simp
  · cases h

@[simp] theorem State.still_leaveLedger (s : State) (b : BerthId) : (s.leaveLedger b).tim.still = s.tim.still := rfl

@[simp] theorem State.still_withdrawCur (s : State) (b : BerthId) (c : Cur) : (s.withdrawCur b c).tim.still = s.tim.still := by
  have hu (t : State) : ((t.unsealLast b).getD t).tim.still = t.tim.still := by
    cases h : t.unsealLast b with
    | none => rfl
    | some v => exact State.still_unsealLast h
  simp only [State.withdrawCur, State.still_disown, hu, State.still_unsign, State.still_unstep, State.still_withdraw]
  split_ifs <;> simp

@[simp] theorem State.still_abortCur (s : State) (b : BerthId) (st : Status) : (s.abortCur b st).tim.still = s.tim.still := by
  unfold State.abortCur
  split <;> simp

/-! ### Domains and rails at the boundary (R376, R385, R395) -/

@[simp] theorem State.still_railTide (s : State) : s.railTide.tim.still = s.tim.still := by
  unfold State.railTide
  split <;> rfl

@[simp] theorem State.still_startRails (s : State) (d : Fin 16) : (s.startRails d).tim.still = s.tim.still := by
  unfold State.startRails
  split_ifs <;> rfl

@[simp] theorem State.still_loseDomain (s : State) (d : Fin 16) : (s.loseDomain d).tim.still = s.tim.still := by
  unfold State.loseDomain
  split <;> rfl

@[simp] theorem State.still_setDom (s : State) (d : Fin 16) (x : Dom) : (s.setDom d x).tim.still = s.tim.still := rfl

@[simp] theorem State.still_changeDom (s : State) (d : Fin 16) (x : Dom) : (s.changeDom d x).tim.still = s.tim.still := by
  cases x with
  | on =>
    simp only [State.changeDom]
    split_ifs <;> simp
  | _ => simp [State.changeDom]

@[simp] theorem State.still_changeDoms (s : State) : s.changeDoms.tim.still = s.tim.still :=
  still_foldl (fun s (c : Fin 16 × Dom) => s.still_changeDom c.1 c.2) _ _

@[simp] theorem State.still_endBlk (s : State) : s.endBlk.tim.still = s.tim.still := by
  simp only [State.endBlk]
  split_ifs <;> rfl

/-! ### The release sequence (R369, Table HUP-7) -/

@[simp] theorem State.still_sealCheckpoint (s : State) (c : CpSigning) : (s.sealCheckpoint c).tim.still = s.tim.still := by
  simp [State.sealCheckpoint]

@[simp] theorem State.still_signed (s : State) : s.signed.tim.still = s.tim.still := by
  simp only [State.signed]
  split
  · rfl
  · rw [State.still_sealCheckpoint]
    split <;> simp

@[simp] theorem State.still_signAll (s : State) : s.signAll.tim.still = s.tim.still :=
  still_foldl (fun s _ => s.still_signed) _ _

@[simp] theorem State.still_lastCheckpoint (s : State) : s.lastCheckpoint.tim.still = s.tim.still := by
  unfold State.lastCheckpoint
  split_ifs <;> simp

@[simp] theorem State.still_holdBerths (s : State) : s.holdBerths.tim.still = s.tim.still := by
  refine still_foldl (fun s b => ?_) _ _
  split_ifs <;> simp

@[simp] theorem State.still_signPromised (s : State) : s.signPromised.tim.still = s.tim.still := by
  refine still_foldl (fun s c => ?_) _ _
  split_ifs <;> simp

@[simp] theorem State.still_keepPromises (s : State) : s.keepPromises.tim.still = s.tim.still := by
  simp [State.keepPromises]

@[simp] theorem State.still_abortHigh (s : State) : s.abortHigh.tim.still = s.tim.still := by
  refine still_foldl (fun s b => ?_) _ _
  split_ifs <;> simp

@[simp] theorem State.still_commitBlocks (s : State) : s.commitBlocks.tim.still = s.tim.still := rfl

@[simp] theorem State.still_releaseEnd (s : State) : s.releaseEnd.tim.still = s.tim.still := by
  simp [State.releaseEnd]

@[simp] theorem State.still_releaseStill (s : State) : s.releaseStill.tim.still = s.tim.still := by
  simp [State.releaseStill]

@[simp] theorem State.still_releaseDue (s : State) : s.releaseDue.tim.still = s.tim.still := by
  unfold State.releaseDue
  split_ifs <;> simp

/-! ### The ledger's measurement and the memories at the boundary (R350, R353, R347) -/

@[simp] theorem State.still_measure (s : State) (m : Measure) : (s.measure m).tim.still = s.tim.still := by
  simp only [State.measure]
  split_ifs <;> simp

@[simp] theorem State.still_loseBuffered (s : State) (k : Nat) : (s.loseBuffered k).tim.still = s.tim.still := by
  simp only [State.loseBuffered]
  refine (still_foldl (fun s b => ?_) _ _).trans (by simp)
  split
  · split_ifs <;> simp
  · rfl

@[simp] theorem State.still_servedLost (s : State) (b : BerthId) : (s.servedLost b).tim.still = s.tim.still := by
  unfold State.servedLost
  split
  · simp
  · split
    · split_ifs <;> simp
    · rfl

@[simp] theorem State.still_shareWordLost (s : State) : s.shareWordLost.tim.still = s.tim.still := by
  simp only [State.shareWordLost]
  split <;> simp

@[simp] theorem State.still_requesterLost (s : State) (m : Fin 10) (addr : W32) :
    (s.requesterLost m addr).tim.still = s.tim.still := by
  simp only [State.requesterLost]
  (repeat' split) <;> simp

@[simp] theorem State.still_flipMet (s : State) (m : Fin 10) (f : Flipped) : (s.flipMet m f).tim.still = s.tim.still := by
  simp only [State.flipMet]
  split_ifs <;> simp

@[simp] theorem State.still_flipDue (s : State) : s.flipDue.tim.still = s.tim.still := by
  refine still_foldl (fun s m => ?_) _ _
  simp only [State.flipHits]
  (repeat' split) <;> simp

@[simp] theorem State.still_askCapTest (s : State) : s.askCapTest.tim.still = s.tim.still := by
  simp only [State.askCapTest]
  split_ifs <;> simp

@[simp] theorem State.still_capDue (s : State) : s.capDue.tim.still = s.tim.still := by
  simp only [State.capDue]
  split_ifs <;> simp

/-! ### Members' parts, the archive point and temperature at the boundary (R452, R291, R328) -/

@[simp] theorem State.still_landPart (s : State) (i : SubInstr) (thru : Bool) :
    (s.landPart i thru).tim.still = s.tim.still := by
  have hp {t : State} {c : RowClass} {l : Loc} {code : Code} {n : Nat} :
      ((t.givePlaces c l code n false).getD ([], t)).2.tim.still = t.tim.still := by
    cases h : t.givePlaces c l code n false with
    | none => rfl
    | some p => exact State.still_givePlaces h
  have hf (t : State) (us : List ((Nat × List Byte) × Nat)) (v : State → (Nat × List Byte) × Nat → Version) :
      (us.foldl (fun t u => t.newVersion u.1.1 (v t u)) t).tim.still = t.tim.still :=
    still_foldl (fun s _ => State.still_newVersion s _ _) _ _
  simp only [State.landPart]
  split_ifs <;> simp [State.answerSub, hf, hp]

@[simp] theorem State.still_heldDue (s : State) : s.heldDue.tim.still = s.tim.still := by
  refine still_foldl (fun s h => ?_) _ _
  simp only
  split_ifs <;> simp

@[simp] theorem State.still_eraseArchived (s : State) : s.eraseArchived.tim.still = s.tim.still := by
  simp only [State.eraseArchived]
  split_ifs <;> rfl

@[simp] theorem State.still_advanceArch (s : State) (v : W64) (cost : Nat) :
    (s.advanceArch v cost).tim.still = s.tim.still := by
  simp only [State.advanceArch, State.still_eraseArchived]
  split_ifs <;> simp

@[simp] theorem State.still_archDue (s : State) : s.archDue.tim.still = s.tim.still := by
  unfold State.archDue
  split
  · rfl
  · split_ifs <;> simp

@[simp] theorem State.still_readTemps (s : State) : s.readTemps.tim.still = s.tim.still := by
  simp only [State.readTemps]
  split_ifs <;> rfl

@[simp] theorem State.still_blocksDue (s : State) : s.blocksDue.tim.still = s.tim.still := by
  unfold State.blocksDue
  (repeat' split) <;> rfl

/-! ### Media work of the firmware (R265 to R268, R310 to R321) -/

@[simp] theorem State.still_clearExhausted (s : State) : s.clearExhausted.tim.still = s.tim.still := by
  unfold State.clearExhausted
  split_ifs <;> rfl

@[simp] theorem State.still_mapCache (s : State) : s.mapCache.tim.still = s.tim.still := by
  simp only [State.mapCache]
  split_ifs <;> rfl

theorem State.still_transplant {s t : State} {all : Bool} {ks : List Nat} (h : s.transplant all ks = some t) :
    t.tim.still = s.tim.still := by
  simp only [State.transplant] at h
  split_ifs at h
  rw [← Option.some.inj h]
  simp

@[simp] theorem State.still_transplants (s : State) (all : Bool) (l : List (List Nat)) :
    (s.transplants all l).tim.still = s.tim.still := by
  induction l generalizing s with
  | nil => rfl
  | cons ks r ih =>
    rw [State.transplants]
    split_ifs
    · rfl
    · split
      · next h => rw [ih, State.still_transplant h]
      · rfl

@[simp] theorem State.still_transplantDue (s : State) : s.transplantDue.tim.still = s.tim.still :=
  still_foldl (fun s _ => s.still_transplants _ _) _ _

@[simp] theorem State.still_pruneDue (s : State) (set : Nat) : (s.pruneDue set).tim.still = s.tim.still := by
  simp only [State.pruneDue]
  (repeat' split) <;> simp

@[simp] theorem State.still_seedErase (s : State) : s.seedErase.tim.still = s.tim.still :=
  still_foldl (fun s r => by simp) _ _

@[simp] theorem State.still_relocateDue (s : State) : s.relocateDue.tim.still = s.tim.still := by
  simp only [State.relocateDue]
  exact (still_foldl (fun s m => by simp) _ _).trans (by simp)

@[simp] theorem State.still_patrolDue (s : State) : s.patrolDue.tim.still = s.tim.still := by
  simp only [State.patrolDue]
  split_ifs <;> simp

@[simp] theorem State.still_ownMedia (s : State) : s.ownMedia.tim.still = s.tim.still := by
  simp only [State.ownMedia, State.still_patrolDue]
  split_ifs <;> simp [State.resizeGsb]

/-! ### The tide's bookings (R41) -/

@[simp] theorem State.still_book (s : State) : s.book.tim.still = s.tim.still := by
  simp [State.book, State.spendDies]

@[simp] theorem State.still_sendFrame (s : State) : s.sendFrame.tim.still = s.tim.still := by
  unfold State.sendFrame
  split_ifs <;> rfl

end Sys2Proof.Machine
end

section
/-! SUPPORT. A tide boundary: what it makes of the tide count and of the registers that take effect there (R41, R71). -/

namespace Sys2Proof.Machine

/-- The tide count and the register values in force (R41, R71). -/
def Tim.pace (t : Tim) : W32 × W32 × W32 × W32 × W32 := (t.tideCount, t.servoNow, t.stepThrNow, t.syncAgeNow, t.holdMaxNow)

theorem Tim.pace_of_still {t u : Tim} (h : t.still = u.still) : t.pace = u.pace := by
  rw [show t.pace = t.still.pace from rfl, h]
  rfl

theorem State.pace_overhangDue (s : State) : s.overhangDue.tim.pace = s.tim.pace := by
  simp only [State.overhangDue]
  split_ifs <;> rfl

theorem State.pace_checkAlarm (s : State) : s.checkAlarm.tim.pace = s.tim.pace := by
  unfold State.checkAlarm
  split_ifs
  · rw [Tim.pace_of_still (State.still_raise _ _ _ _ _)]
    rfl
  · rfl

theorem State.pace_ageTides (s : State) : s.ageTides.tim.pace = s.tim.pace := rfl

/-- What a boundary hands on to the tide: one more tide counted, and the registers as they were written. -/
theorem State.pace_tide (s : State) (m : Measure) :
    (s.tide m).tim.pace = (s.tim.tideCount + 1, s.tim.servo, s.tim.stepThr, s.tim.syncAge, s.tim.holdMax) := by
  unfold State.tide
  extract_lets a r b c d e f l g h u x
  have hb : b.latchRegs.tim.pace = (s.tim.tideCount + 1, s.tim.servo, s.tim.stepThr, s.tim.syncAge, s.tim.holdMax) := rfl
  have hc : c.tim.pace = b.latchRegs.tim.pace := b.latchRegs.pace_overhangDue
  clear_value b
  clear_value c
  have hd : d.tim.still = c.tim.still := by simp [d]
  clear_value d
  have he : e.tim.pace = d.tim.pace := by
    have hr : e.tim.still = d.checkAlarm.ageTides.tim.still := d.checkAlarm.ageTides.still_releaseDue
    rw [Tim.pace_of_still hr, State.pace_ageTides, State.pace_checkAlarm]
  clear_value e
  have hf : f.tim.still = e.tim.still := by simp [f]
  clear_value f
  have hg : g.tim.still = f.tim.still := rfl
  clear_value g
  have hh : h.tim.still = g.tim.still := by simp [h]
  clear_value h
  have hu : u.tim.still = h.tim.still := by simp [u]
  clear_value u
  have hp : u.tim.pace = e.tim.pace := Tim.pace_of_still (hu.trans (hh.trans (hg.trans hf)))
  rw [← hb, ← hc, ← Tim.pace_of_still hd, ← he, ← hp]
  rfl

theorem State.tideCount_tide (s : State) (m : Measure) : (s.tide m).tim.tideCount = s.tim.tideCount + 1 :=
  (Prod.mk.inj (s.pace_tide m)).1

theorem exec_tideBoundary_of_alive {s : State} (h : s.alive = true) (m : Measure) :
    exec (.tideBoundary m) s = .next (s.close (s.tide m)) := if_pos h

/-- A boundary opens the tide: no time has passed since (R39). -/
theorem State.opened_tide (s : State) (m : Measure) : (s.tide m).tim.opened = true := rfl

end Sys2Proof.Machine
end

section
/-! PROOFS. Tide boundaries, the pending step, the quality's timeouts and the paced registers (O22, O43). -/

namespace Sys2Proof.Machine

/-! ### The registers of R71 -/

/-- The four registers are neither settings nor read-only, and no other position reports them. -/
theorem State.ctlWrite_paced (s : State) (who : BerthId) (v : W32) {a : Nat} (ha : a ∈ [0x2028, 0x202C, 0x2030, 0x2034]) :
    s.ctlWrite who a v = (.ok, s.writeTim a v) := by
  fin_cases ha <;> rfl

theorem exec_registerWrite_paced {s : State} (h : s.alive = true) (v : W32) {a : W16}
    (ha : a.toNat ∈ [0x2028, 0x202C, 0x2030, 0x2034]) :
    exec (.registerWrite a v) s = .next (s.close (s.writeTim a.toNat v)) := by
  rw [exec, execRegisterWrite, if_pos h, State.ctlWrite_paced s 0 v ha, settled]

/-- Settles O43: the write moves the register alone, and the boundary takes what it holds. -/
theorem pacedRegisters : Obligations.PacedRegisters := by
  unfold Obligations.PacedRegisters
  refine ⟨fun s v h => ⟨?_, ?_, ?_, ?_⟩, fun s m h => ⟨_, exec_tideBoundary_of_alive h m, ?_⟩⟩
  · exact exec_registerWrite_paced h v (by decide)
  · exact exec_registerWrite_paced h v (by decide)
  · exact exec_registerWrite_paced h v (by decide)
  · exact exec_registerWrite_paced h v (by decide)
  · obtain ⟨-, hp⟩ := Prod.mk.inj (s.pace_tide m)
    simpa using hp

/-! ### Boundaries -/

theorem ceilMul_succ_of_dvd {n p : Nat} (hp : 0 < p) (h : p ∣ n) : ceilMul (n + 1) p = n + p := by
  obtain ⟨k, rfl⟩ := h
  have hd : (p * k + 1 + p - 1) / p = k + 1 := by
    rw [show p * k + 1 + p - 1 = p * (k + 1) by rw [Nat.mul_succ]; omega, Nat.mul_div_cancel_left _ hp]
  rw [ceilMul, hd, Nat.mul_comm, Nat.mul_succ]

theorem periodNs_pos (p : BitVec 2) : 0 < periodNs p := Nat.mul_pos (by decide) (Nat.two_pow_pos _)

/-- At a boundary on the grid of its period the next one lies one period on (R37). -/
theorem Tim.reach_on_grid {t : Tim} (hn : t.newPeriod = none) (hg : t.next.toNat % periodNs t.period = 0) :
    t.reach.next = t.next + BitVec.ofNat 64 (periodNs t.period) ∧ t.reach.period = t.period := by
  have hp : t.reach.period = t.period := by simp [Tim.reach, hn]
  have hx : t.reach.next = BitVec.ofNat 64 (ceilMul (t.next.toNat + 1) (periodNs t.reach.period)) := rfl
  refine ⟨?_, hp⟩
  rw [hx, hp, ceilMul_succ_of_dvd (periodNs_pos _) (Nat.dvd_of_mod_eq_zero hg), BitVec.ofNat_add, BitVec.ofNat_toNat,
    BitVec.setWidth_eq]

/-- The step that waited is taken: the boundary that opened the tide stands at its instant less the offset (R39, R65). -/
theorem State.tim_step (s : State) (o : Int) :
    (s.applyStep o).markWaitt.tim.step = none ∧ (s.applyStep o).markWaitt.tim.steps = satInc s.tim.steps ∧
    (s.applyStep o).markWaitt.tim.counter =
      BitVec.ofNat 64 ((s.tim.next.toNat : Int) - periodNs s.tim.period - o).toNat := by
  simp only [State.markWaitt, State.applyStep, and_self]

/-- Settles O22: each clause is read off the named operation; the tide count stays through all that a boundary does after it. -/
theorem boundaries : Obligations.Boundaries := by
  unfold Obligations.Boundaries
  refine ⟨⟨fun s m h => ?_, fun t hn hg => ⟨rfl, Tim.reach_on_grid hn hg⟩, fun s m ha ho hc hr => ?_⟩, fun s o ho hp => ?_,
    fun s hq ha => ?_, fun s hq ha => ?_⟩
  · exact ⟨_, exec_tideBoundary_of_alive h m, s.tideCount_tide m, s.opened_tide m⟩
  · simp [exec, execTideBoundary, ha, ho, hc, hr]
  · refine ⟨(s.applyStep o).markWaitt, ?_, s.tim_step o⟩
    simp [exec, execTimeStep, ho, hp, answer]
  · exact ⟨_, if_pos ⟨hq, ha⟩, State.qualified_setQuality _ _, State.quality_setQuality _ _⟩
  · exact ⟨_, if_pos ⟨hq, ha⟩, State.quality_setQuality _ _⟩

end Sys2Proof.Machine
end

section
/-! SUPPORT. Tokens: what a token that is no repeat leaves of the state, and when its command runs (R77, R83, Table NARROW-5). -/

namespace Sys2Proof.Machine

/-- Reporting a parcel moves the berths' reporting records only (R164). -/
theorem State.reported_eq (s : State) (p : UpParcel) : s.reported p = { s with berths := (s.reported p).berths } := by
  unfold State.reported
  split
  · simp only
    split_ifs <;> rfl
  · rfl

@[simp] theorem State.nar_reported (s : State) (p : UpParcel) : (s.reported p).nar = s.nar := by rw [State.reported_eq]

@[simp] theorem State.lnk_reported (s : State) (p : UpParcel) : (s.reported p).lnk = s.lnk := by rw [State.reported_eq]

/-- The next counted completion of a berth is reported: RSEQ takes its number (R164). -/
theorem State.rseq_reported {s : State} {p : UpParcel} {c : Completion} (hb : p.body = .completion c) (hc : c.counted = true)
    (hq : c.cseq = (s.berth (berthOf p.berth.toNat)).rseq + 1) :
    ((s.reported p).berth (berthOf p.berth.toNat)).rseq = (s.berth (berthOf p.berth.toNat)).rseq + 1 := by
  have hd : (c.cseq - (s.berth (berthOf p.berth.toNat)).rseq - 1).toNat < 2 ^ 31 := by
    rw [hq]
    bv_omega
  rw [State.reported, hb]
  simp only
  rw [if_pos ⟨hc, hd⟩, State.berth_setBerth]

theorem State.dropFetched_eq (s : State) :
    s.dropFetched = { s with nar := s.dropFetched.nar, berths := s.dropFetched.berths } := by
  unfold State.dropFetched
  split_ifs
  · simp only
    split
    · rw [State.reported_eq]
    · rfl
  · rfl

/-- The front parcel leaves the queue if GET has fetched it (R83). -/
theorem State.nar_dropFetched (s : State) : s.dropFetched.nar =
    if s.nar.fetched then { s.nar with up := s.nar.up.drop 1, fetched := false } else s.nar := by
  unfold State.dropFetched
  split_ifs
  · simp only
    split <;> simp
  · rfl

theorem State.takeToken_eq (s : State) (t : Token) :
    s.takeToken t = { s with nar := (s.takeToken t).nar, berths := s.dropFetched.berths } := by
  unfold State.takeToken
  simp only
  rw [State.dropFetched_eq]

theorem State.narrowOnly_takeToken (s : State) (t : Token) : s.narrowOnly (s.takeToken t) := s.takeToken_eq t

theorem State.narrowOnly_setNar {s u : State} (h : s.narrowOnly u) (n : Narrow) : s.narrowOnly { u with nar := n } := by
  rw [h]

theorem State.narrowOnly_respond {s u : State} (h : s.narrowOnly u) (st : Status) (res : W32) (blk : Option (List Byte)) :
    s.narrowOnly (u.respond st res blk) := State.narrowOnly_setNar h _

@[simp] theorem State.last_takeToken (s : State) (t : Token) : (s.takeToken t).nar.last = some t := rfl

@[simp] theorem State.lnk_takeToken (s : State) (t : Token) : (s.takeToken t).lnk = s.lnk := by rw [State.takeToken_eq]

@[simp] theorem State.hup_takeToken (s : State) (t : Token) : (s.takeToken t).hup = s.hup := by rw [State.takeToken_eq]

@[simp] theorem State.rst_takeToken (s : State) (t : Token) : (s.takeToken t).rst = s.rst := by rw [State.takeToken_eq]

@[simp] theorem State.fetched_takeToken (s : State) (t : Token) : (s.takeToken t).nar.fetched = false := by
  simp only [State.takeToken, State.nar_dropFetched]
  split_ifs with h
  · rfl
  · simpa using h

@[simp] theorem State.oversize_takeToken (s : State) (t : Token) : (s.takeToken t).nar.oversize = s.nar.oversize := by
  simp only [State.takeToken, State.nar_dropFetched]
  split_ifs <;> rfl

@[simp] theorem State.counters_takeToken (s : State) (t : Token) : (s.takeToken t).nar.counters = s.nar.counters := by
  simp only [State.takeToken, State.nar_dropFetched]
  split_ifs <;> rfl

@[simp] theorem State.shut_takeToken (s : State) (t : Token) : (s.takeToken t).nar.shut = s.nar.shut := by
  simp only [State.takeToken, State.nar_dropFetched]
  split_ifs <;> rfl

@[simp] theorem State.turnsAway_takeToken (s : State) (t : Token) (op : Nat) :
    (s.takeToken t).turnsAway op = s.turnsAway op := by
  rw [State.takeToken_eq]
  rfl

theorem State.checkLink_of_ok {s : State} (h : s.lnk.agreed.ok = true) : s.checkLink = s := if_pos h

@[simp] theorem State.response_respond (s : State) (st : Status) (res : W32) (blk : Option (List Byte)) :
    (s.respond st res blk).nar.response = s.nar.last.map fun t => ⟨st, t.tag, res⟩ := rfl

section
variable {s : State} {op tag : Byte} {arg : W32}

theorem State.token_of_new (h : s.newToken ⟨op, tag, arg⟩) (ha : s.turnsAway op.toNat = none) (ok : Bool)
    (body : State → State) : s.token op tag arg ok body =
      if ok then body (s.takeToken ⟨op, tag, arg⟩) else (s.takeToken ⟨op, tag, arg⟩).respond .badField 0 := by
  obtain ⟨-, hl, hk⟩ := h
  rw [State.token]
  simp only
  rw [if_neg hl, State.checkLink_of_ok (by simpa using hk), State.turnsAway_takeToken, ha]

theorem narrowTurn_of_ok (h : s.newToken ⟨op, tag, arg⟩) (ha : s.turnsAway op.toNat = none) {ok : Bool} (hok : ok = true)
    (body : State → State) :
    narrowTurn s op tag arg ok body = .next (s.close (body (s.takeToken ⟨op, tag, arg⟩))) := by
  rw [narrowTurn, if_pos h.1, State.token_of_new h ha, if_pos hok, settled]

theorem narrowTurn_of_bad (h : s.newToken ⟨op, tag, arg⟩) (ha : s.turnsAway op.toNat = none) {ok : Bool} (hok : ok = false)
    (body : State → State) :
    narrowTurn s op tag arg ok body = .next (s.close ((s.takeToken ⟨op, tag, arg⟩).respond .badField 0)) := by
  rw [narrowTurn, if_pos h.1, State.token_of_new h ha, hok, settled]
  rfl

end

end Sys2Proof.Machine
end

section
/-! PROOFS. Repeats, and how a parcel leaves the card (O8, O9). -/

namespace Sys2Proof.Machine

/-- Settles O9: each branch of `State.again` moves the response or the awaited block alone. -/
theorem repeatNotExecuted : Obligations.RepeatNotExecuted := by
  unfold Obligations.RepeatNotExecuted
  intro s t ok body h
  rw [State.token, if_pos h, State.again]
  split
  · next hd =>
    split
    · exact ⟨_, rfl, rfl, rfl, rfl, rfl, fun _ => rfl⟩
    · exact ⟨_, rfl, rfl, rfl, rfl, rfl, fun hn => by simp [hn] at hd⟩
  · split
    · split_ifs
      · exact ⟨_, rfl, rfl, rfl, rfl, rfl, fun _ => rfl⟩
      · exact ⟨s.nar, rfl, rfl, rfl, rfl, rfl, fun _ => rfl⟩
    · exact ⟨s.nar, rfl, rfl, rfl, rfl, rfl, fun _ => rfl⟩

/-- Only the front entry of the replay buffer lies at or before the number acknowledged: it alone leaves (R123). -/
theorem State.ackFront_one {s : State} {q : BitVec 12} {p : UpParcel} {r : List (BitVec 12 × UpParcel)}
    (hb : s.lnk.replayBuf = (q, p) :: r) (hr : (r.all fun x => !seqUpTo x.1 q) = true) (n : Nat) :
    State.ackFront q (n + 1) s = { s with lnk := { s.lnk with replayBuf := r } }.reported p := by
  have hq : seqUpTo q q = true := by simp [seqUpTo]
  rw [State.ackFront, hb]
  simp only [hq, if_true]
  cases n with
  | zero => rfl
  | succ n =>
    rw [State.ackFront, State.lnk_reported]
    cases r with
    | nil => rfl
    | cons x r =>
      have hx : seqUpTo x.1 q = false := by simpa using (List.all_eq_true.1 hr) x (by simp)
      simp [hx]

/-- Settles O8: what leaves counts as reported, and RSEQ of its berth advances. -/
theorem parcelsReported : Obligations.ParcelsReported := by
  unfold Obligations.ParcelsReported
  refine ⟨fun s p r c hf hu hb hc hq => ?_, fun s q p r hb hq hn hr => ?_⟩
  · have hd : s.dropFetched = { s with nar := { s.nar with up := r, fetched := false } }.reported p := by
      simp [State.dropFetched, hf, hu]
    refine ⟨by simp [hd], by simp [hd], ?_⟩
    rw [hd]
    exact State.rseq_reported hb hc hq
  · have h1 : q - s.lnk.txAcked = 1 := by
      rw [hq]
      ring
    have h2 : 1 ≤ (s.lnk.txNext - 1 - s.lnk.txAcked).toNat := by
      rw [hq] at hn
      bv_omega
    have ht : s.takeAck q = { { s with lnk := { s.lnk with replayBuf := r } }.reported p with
        lnk := { s.lnk with replayBuf := r, txAcked := q, headReplays := 0 } } := by
      rw [State.takeAck]
      simp only [h1]
      rw [if_pos ⟨by decide, h2⟩, hb, List.length_cons, State.ackFront_one hb hr, State.lnk_reported]
    rw [ht]
    refine ⟨rfl, rfl, rfl, fun c hc hk hs => ?_⟩
    rw [hs]
    exact State.rseq_reported (s := { s with lnk := { s.lnk with replayBuf := r } }) hc hk hs

end Sys2Proof.Machine
end

section
/-! PROOFS. CRC-16 of the bus (O59). -/

namespace Sys2Proof.Machine

theorem crc16_append_singleton (d : List Byte) (v : Byte) : crc16 (d ++ [v]) = crc16Byte (crc16 d) v := by
  rw [crc16, List.foldl_append, List.foldl_cons, List.foldl_nil, crc16]

/-- A fold that does not look at its elements is a recursion on their number. -/
theorem foldl_range_eq_rec {α : Type} (f : α → α) (a : α) (n : Nat) :
    (List.range n).foldl (fun c _ => f c) a = Nat.rec a (fun _ c => f c) n := by
  induction n with
  | zero => rfl
  | succ n ih => rw [List.range_succ, List.foldl_append, List.foldl_cons, List.foldl_nil, ih]

/-- Settles O59: a byte is shifted through the register bit by bit, its most significant bit first. -/
theorem crcOfBus : Obligations.CrcOfBus := by
  unfold Obligations.CrcOfBus
  refine ⟨rfl, fun d v => ?_, by decide +kernel⟩
  rw [crc16_append_singleton, crc16Byte, foldl_range_eq_rec]
  rfl

end Sys2Proof.Machine
end

section
/-! PROOFS. What each state turns away (O15, Table NARROW-5). -/

namespace Sys2Proof.Machine

theorem State.busyCause_of_not_busy {s : State} (h : s.busy = false) {c : Nat} (hc : c < 9) : s.busyCause c = false := by
  have hz : s.busyCode = 0 := by simpa [State.busy] using h
  cases hf : (List.range 9).find? s.busyCause with
  | none => simpa using List.find?_eq_none.1 hf c (List.mem_range.2 hc)
  | some i =>
    have hi : i = 0 := by simpa [State.busyCode, hf] using hz
    exact absurd (List.find?_some hf) (by simp [hi, State.busyCause])

/-- A card that is not busy has no cause outside any list. -/
theorem State.onlyCauses_of_not_busy {s : State} (h : s.busy = false) (l : List Nat) : s.onlyCauses l = true := by
  refine List.all_eq_true.2 fun c hc => ?_
  simp [State.busyCause_of_not_busy h (List.mem_range.1 hc)]

/-- Settles O15: the checks of `State.turnsAway` in their order, state by state. -/
theorem commandsByState : Obligations.CommandsByState := by
  unfold Obligations.CommandsByState
  intro s op _ _
  refine ⟨?_, ?_, ?_, ?_, ?_, ?_⟩
  · rintro (rfl | rfl | rfl | rfl) <;> simp [State.turnsAway]
  · rintro hh (rfl | rfl | rfl | rfl) <;> simp [State.turnsAway, hh]
  · rintro hh hm rfl
    simp [State.turnsAway, hm]
  · intro hh hm ho
    have hn : s.lnk.mode ≠ .narrow := by rcases hm with hm | hm <;> simp [hm]
    rcases ho with rfl | rfl | rfl | rfl <;> simp [State.turnsAway, hh, hn]
  · intro hh hm hb
    refine ⟨?_, ?_⟩
    · rintro (rfl | rfl | rfl | rfl | ⟨rfl, ha⟩) <;> simp [State.turnsAway, State.onlyCauses_of_not_busy, *]
    · rintro rfl ha
      simp [State.turnsAway, hh, hm, ha]
  · intro hh hm hb
    refine ⟨?_, ?_, ?_, ?_, ?_⟩
    · rintro rfl
      simp [State.turnsAway, hh, hb]
    · rintro rfl
      simp [State.turnsAway, hm]
    · rintro rfl
      cases hc : s.onlyCauses [4, 6, 7] <;> simp [State.turnsAway, hh, hm, hc]
    · rintro rfl
      cases hc : s.onlyCauses [4, 6, 7] <;> simp [State.turnsAway, hh, hm, hc]
    · rintro rfl
      cases hc : s.onlyCauses [6, 7] <;> cases ha : s.scr.active <;>
        simp [State.turnsAway, hh, hm, hb, hc, State.busyCause, ha]

end Sys2Proof.Machine
end

section
/-! SUPPORT. Lists of bytes (R13). -/

namespace Sys2Proof.Machine

@[simp] theorem length_leBytes (n v : Nat) : (leBytes n v).length = n := by simp [leBytes]

end Sys2Proof.Machine
end

section
/-! SUPPORT. The manifest's length and the status word's fields (Tables NARROW-4 and NARROW-8). -/

namespace Sys2Proof.Machine

@[simp] theorem length_leSat (n v : Nat) : (leSat n v).length = n := by simp [leSat]

@[simp] theorem length_manifestField (tag : Nat) (v : List Byte) : (manifestField tag v).length = 2 + v.length := by
  simp [manifestField]
  omega

/-- The fourteen fields take 82 bytes whatever they say (R96). -/
theorem State.length_manifestFields (s : State) : s.manifestFields.length = 82 := by
  simp [State.manifestFields]

/-- A word's bits below a field are those of the fields before it. -/
theorem or_shiftLeft_eq_add {a k : Nat} (h : a < 2 ^ k) (b : Nat) : a ||| b <<< k = b * 2 ^ k + a := by
  rw [Nat.lor_comm, ← Nat.shiftLeft_add_eq_or_of_lt h, Nat.shiftLeft_eq]

/-- The status word's fields packed without a gap are their sum (Table NARROW-4). -/
theorem word_status {a b c d e f : Nat} (ha : a < 4) (hb : b < 2) (hc : c < 16) (hd : d < 2) (he : e < 256) (hf : f < 4) :
    (word [(a, 0), (b, 2), (c, 3), (d, 7), (e, 8), (f, 16)]).toNat = a + 4 * b + 8 * c + 128 * d + 256 * e + 65536 * f := by
  simp only [word, List.map_cons, List.map_nil, List.foldl_cons, List.foldl_nil, Nat.zero_or, Nat.shiftLeft_zero]
  rw [or_shiftLeft_eq_add (k := 2) (by omega), or_shiftLeft_eq_add (k := 3) (by omega), or_shiftLeft_eq_add (k := 7) (by omega),
    or_shiftLeft_eq_add (k := 8) (by omega), or_shiftLeft_eq_add (k := 16) (by omega), BitVec.toNat_ofNat]
  omega

theorem State.readyLevel_lt (s : State) : s.readyLevel < 4 := by
  unfold State.readyLevel
  split_ifs
  · decide
  · split <;> decide

theorem State.busyCode_lt (s : State) : s.busyCode < 16 := by
  unfold State.busyCode
  cases hf : (List.range 9).find? s.busyCause with
  | none => decide
  | some i =>
    have := List.mem_range.1 (List.mem_of_find?_eq_some hf)
    simp only [Option.getD_some]
    omega

end Sys2Proof.Machine
end


section
/-! PROOFS. MANIFEST and STATUS (O5). -/

namespace Sys2Proof.Machine

/-- The manifest's layout: L, the fields, the complement of L and a CRC-16 over all before it (R96, R97). -/
theorem State.manifestBytes_layout (s : State) : s.manifestBytes.length = 86 ∧ s.manifestBytes.take 1 = [82] ∧
    (s.manifestBytes.drop 83).take 1 = [~~~82] ∧
    s.manifestBytes.drop 84 = leBytes 2 (crc16 (s.manifestBytes.take 84)).toNat ∧
    (s.manifestBytes.drop 1).take 82 = s.manifestFields := by
  have hl := s.length_manifestFields
  have hb : s.manifestBytes = [82] ++ s.manifestFields ++ [~~~82] ++
      leBytes 2 (crc16 ([82] ++ s.manifestFields ++ [~~~82])).toNat := by
    simp only [State.manifestBytes, hl]
    rfl
  have ht : s.manifestBytes.take 84 = [82] ++ s.manifestFields ++ [~~~82] := by
    rw [hb]
    exact List.take_left' (by simp [hl])
  refine ⟨by simp [hb, hl], by simp [hb], ?_, ?_, ?_⟩
  · simp [hb, hl]
  · rw [ht, hb]
    exact List.drop_left' (by simp [hl])
  · simp [hb, hl]

/-- What the link's mode reads as in the status word (Table NARROW-4). -/
def LinkMode.code : LinkMode → Nat
  | .narrow => 0 | .training => 1 | .lane => 2 | .doze => 3

theorem LinkMode.code_lt (m : LinkMode) : m.code < 4 := by cases m <;> decide

/-- The fields of the status word as a sum. -/
theorem State.toNat_statusWord (s : State) : s.statusWord.toNat = s.readyLevel + 4 * s.busy.toNat + 8 * s.busyCode +
    128 * s.lnk.trainFail.toNat + 256 * min 255 s.nar.up.length + 65536 * s.lnk.mode.code := by
  rw [← word_status s.readyLevel_lt (Bool.toNat_lt _) s.busyCode_lt (Bool.toNat_lt _) (by omega) s.lnk.mode.code_lt]
  unfold State.statusWord
  cases s.lnk.mode <;> rfl

theorem bit_eq_decide {w : Nat} (v : BitVec w) (i : Nat) : bit v i = decide (v.toNat / 2 ^ i % 2 = 1) := by
  rw [bit, BitVec.getLsbD, Nat.testBit_eq_decide_div_mod_eq]

/-- Each field of the status word is read back. -/
theorem State.bits_statusWord (s : State) : bits s.statusWord 0 2 = s.readyLevel ∧ bit s.statusWord 2 = s.busy ∧
    bits s.statusWord 3 4 = s.busyCode ∧ bit s.statusWord 7 = s.lnk.trainFail ∧
    bits s.statusWord 8 8 = min 255 s.nar.up.length ∧ bits s.statusWord 16 2 = s.lnk.mode.code ∧
    bits s.statusWord 18 14 = 0 := by
  have ha := s.readyLevel_lt
  have hb := Bool.toNat_lt s.busy
  have hc := s.busyCode_lt
  have hd := Bool.toNat_lt s.lnk.trainFail
  have hf := s.lnk.mode.code_lt
  simp only [bits, bit_eq_decide, Nat.shiftRight_eq_div_pow, s.toNat_statusWord]
  refine ⟨by omega, ?_, by omega, ?_, by omega, by omega, by omega⟩
  · cases h : s.busy <;> simp [h] at * <;> omega
  · cases h : s.lnk.trainFail <;> simp [h] at * <;> omega

/-- What the status word reports is not moved by the token that asks for it. -/
theorem State.reports_takeToken (s : State) (t : Token) : (s.takeToken t).readyLevel = s.readyLevel ∧
    (s.takeToken t).busy = s.busy ∧ (s.takeToken t).busyCode = s.busyCode := by
  rw [State.takeToken_eq]
  exact ⟨rfl, rfl, rfl⟩

/-- Settles O5: MANIFEST's block is built from its fields, and STATUS's word holds each of its own. -/
theorem queries : Obligations.Queries := by
  unfold Obligations.Queries
  refine ⟨fun s tag h hp => ?_, fun s tag h => ?_⟩
  · have hk : (s.takeToken ⟨1, tag, 0⟩).checkLedger = s.takeToken ⟨1, tag, 0⟩ :=
      State.checkLedger_of_ok (by rw [State.hup_takeToken, hp])
    obtain ⟨hl, h1, h2, h3, h4⟩ := (s.takeToken ⟨1, tag, 0⟩).elapse.manifestBytes_layout
    refine ⟨_, _, narrowTurn_of_ok h.1 h.2 rfl _, ?_, ?_, hl, h1, h2, h3, ?_⟩
    · simp only [State.manifestBody, hk, hl]
      rfl
    · simp only [State.manifestBody, hk]
      rfl
    · rw [h4]
      simp only [State.manifestBody, hk]
      rfl
  · obtain ⟨h0, h1, h2, h3, h4, h5, h6⟩ := (s.takeToken ⟨4, tag, 0⟩).bits_statusWord
    obtain ⟨hr, hb, hc⟩ := s.reports_takeToken ⟨4, tag, 0⟩
    refine ⟨_, _, narrowTurn_of_ok h (by simp [State.turnsAway]) rfl _, rfl, rfl,
      State.narrowOnly_respond (s.narrowOnly_takeToken _) _ _ _, h0.trans hr, h1.trans hb, h2.trans hc, ?_, h4, ?_, h6⟩
    · rw [h3, State.lnk_takeToken]
    · rw [h5, State.lnk_takeToken]
      cases s.lnk.mode <;> rfl

end Sys2Proof.Machine
end

section
/-! PROOFS. GET, LANES, and the blocks of CTL_WR and PUT (O7, O11, O12). -/

namespace Sys2Proof.Machine

/-- A header's bytes 0-13. -/
@[simp] theorem length_hdrBytes (start typ : Nat) (h : Hdr) : (hdrBytes start typ h).length = 14 := by simp [hdrBytes]

/-- An up parcel is a header of 16 bytes, its payload and a CRC-32 (R118). -/
theorem UpParcel.bytes_layout (p : UpParcel) (busy : Bool) (w : W64) : (p.bytes busy w).length = 20 + p.body.bytes.length ∧
    ((p.bytes busy w).drop 16).take p.body.bytes.length = p.body.bytes := by
  unfold UpParcel.bytes
  extract_lets d h h1 h2
  have hl : h2.length = 16 := by simp [h2, h1]
  refine ⟨?_, ?_⟩
  · simp [hl, d]
    omega
  · rw [List.append_assoc, List.drop_left' hl, List.take_left' rfl]

/-- Settles O7: the front parcel is sent as it stands in the queue, and is marked as fetched. -/
theorem getCompletes : Obligations.GetCompletes := by
  unfold Obligations.GetCompletes
  intro s tag h
  refine ⟨_, narrowTurn_of_ok h.1 h.2 rfl _, ?_⟩
  cases hu : (s.takeToken ⟨8, tag, 0⟩).nar.up with
  | nil =>
    have hg : (s.takeToken ⟨8, tag, 0⟩).getBody = (s.takeToken ⟨8, tag, 0⟩).respond .ok 0 := by
      simp only [State.getBody, hu]
    rw [hg]
    refine ⟨rfl, fun _ => ⟨rfl, rfl, ?_⟩, fun p r hp => ?_⟩
    · exact s.fetched_takeToken ⟨8, tag, 0⟩
    · exact absurd (hu.symm.trans hp) (by simp)
  | cons p r =>
    let t := (s.takeToken ⟨8, tag, 0⟩).draw.2
    let d := p.bytes t.busy (Config.freeWord (s.takeToken ⟨8, tag, 0⟩).freeCtr)
    let u := t.respond .ok (BitVec.ofNat 32 d.length) (some d)
    have hg : (s.takeToken ⟨8, tag, 0⟩).getBody = { u with nar := { u.nar with fetched := true } } := by
      simp only [State.getBody, hu]
      rfl
    rw [hg]
    refine ⟨rfl, fun hn => ?_, fun p' r' hp => ?_⟩
    · exact absurd (hu.symm.trans hn) (by simp)
    · obtain ⟨rfl, rfl⟩ := List.cons.inj (hu.symm.trans hp)
      obtain ⟨h1, h2⟩ := p.bytes_layout t.busy (Config.freeWord (s.takeToken ⟨8, tag, 0⟩).freeCtr)
      exact ⟨d, rfl, rfl, rfl, h1, h2⟩

/-- Settles O11: the agreed set goes into training, with what was agreed of payloads and periods. -/
theorem lanesCompletes : Obligations.LanesCompletes := by
  unfold Obligations.LanesCompletes
  intro s tag h
  refine ⟨_, narrowTurn_of_ok h.1 h.2 rfl _, rfl, rfl, ?_, ?_, rfl, rfl, ?_⟩
  · simp [State.lanesBody, State.agreePeriod, State.respond]
  · simp [State.lanesBody, State.agreePeriod, State.respond]
  · simp [State.lanesBody, State.agreePeriod, State.respond, Link.trained]

theorem State.narrowOnly_askBlock {s u : State} (h : s.narrowOnly u) (a : Awaited) : s.narrowOnly (u.askBlock a) :=
  State.narrowOnly_setNar h _

theorem State.narrowOnly_putBody {s u : State} (h : s.narrowOnly u) (n : Nat) : s.narrowOnly (u.putBody n) := by
  unfold State.putBody
  split_ifs
  · exact State.narrowOnly_respond (State.narrowOnly_setNar h _) _ _ _
  · exact State.narrowOnly_askBlock h _

/-- Settles O12: a command that asks for a block moves narrow mode alone, and its block's outcome is its data response. -/
theorem blocksFromHost : Obligations.BlocksFromHost := by
  unfold Obligations.BlocksFromHost
  refine ⟨fun s tag arg h ho => ?_, fun s tag arg h hz hl => ?_,
    fun s d crc a t hh ha ht hd => ⟨fun hc => ?_, fun hc => ?_⟩⟩
  · exact ⟨_, narrowTurn_of_ok h.1 h.2 ho _, rfl, rfl, State.narrowOnly_askBlock (s.narrowOnly_takeToken _) _⟩
  · have hok : (bits arg 13 19 == 0 && decide (20 ≤ bits arg 0 13)) = true := by simp [hz, hl]
    refine ⟨_, narrowTurn_of_ok h.1 h.2 hok _, State.narrowOnly_putBody (s.narrowOnly_takeToken _) _, ?_⟩
    simp only [State.putBody, State.lnk_takeToken]
    split_ifs
    · exact ⟨rfl, rfl, congrArg satInc (s.oversize_takeToken _)⟩
    · exact ⟨rfl, rfl⟩
  · refine ⟨_, ?_, rfl⟩
    simp [exec, execHostDataBlock, hh, ha, hc, hd, settled]
  · refine ⟨s.answerBlock .blockCrc false, ?_, rfl, rfl, ?_⟩
    · simp [exec, execHostDataBlock, hh, ha, hc]
    · simp [State.answerBlock, ht]

end Sys2Proof.Machine
end

section
/-! SUPPORT. The parameters that a proposal leads to (R101). -/

namespace Sys2Proof.Machine

/-! ### The parameter word (Table NARROW-7) -/

section
variable {dir en : BitVec 6} {rate pay : Nat} {tide : BitVec 2} {credit : Nat}

/-- The fields of a parameter word as a sum. -/
theorem toNat_paramWord (hr : rate < 4) (hp : pay < 4) (hc : credit < 256) : (paramWord dir en rate pay tide credit).toNat =
    dir.toNat + 64 * en.toNat + 4096 * rate + 16384 * pay + 65536 * tide.toNat + 262144 * credit := by
  have h1 := dir.isLt
  have h2 := en.isLt
  have h3 := tide.isLt
  simp only [paramWord, BitVec.toNat_ofNat, Nat.shiftLeft_eq]
  omega

/-- Each field is read back. -/
theorem params_paramWord (hr : rate < 4) (hp : pay < 4) (hc : credit < 256) :
    paramDir (paramWord dir en rate pay tide credit) = dir ∧ paramEn (paramWord dir en rate pay tide credit) = en ∧
    paramRate (paramWord dir en rate pay tide credit) = rate ∧ bits (paramWord dir en rate pay tide credit) 14 2 = pay ∧
    paramTide (paramWord dir en rate pay tide credit) = tide ∧
    paramCredit (paramWord dir en rate pay tide credit) = credit := by
  have h1 := dir.isLt
  have h2 := en.isLt
  have h3 := tide.isLt
  have hw := toNat_paramWord (dir := dir) (en := en) (tide := tide) hr hp hc
  refine ⟨?_, ?_, ?_, ?_, ?_, ?_⟩
  · apply BitVec.eq_of_toNat_eq
    rw [paramDir, BitVec.toNat_setWidth, hw]
    omega
  · apply BitVec.eq_of_toNat_eq
    rw [paramEn, BitVec.extractLsb'_toNat, hw, Nat.shiftRight_eq_div_pow]
    omega
  · rw [paramRate, bits, hw, Nat.shiftRight_eq_div_pow]
    omega
  · rw [bits, hw, Nat.shiftRight_eq_div_pow]
    omega
  · apply BitVec.eq_of_toNat_eq
    rw [paramTide, BitVec.extractLsb'_toNat, hw, Nat.shiftRight_eq_div_pow]
    omega
  · rw [paramCredit, bits, hw, Nat.shiftRight_eq_div_pow]
    omega

end

theorem bits_lt {w : Nat} (v : BitVec w) (lo n : Nat) : bits v lo n < 2 ^ n := Nat.mod_lt _ (Nat.two_pow_pos n)

theorem clampNat_mem {lo hi : Nat} (h : lo ≤ hi) (n : Nat) : lo ≤ clampNat lo hi n ∧ clampNat lo hi n ≤ hi := by
  unfold clampNat
  omega

theorem clampNat_clampNat (lo hi n : Nat) : clampNat lo hi (clampNat lo hi n) = clampNat lo hi n := by
  unfold clampNat
  omega

theorem maxCredit_mem : 4 ≤ maxCredit ∧ maxCredit ≤ 32 := clampNat_mem (by decide) _

/-! ### The lanes of the two directions -/

/-- Two sets of lanes share none and make up a third. -/
def Splits (l a b : BitVec 6) : Prop := a &&& b = 0 ∧ a ||| b = l

theorem Splits.symm {l a b : BitVec 6} (h : Splits l a b) : Splits l b a := by
  rwa [Splits, BitVec.and_comm, BitVec.or_comm]

theorem splits_and_not (l d : BitVec 6) : Splits l (l &&& ~~~d) (l &&& d) := by
  constructor <;> ext i <;> simp <;> grind

theorem highestLane_le (v : BitVec 6) : highestLane v &&& ~~~v = 0 := by
  revert v
  decide

theorem splits_of_le {v h : BitVec 6} (hs : h &&& ~~~v = 0) : Splits v (v &&& ~~~h) h := by
  have hb (i : Nat) (hi : i < 6) : h[i] = true → v[i] = true := by
    have := congrArg (·[i]) hs
    simp at this
    grind
  constructor
  · ext i
    simp
  · ext i hi
    simp
    grind

/-- A lane given to the other direction leaves the set of lanes as it was (R101). -/
theorem Splits.giveLane {l a b : BitVec 6} (h : Splits l a b) : Splits l (giveLane a b).1 (giveLane a b).2 := by
  unfold Machine.giveLane
  split_ifs with hb
  · have ha : a = l := by simpa [hb.1] using h.2
    subst ha
    exact splits_of_le (highestLane_le a)
  · exact h

/-- A direction that has a lane is given none. -/
theorem giveLane_of_ne {a b : BitVec 6} (h : b ≠ 0) : Machine.giveLane a b = (a, b) := if_neg fun hb => h hb.1

theorem Splits.and_not {l a b : BitVec 6} (h : Splits l a b) : l &&& ~~~b = a := by
  obtain ⟨h1, rfl⟩ := h
  have hb (i : Nat) (hi : i < 6) : a[i] = true → b[i] = false := by
    have := congrArg (·[i]) h1
    simp at this
    grind
  ext i hi
  simp
  grind

theorem Splits.and {l a b : BitVec 6} (h : Splits l a b) : l &&& b = b := by
  obtain ⟨-, rfl⟩ := h
  ext i hi
  simp
  grind

/-! ### Counter-proposals -/

/-- The word that a proposal leads to once its lanes have been dealt out. -/
def State.dealt (s : State) (p : BitVec 26) (down : BitVec 6) : BitVec 26 :=
  paramWord down (paramEn p &&& s.lnk.usable) (if s.slowClock then 0 else paramRate p) (bits p 14 2) (paramTide p)
    (clampNat 4 maxCredit (paramCredit p))

/-- A proposal without lanes keeps the payload maximum and the tide period alone (R101). -/
theorem State.counterOf_of_none {s : State} {p : BitVec 26} (h : paramEn p = 0) :
    s.counterOf p = some (paramWord 0 0 0 (bits p 14 2) (paramTide p) 0) := by
  simp only [State.counterOf, if_pos h]

/-- A proposal with lanes is refused, or its usable lanes are dealt out with one each way (R101). -/
theorem State.counterOf_of_lanes {s : State} {p : BitVec 26} (h : paramEn p ≠ 0) : s.counterOf p = none ∨
    ∃ up down, Splits (paramEn p &&& s.lnk.usable) up down ∧ down ≠ 0 ∧ up ≠ 0 ∧
      s.counterOf p = some (s.dealt p down) := by
  let l := paramEn p &&& s.lnk.usable
  let x := giveLane (l &&& ~~~(paramDir p)) (l &&& paramDir p)
  let y := giveLane x.2 x.1
  have hs : Splits l y.2 y.1 := (splits_and_not l (paramDir p)).giveLane.symm.giveLane.symm
  have hc : s.counterOf p = if y.1 = 0 ∨ y.2 = 0 then none else some (s.dealt p y.1) := by
    simp only [State.counterOf, if_neg h]
    rfl
  by_cases h0 : y.1 = 0 ∨ y.2 = 0
  · exact .inl (hc.trans (if_pos h0))
  · rw [not_or] at h0
    exact .inr ⟨y.2, y.1, hs, h0.1, h0.2, hc.trans (if_neg (not_or.2 h0))⟩

/-- A proposal whose lanes are usable and go both ways is dealt out as it stands. -/
theorem State.counterOf_of_splits {s : State} {p : BitVec 26} {up : BitVec 6} (hu : paramEn p &&& s.lnk.usable = paramEn p)
    (hs : Splits (paramEn p) up (paramDir p)) (hd : paramDir p ≠ 0) (hp : up ≠ 0) :
    s.counterOf p = some (s.dealt p (paramDir p)) := by
  have hn : paramEn p ≠ 0 := fun he => hd (by simpa [he] using hs.and.symm)
  simp only [State.counterOf, if_neg hn, hu, hs.and, hs.and_not, giveLane_of_ne hd, giveLane_of_ne hp, hd, hp, or_self,
    if_false, State.dealt]

section
variable {s : State} {p : BitVec 26} {down : BitVec 6}

/-- What the word dealt out says, field by field. -/
theorem State.params_dealt : paramDir (s.dealt p down) = down ∧ paramEn (s.dealt p down) = paramEn p &&& s.lnk.usable ∧
    paramRate (s.dealt p down) = (if s.slowClock then 0 else paramRate p) ∧ bits (s.dealt p down) 14 2 = bits p 14 2 ∧
    paramTide (s.dealt p down) = paramTide p ∧ paramCredit (s.dealt p down) = clampNat 4 maxCredit (paramCredit p) := by
  refine params_paramWord ?_ (bits_lt p 14 2) ?_
  · split_ifs
    · decide
    · exact bits_lt p 12 2
  · have := clampNat_mem maxCredit_mem.1 (paramCredit p)
    have := maxCredit_mem
    omega

/-- The word dealt out is dealt out as itself: a proposal equal to it is accepted (R102). -/
theorem State.counterOf_dealt {up : BitVec 6} (hs : Splits (paramEn p &&& s.lnk.usable) up down)
    (hd : down ≠ 0) (hp : up ≠ 0) :
    s.counterOf (s.dealt p down) = some (s.dealt p down) := by
  obtain ⟨h1, h2, h3, h4, h5, h6⟩ := State.params_dealt (s := s) (p := p) (down := down)
  have hu : paramEn p &&& s.lnk.usable &&& s.lnk.usable = paramEn p &&& s.lnk.usable := by
    rw [BitVec.and_assoc, BitVec.and_self]
  have he : s.dealt (s.dealt p down) down = s.dealt p down := by
    conv_lhs => rw [State.dealt, h2, h3, h4, h5, h6, hu, clampNat_clampNat]
    rw [State.dealt]
    split_ifs <;> rfl
  rw [State.counterOf_of_splits (up := up) (by rw [h2, hu]) (by rwa [h1, h2]) (by rwa [h1]) hp, h1, he]

end

end Sys2Proof.Machine
end

section
/-! PROOFS. PROPOSE (O10). -/

namespace Sys2Proof.Machine

/-- A record of the card's own touches neither narrow mode nor the link (R284). -/
@[simp] theorem State.nar_sealCard (s : State) (typ : W16) (d : List Byte) : (s.sealCard typ d).nar = s.nar := by
  simp only [State.sealCard, State.sealRec]
  split_ifs <;> rfl

@[simp] theorem State.lnk_sealCard (s : State) (typ : W16) (d : List Byte) : (s.sealCard typ d).lnk = s.lnk := by
  simp only [State.sealCard, State.sealRec]
  split_ifs <;> rfl

@[simp] theorem State.nar_sealNegotiation (s : State) (kind : Nat) : (s.sealNegotiation kind).nar = s.nar := s.nar_sealCard _ _

@[simp] theorem State.lnk_sealNegotiation (s : State) (kind : Nat) : (s.sealNegotiation kind).lnk = s.lnk := s.lnk_sealCard _ _

/-- Acceptance restarts the count of R103 and stores the complement pair (R105); without lanes the payload maximum is in force
at once. -/
theorem State.accept_spec (s : State) (p : BitVec 26) : (s.accept p).nar = { s.nar with counters := 0 } ∧
    (s.accept p).lnk.agreed = Pair.mk' p ∧ (paramEn p = 0 → (s.accept p).lnk.pay = paramPay p) := by
  simp only [State.accept, State.nar_sealNegotiation, State.lnk_sealNegotiation]
  split_ifs with h
  · exact ⟨rfl, rfl, fun _ => rfl⟩
  · exact ⟨rfl, rfl, fun hn => absurd hn h⟩

/-- The result of a refusal: the parameters that stand, with the verdict "refused" (R103). -/
def State.refusedWord (s : State) : W32 := s.lnk.agreed.val.setWidth 32 ||| 0x8000000

/-- PROPOSE once a counter-proposal exists: it is too little for a reservation, is accepted, or is one counter more or one too
many (R100 to R105). -/
theorem State.proposeBody_of_some {s : State} {p c : BitVec 26} (hs : s.nar.shut = false) (hc : s.counterOf p = some c) :
    s.proposeBody p =
      if s.resvs.isEmpty = false ∧ s.limitsHold c s.resvs = false then s.respond .overReserved s.refusedWord
      else if c = p then (s.accept c).respond .ok (c.setWidth 32)
      else if 3 ≤ s.nar.counters then
        { s with nar := { s.nar with shut := true }, lnk := { s.lnk with accepted := false } }.respond .ok s.refusedWord
      else { s with nar := { s.nar with counters := s.nar.counters + 1 } }.respond .ok (c.setWidth 32 ||| 0x4000000) := by
  simp [State.proposeBody, hs, hc, State.refusedWord]

/-- Settles O10: the verdicts are the branches of `State.proposeBody`; what a counter-proposal says is read off the word that
deals out its lanes. -/
theorem proposals : Obligations.Proposals := by
  unfold Obligations.Proposals
  refine ⟨fun s tag arg h ho hs => ?_, fun s tag arg h ho hs => ?_, fun s p c hc => ?_, fun s p c _ hc => ?_⟩
  · intro s'
    have hl : s'.nar.last = some ⟨2, tag, arg⟩ := rfl
    have hk : s'.lnk = s.lnk := s.lnk_takeToken _
    have hn : s'.nar.counters = s.nar.counters := s.counters_takeToken _
    have hu : s'.nar.shut = false := (s.shut_takeToken _).trans hs
    refine ⟨s'.proposeBody (arg.setWidth 26), narrowTurn_of_ok h.1 h.2 ho _, ?_⟩
    clear_value s'
    cases hc : s'.counterOf (arg.setWidth 26) with
    | none => simp [State.proposeBody, hu, hc, State.respond, hl, hk, hn]
    | some c =>
      have hb := State.proposeBody_of_some hu hc
      dsimp only
      rw [← hk, ← hn]
      by_cases h1 : s'.resvs.isEmpty = false ∧ s'.limitsHold c s'.resvs = false
      · rw [if_pos h1, hb, if_pos h1]
        exact ⟨by simp [hl, State.refusedWord], rfl, rfl⟩
      rw [if_neg h1] at hb ⊢
      by_cases h2 : c = arg.setWidth 26
      · obtain ⟨ha, hp, hd⟩ := s'.accept_spec c
        rw [if_pos h2, hb, if_pos h2]
        exact ⟨by simp [ha, hl], hp, congrArg Narrow.counters ha, hd⟩
      rw [if_neg h2] at hb ⊢
      by_cases h3 : 3 ≤ s'.nar.counters
      · rw [if_pos h3, hb, if_pos h3]
        exact ⟨by simp [hl, State.refusedWord], rfl, rfl⟩
      · rw [if_neg h3, hb, if_neg h3]
        exact ⟨by simp [hl], rfl, rfl⟩
  · have hb : (s.takeToken ⟨2, tag, arg⟩).proposeBody (arg.setWidth 26) =
        (s.takeToken ⟨2, tag, arg⟩).respond .ok (s.lnk.agreed.val.setWidth 32 ||| 0x8000000) := by
      simp [State.proposeBody, hs]
    refine ⟨_, narrowTurn_of_ok h.1 h.2 ho _, ?_⟩
    rw [hb]
    exact ⟨State.narrowOnly_respond (s.narrowOnly_takeToken _) _ _ _, rfl⟩
  · by_cases hp : paramEn p = 0
    · obtain ⟨h1, h2, h3, h4, h5, h6⟩ := params_paramWord (dir := 0) (en := 0) (tide := paramTide p)
        (rate := 0) (credit := 0) (by decide) (bits_lt p 14 2) (by decide)
      obtain rfl := Option.some.inj ((State.counterOf_of_none hp).symm.trans hc)
      exact ⟨by rw [h2]; exact BitVec.zero_and, h4, h5, fun hn => absurd hp hn, fun _ => ⟨h1, h3, h6, h2⟩⟩
    · obtain hn | ⟨up, down, hs, hd, hu, he⟩ := s.counterOf_of_lanes hp
      · exact absurd (hn.symm.trans hc) (by simp)
      · obtain rfl := Option.some.inj (he.symm.trans hc)
        obtain ⟨h1, h2, h3, h4, h5, h6⟩ := State.params_dealt (s := s) (p := p) (down := down)
        obtain ⟨hc1, hc2⟩ := clampNat_mem maxCredit_mem.1 (paramCredit p)
        rw [h1, h2, h4, h5, h6, hs.and, hs.and_not]
        exact ⟨by simp, rfl, rfl, fun _ => ⟨hd, hu, hc1, hc2⟩, fun hz => absurd hz hp⟩
  · by_cases hp : paramEn p = 0
    · obtain ⟨h1, h2, h3, h4, h5, h6⟩ := params_paramWord (dir := 0) (en := 0) (tide := paramTide p)
        (rate := 0) (credit := 0) (by decide) (bits_lt p 14 2) (by decide)
      obtain rfl := Option.some.inj ((State.counterOf_of_none hp).symm.trans hc)
      rw [State.counterOf_of_none h2, h4, h5]
    · obtain hn | ⟨up, down, hs, hd, hu, he⟩ := s.counterOf_of_lanes hp
      · exact absurd (hn.symm.trans hc) (by simp)
      · rw [← Option.some.inj (he.symm.trans hc), State.counterOf_dealt hs hd hu]

end Sys2Proof.Machine
end

section
/-! SUPPORT. What the machine's own work leaves: the commands that wait, the reset block, and of the link and of narrow mode all
but the up path, which such work may lengthen (R123, R128). One lemma for each operation that a fault event can reach. -/

namespace Sys2Proof.Machine

/-- The link without what the up path moves. -/
def Link.held (l : Link) : Link := { l with wakeLow := false, creditUp := 0, replayBuf := [], txNext := 0, sent := [] }

/-- Narrow mode without the queue of up parcels. -/
def Narrow.held (n : Narrow) : Narrow := { n with up := [] }

/-- `t` has of `s` what the card's own work does not move. -/
@[simp] abbrev State.Keeps (s t : State) : Prop :=
  t.pending = s.pending ∧ t.lnk.held = s.lnk.held ∧ t.nar.held = s.nar.held ∧ t.rst = s.rst

theorem State.Keeps.refl (s : State) : s.Keeps s := ⟨rfl, rfl, rfl, rfl⟩

theorem State.Keeps.trans {s t u : State} (h : s.Keeps t) (g : t.Keeps u) : s.Keeps u := by
  obtain ⟨h1, h2, h3, h4⟩ := h
  obtain ⟨g1, g2, g3, g4⟩ := g
  exact ⟨g1.trans h1, g2.trans h2, g3.trans h3, g4.trans h4⟩

@[simp] theorem keeps_foldl {α : Type} {f : State → α → State} (h : ∀ (s : State) (a : α), s.Keeps (f s a)) (l : List α)
    (s : State) : s.Keeps (l.foldl f s) := by
  induction l generalizing s with
  | nil => exact .refl s
  | cons a r ih => exact (h s a).trans (ih _)

@[simp] theorem keeps_foldl_snd {α β : Type} {f : β × State → α → β × State}
    (h : ∀ (p : β × State) (a : α), p.2.Keeps (f p a).2) (l : List α) (p : β × State) : p.2.Keeps (l.foldl f p).2 := by
  induction l generalizing p with
  | nil => exact .refl p.2
  | cons a r ih => exact (h p a).trans (ih _)

@[simp] theorem State.keeps_drainUp (n : Nat) (s : State) : s.Keeps (State.drainUp n s) := by
  induction n generalizing s with
  | zero => exact .refl s
  | succ n ih =>
    obtain h | ⟨p, r, -, h⟩ := s.drainUp_cases n
    · rw [h]
      exact .refl s
    · rw [h]
      exact .trans (t := s.leaveUp p r) ⟨rfl, rfl, rfl, rfl⟩ (ih _)

@[simp] theorem State.keeps_sendUp (s : State) (p : UpParcel) : s.Keeps (s.sendUp p) := by
  unfold State.sendUp
  exact .trans ⟨rfl, rfl, rfl, rfl⟩ (State.keeps_drainUp _ _)

@[simp] theorem State.keeps_raiseEvent (s : State) (code : Nat) (arg : W32) (src : Option BerthId) :
    s.Keeps (s.raiseEvent code arg src) := by
  simp only [State.raiseEvent]
  split <;> simp

@[simp] theorem State.keeps_sendCompletion (s : State) (b : BerthId) (tag : W16) (op : Byte) (st : Status) (done : Nat)
    (first : Option Nat) (res : W64) : s.Keeps (s.sendCompletion b tag op st done first res) := by
  simp [State.sendCompletion]

@[simp] theorem State.keeps_discard (s : State) (n : Nat) : s.Keeps (s.discard n) := .refl _

@[simp] theorem State.keeps_dropChunks (s : State) (b : BerthId) (p : Chunk → Bool) : s.Keeps (s.dropChunks b p) := .refl _

@[simp] theorem State.keeps_leaveData (s : State) (b : BerthId) (q : QInstr) (took : Bool) :
    s.Keeps (s.leaveData b q took) := .refl _

@[simp] theorem State.keeps_flushQueue (s : State) (b : BerthId) (qs : List QInstr) : s.Keeps (s.flushQueue b qs) := by
  induction qs generalizing s with
  | nil => exact .refl _
  | cons q r ih =>
    rw [State.flushQueue]
    exact .trans (by simp) (ih _)

@[simp] theorem State.keeps_stopBerth (s : State) (b : BerthId) (st : Status) : s.Keeps (s.stopBerth b st) := by
  simp only [State.stopBerth]
  split <;> simp

@[simp] theorem State.keeps_rest (s : State) (b : BerthId) : s.Keeps (s.rest b) := by
  simp only [State.rest]
  split <;> simp

@[simp] theorem State.keeps_stopHere (s : State) (b : BerthId) : s.Keeps (s.stopHere b) := by
  simp only [State.stopHere]
  split <;> simp

theorem State.keeps_concludes (s : State) (b : BerthId) (q : QInstr) (st : Status) (done : Nat) (first : Option Nat)
    (res : Option W64) (pc : Nat) : s.Keeps (s.concludes b q st done first res pc) := by
  unfold State.concludes
  extract_lets u x
  have hu : s.Keeps u := by
    simp only [u]
    split_ifs <;> simp
  split_ifs <;> simp [hu]

@[simp] theorem State.keeps_finishAt (s : State) (b : BerthId) (q : QInstr) (st : Status) (done : Nat) (first : Option Nat)
    (res : Option W64) (pc : Nat) : s.Keeps (s.finishAt b q st done first res pc) := by
  rw [State.finishAt_eq]
  exact .trans (by simp [State.leaves, State.countThru]) (State.keeps_concludes _ _ _ _ _ _ _ _)

@[simp] theorem State.keeps_finish (s : State) (b : BerthId) (q : QInstr) (st : Status) (done : Nat) (first : Option Nat)
    (res : Option W64) : s.Keeps (s.finish b q st done first res) := by
  simp [State.finish]

@[simp] theorem State.keeps_refuseReq (s : State) (reason : Nat) : s.Keeps (s.refuseReq reason) := by
  unfold State.refuseReq
  split <;> simp

@[simp] theorem State.keeps_wakeBy (s : State) (src : Nat) (ds : List (Fin 16)) : s.Keeps (s.wakeBy src ds) := by
  simp only [State.wakeBy]
  split_ifs <;> simp

@[simp] theorem State.keeps_creditBy (s : State) (n : Nat) : s.Keeps (s.creditBy n) := .refl _

@[simp] theorem State.keeps_creditItem (s : State) (k : ItemKind) (cost : Nat) : s.Keeps (s.creditItem k cost) := .refl _

@[simp] theorem State.keeps_command (s : State) (e : CartridgeEvent) : s.Keeps (s.command e) := by
  unfold State.command
  split <;> simp

@[simp] theorem State.keeps_sealRec (s : State) (r : ToSeal) : s.Keeps (s.sealRec r) := by
  simp only [State.sealRec]
  split_ifs <;> simp

@[simp] theorem State.keeps_sealCard (s : State) (typ : W16) (payload : List Byte) : s.Keeps (s.sealCard typ payload) := by
  unfold State.sealCard
  split <;> simp

@[simp] theorem State.keeps_putUnit (s : State) (k : Nat) (u : MUnit) : s.Keeps (s.putUnit k u) := .refl _

@[simp] theorem State.keeps_addStale (s : State) (k : Nat) (orphan : Bool) (x : Option Copy) :
    s.Keeps (s.addStale k orphan x) := by
  unfold State.addStale
  split <;> simp

@[simp] theorem State.keeps_orphan (s : State) (k : Nat) (base : Option Copy) (v : Version) : s.Keeps (s.orphan k base v) := by
  unfold State.orphan
  split <;> simp

@[simp] theorem State.keeps_commitVersion (s : State) (stamp : Nat) (k : Nat) : s.Keeps (s.commitVersion stamp k) := by
  simp only [State.commitVersion]
  split <;> simp

@[simp] theorem State.keeps_purgeUnit (s : State) (k : Nat) : s.Keeps (s.purgeUnit k) := by
  simp [State.purgeUnit]

@[simp] theorem State.keeps_closeRows (s : State) (set : Nat) (c : RowClass) : s.Keeps (s.closeRows set c) := .refl _

@[simp] theorem State.keeps_openRow (s : State) (set : Nat) (c : RowClass) : s.Keeps ((s.openRow set c).2) := .refl _

theorem State.keeps_givePlaces {s t : State} {c : RowClass} {l : Loc} {code : Code} {n : Nat} {be : Bool} {ps : List Place}
    (h : s.givePlaces c l code n be = some (ps, t)) : s.Keeps (t) := by
  rw [State.givePlaces_frame h]
  exact ⟨rfl, rfl, rfl, rfl⟩

@[simp] theorem State.keeps_planMoves (s : State) (ks : List Nat) (bestEffort : Bool) :
    s.Keeps ((s.planMoves ks bestEffort).2) := by
  refine keeps_foldl_snd (fun p k => ?_) _ _
  split
  · exact .refl _
  · simp only
    split
    · next h => exact State.keeps_givePlaces h
    · exact .refl _

@[simp] theorem State.keeps_commitMove (s : State) (m : Move) : s.Keeps (s.commitMove m) := by
  simp only [State.commitMove]
  (repeat' split) <;> simp

@[simp] theorem State.keeps_freeRow (s : State) (id : Nat) : s.Keeps (s.freeRow id) := by
  unfold State.freeRow
  split <;> simp

@[simp] theorem State.keeps_retag (s : State) : s.Keeps (s.retag) := .refl _

@[simp] theorem State.keeps_purgeSeg (s : State) (r : Nat) (seg : Nat) : s.Keeps (s.purgeSeg r seg) := by
  simp [State.purgeSeg]

@[simp] theorem State.keeps_leaveSlot (s : State) (r : Nat) (seg : Nat) : s.Keeps (s.leaveSlot r seg) := .refl _

@[simp] theorem State.keeps_dropSeg (s : State) (r : Nat) (seg : Nat) : s.Keeps (s.dropSeg r seg) := by
  simp [State.dropSeg]

@[simp] theorem State.keeps_sweepRing (s : State) (r : Nat) (segs : List Nat) : s.Keeps (s.sweepRing r segs) := by
  refine keeps_foldl (fun s g => ?_) _ _
  split_ifs <;> simp

@[simp] theorem State.keeps_advanceTail (n r : Nat) (s : State) : s.Keeps (State.advanceTail n r s) := by
  induction n generalizing s with
  | zero => exact .refl _
  | succ n ih =>
    simp only [State.advanceTail]
    split_ifs <;> simp [ih]

@[simp] theorem State.keeps_settleTaken (s : State) (r : Nat) (p : Taken → Bool) : s.Keeps (s.settleTaken r p) := by
  simp [State.settleTaken]

@[simp] theorem State.keeps_completeUnit (s : State) (r : Nat) (no : Nat) : s.Keeps (s.completeUnit r no) := by
  simp [State.completeUnit]

@[simp] theorem State.keeps_guardRecord (s : State) (region : Nat) (old : W32) (new : W32) (how : Nat) (b : BerthId) :
    s.Keeps (s.guardRecord region old new how b) := by
  simp [State.guardRecord]

@[simp] theorem State.keeps_closeSessions (s : State) : s.Keeps (s.closeSessions) := .refl _

@[simp] theorem State.keeps_cancelResv (s : State) (b : BerthId) : s.Keeps (s.cancelResv b) := by
  unfold State.cancelResv
  split <;> simp

@[simp] theorem State.keeps_lockRecord (s : State) (old : Nat) (new : Nat) (pw : Nat) (b : BerthId) :
    s.Keeps (s.lockRecord old new pw b) := by
  simp [State.lockRecord]

@[simp] theorem State.keeps_lockChange (s : State) (b : BerthId) (st : BitVec 2) (pw : PwChange) :
    s.Keeps (s.lockChange b st pw) := by
  simp only [State.lockChange]
  split <;> simp

@[simp] theorem State.keeps_releaseHold (s : State) (id : Nat) : s.Keeps (s.releaseHold id) := by
  unfold State.releaseHold
  split <;> simp

@[simp] theorem State.keeps_rekey (s : State) (r : Nat) (region : Nat) (segs : List Nat) : s.Keeps (s.rekey r region segs) := by
  unfold State.rekey
  exact keeps_foldl (fun s p => by simp) _ _

@[simp] theorem State.keeps_harvestHold (s : State) (b : BerthId) (id : Nat) (region : Nat) :
    s.Keeps (s.harvestHold b id region) := by
  unfold State.harvestHold
  split <;> simp

@[simp] theorem State.keeps_itemDurable (s : State) (b : BerthId) : s.Keeps (s.itemDurable b) := by
  unfold State.itemDurable
  (repeat' split) <;> simp

@[simp] theorem State.keeps_itemDurableOpt (s : State) (x : Option BerthId) : s.Keeps (s.itemDurable? x) := by
  unfold State.itemDurable?
  split <;> simp

@[simp] theorem State.keeps_reportWeed (s : State) (region : Nat) (start : Nat) (done : Nat) :
    s.Keeps (s.reportWeed region start done) := by
  unfold State.reportWeed
  split <;> simp

@[simp] theorem State.keeps_weedRecord (s : State) (b : Option BerthId) (region : Nat) (start : Nat) (done : Nat) :
    s.Keeps (s.weedRecord b region start done) := by
  simp only [State.weedRecord]
  split_ifs <;> simp

@[simp] theorem State.keeps_weedDone (s : State) (b : Option BerthId) (region : Nat) (start : Nat) (done : Nat)
    (rows : List Nat) : s.Keeps (s.weedDone b region start done rows) := by
  simp [State.weedDone]

@[simp] theorem State.keeps_startMove (s : State) (id : Nat) : s.Keeps (s.startMove id) := .refl _

@[simp] theorem State.keeps_weedStart (s : State) (b : Option BerthId) (region : Nat) (start : Nat) (blocks : Nat)
    (done : Nat) (segs : List Nat) : s.Keeps (s.weedStart b region start blocks done segs) := by
  unfold State.weedStart
  extract_lets u per lo hi rows c v w
  have hu : s.Keeps u := keeps_foldl (fun s g => s.keeps_purgeSeg region g) _ _
  have hv : s.Keeps v := hu.trans ⟨rfl, rfl, rfl, rfl⟩
  have hw : v.Keeps w := keeps_foldl State.keeps_startMove _ _
  split_ifs
  · exact hv.trans (State.keeps_weedDone v _ _ _ _ _)
  · exact hv.trans (hw.trans ((State.keeps_planMoves _ _ _).trans ⟨rfl, rfl, rfl, rfl⟩))

@[simp] theorem State.keeps_busyOut (s : State) (b : BerthId) : s.Keeps (s.busyOut b) := by
  unfold State.busyOut
  (repeat' split) <;> simp

@[simp] theorem State.keeps_eraseStart (s : State) (b : BerthId) : s.Keeps (s.eraseStart b) := by
  unfold State.eraseStart
  extract_lets u g v
  have hu : s.Keeps u := (State.keeps_refuseReq s 7).trans (State.keeps_lockChange _ b 2 .keep)
  have hv : u.Keeps v := ⟨rfl, rfl, rfl, rfl⟩
  split_ifs
  · exact .refl s
  · refine (hu.trans hv).trans (keeps_foldl (fun s x => ?_) _ _)
    split_ifs <;> simp

@[simp] theorem State.keeps_eraseKeys (s : State) : s.Keeps s.eraseKeys := by
  unfold State.eraseKeys
  extract_lets u
  have hu : s.Keeps u := ⟨rfl, rfl, rfl, rfl⟩
  exact hu.trans (keeps_foldl State.keeps_cancelResv _ _)

@[simp] theorem State.keeps_delegate (s : State) (b : BerthId) (ps : List (Fin 4)) : s.Keeps (s.delegate b ps) := by
  simp [State.delegate]

@[simp] theorem State.keeps_orderErase (s : State) (b : BerthId) : s.Keeps (s.orderErase b) := by
  simp only [State.orderErase]
  split_ifs <;> simp

@[simp] theorem State.keeps_eraseSteps (s : State) (b : BerthId) : s.Keeps (s.eraseSteps b) := by
  unfold State.eraseSteps
  extract_lets u v w
  have hu : s.Keeps u := State.keeps_sealCard s _ _
  have hv : u.Keeps v := State.keeps_eraseKeys u
  have hw : v.Keeps w := State.keeps_orderErase v b
  clear_value w
  exact (hu.trans (hv.trans hw)).trans ⟨rfl, rfl, rfl, rfl⟩

@[simp] theorem State.keeps_weedNext (s : State) (b : Option BerthId) (region : Nat) (start : Nat) (done : Nat)
    (rows : List Nat) : s.Keeps (s.weedNext b region start done rows) := by
  simp only [State.weedNext]
  split <;> simp

@[simp] theorem State.keeps_runAfter (s : State) (a : After) : s.Keeps (s.runAfter a) := by
  cases a with
  | drop region segs => exact keeps_foldl (fun s g => s.keeps_purgeSeg region g) _ _
  | blocks xs => exact keeps_foldl (fun s _ => by exact ⟨rfl, rfl, rfl, rfl⟩) _ _
  | _ => simp [State.runAfter]

@[simp] theorem State.keeps_commitChange (s : State) (c : Change) : s.Keeps (s.commitChange c) := by
  unfold State.commitChange
  split_ifs <;> simp

@[simp] theorem State.keeps_enter (s : State) (seq : W64) (cs : List Change) (items : List JItem) :
    s.Keeps (s.enter seq cs items) := .refl _

@[simp] theorem State.keeps_writePage (s : State) (p : Nat) : s.Keeps (s.writePage p) := by
  unfold State.writePage
  split
  · next h => exact .trans (State.keeps_givePlaces h) (by simp)
  · exact .refl _

@[simp] theorem State.keeps_writeRoot (s : State) : s.Keeps (s.writeRoot) := by
  simp [State.writeRoot]

@[simp] theorem State.keeps_boundDirty (s : State) : s.Keeps (s.boundDirty) := by
  unfold State.boundDirty
  extract_lets n u
  have hu : s.Keeps u := keeps_foldl State.keeps_writePage _ _
  clear_value u
  exact hu.trans ⟨rfl, rfl, rfl, rfl⟩

@[simp] theorem State.keeps_journalCommit (s : State) : s.Keeps (s.journalCommit) := by
  simp only [State.journalCommit]
  (repeat' split) <;> simp

@[simp] theorem State.keeps_journalDone (s : State) (seq : W64) (cs : List Change) : s.Keeps (s.journalDone seq cs) := by
  simp [State.journalDone]

@[simp] theorem State.keeps_completeRecords (n : Nat) (s : State) : s.Keeps (State.completeRecords n s) := by
  induction n generalizing s with
  | zero => exact .refl _
  | succ n ih =>
    rw [State.completeRecords]
    split
    · exact .refl _
    · refine .trans ?_ (ih _)
      split_ifs <;> simp

@[simp] theorem State.keeps_logCopyDone (s : State) (seq : W64) (copyB : Bool) : s.Keeps (s.logCopyDone seq copyB) := by
  simp [State.logCopyDone]

@[simp] theorem State.keeps_disownBy (s : State) (p : BerthId → Bool) : s.Keeps (s.disownBy p) := .refl _

@[simp] theorem State.keeps_disown (s : State) (b : BerthId) : s.Keeps (s.disown b) := .refl _

@[simp] theorem State.keeps_cancelDram (s : State) : s.Keeps (s.cancelDram) := by
  refine keeps_foldl (fun t p => ?_) _ _
  split
  · split_ifs <;> simp
  · exact .refl _

@[simp] theorem State.keeps_cancelShrunk (n : Nat) (s : State) : s.Keeps (State.cancelShrunk n s) := by
  induction n generalizing s with
  | zero => exact .refl _
  | succ n ih =>
    rw [State.cancelShrunk]
    split_ifs
    · exact .refl _
    · split
      · exact .trans (State.keeps_cancelResv _ _) (ih _)
      · exact .refl _

@[simp] theorem State.keeps_reportClass (s : State) (src : Nat) : s.Keeps (s.reportClass src) := by
  simp only [State.reportClass]
  split <;> simp

@[simp] theorem State.keeps_haltBerth (s : State) (b : BerthId) : s.Keeps (s.haltBerth b) := by
  unfold State.haltBerth
  split <;> simp

@[simp] theorem State.keeps_elapse (s : State) : s.Keeps (s.elapse) := .refl _

@[simp] theorem State.keeps_mirrorDone (s : State) (n : Fin 32) (v : W64) (mirrorB : Bool) :
    s.Keeps (s.mirrorDone n v mirrorB) := by
  simp only [State.mirrorDone]
  split_ifs <;> exact ⟨rfl, rfl, rfl, rfl⟩

@[simp] theorem State.keeps_dieOk (s : State) (k : DieKind) : s.Keeps (s.dieOk k) := by
  cases k with
  | ctrMirror n v mb o cost =>
    simp only [State.dieOk]
    split_ifs <;> simp
  | _ => simp [State.dieOk]

@[simp] theorem State.keeps_finishWhere (p : DieKind → Bool) (n : Nat) (s : State) : s.Keeps (State.finishWhere p n s) := by
  induction n generalizing s with
  | zero => exact .refl _
  | succ n ih =>
    rw [State.finishWhere]
    split
    · simp [ih]
    · split_ifs
      · exact .refl _
      · simp [ih]

@[simp] theorem State.keeps_finishPromised (n : Nat) (s : State) : s.Keeps (State.finishPromised n s) :=
  s.keeps_finishWhere _ n

@[simp] theorem State.keeps_restoreCfg (s : State) (o : OldCfg) : s.Keeps (s.restoreCfg o) := by
  unfold State.restoreCfg
  extract_lets u v
  have hu : s.Keeps u := keeps_foldl (fun s p => by exact ⟨rfl, rfl, rfl, rfl⟩) _ _
  have hv : u.Keeps v := keeps_foldl (fun s p => by exact ⟨rfl, rfl, rfl, rfl⟩) _ _
  exact (hu.trans hv).trans ⟨rfl, rfl, rfl, rfl⟩

@[simp] theorem State.keeps_dropVersion (s : State) (stamp k : Nat) : s.Keeps (s.dropVersion stamp k) := by
  simp only [State.dropVersion]
  split <;> simp

@[simp] theorem State.keeps_undoChange (s : State) (c : Change) : s.Keeps (s.undoChange c) := by
  unfold State.undoChange
  extract_lets u v
  have hu : s.Keeps u := keeps_foldl (fun s k => s.keeps_dropVersion c.stamp k) _ _
  have hv : u.Keeps v := by
    simp only [v]
    split_ifs <;> simp
  refine (hu.trans hv).trans (keeps_foldl (fun s a => ?_) _ _)
  cases a <;> simp

@[simp] theorem State.keeps_withdraw (s : State) (p : Change → Bool) : s.Keeps (s.withdraw p) := by
  unfold State.withdraw
  exact .trans ⟨rfl, rfl, rfl, rfl⟩ (keeps_foldl State.keeps_undoChange _ _)

end Sys2Proof.Machine
end

section
/-! SUPPORT. What a fault event can take of the link: lanes, and lane mode itself (R107, R124, R417 to R419, Table FLT-2). -/

namespace Sys2Proof.Machine

/-- The link without what lane mode and its lanes are. -/
def Link.core (l : Link) : Link :=
  { l.held with
    mode := .narrow, usable := 0, active := 0, down := 0, headReplays := 0, sliceLost := false, dozeAccepted := false
    armed := false, rxMode := .normal, fast := false }

/-- `t` is `s` after faults: the link may have fallen back to narrow mode and lost lanes, never the other way. -/
structure State.Degrades (s t : State) : Prop where
  pending : t.pending = s.pending
  narrow : t.nar.held = s.nar.held
  reset : t.rst = s.rst
  link : t.lnk.core = s.lnk.core
  mode : s.lnk.mode = .narrow → t.lnk.mode = .narrow
  usable : t.lnk.usable &&& ~~~s.lnk.usable = 0

theorem and_not_trans {w : Nat} {a b c : BitVec w} (h : b &&& ~~~a = 0) (g : c &&& ~~~b = 0) : c &&& ~~~a = 0 := by
  ext i hi
  have h' := congrArg (·[i]) h
  have g' := congrArg (·[i]) g
  simp at h' g' ⊢
  grind

theorem State.Degrades.trans {s t u : State} (h : s.Degrades t) (g : t.Degrades u) : s.Degrades u where
  pending := g.pending.trans h.pending
  narrow := g.narrow.trans h.narrow
  reset := g.reset.trans h.reset
  link := g.link.trans h.link
  mode := g.mode ∘ h.mode
  usable := and_not_trans h.usable g.usable

theorem State.Keeps.degrades {s t : State} (h : s.Keeps t) : s.Degrades t := by
  obtain ⟨hp, hl, hn, hr⟩ := h
  have hu := congrArg Link.usable hl
  have hm := congrArg Link.mode hl
  have hc := congrArg Link.core hl
  refine ⟨hp, hn, hr, hc, fun h => hm.trans h, ?_⟩
  rw [show t.lnk.usable = s.lnk.usable from hu]
  exact BitVec.and_not_self _

theorem State.Degrades.refl (s : State) : s.Degrades s := (State.Keeps.refl s).degrades

theorem State.degrades_leaveLane (s : State) : s.Degrades s.leaveLane :=
  ⟨rfl, rfl, rfl, rfl, fun _ => rfl, by simp [State.leaveLane]⟩

theorem clearBit_le {w : Nat} (v : BitVec w) (i : Nat) : clearBit v i &&& ~~~v = 0 := by
  ext j hj
  simp [clearBit]
  grind

theorem State.degrades_dropLane (s : State) (n : Nat) : s.Degrades (s.dropLane n) := by
  unfold State.dropLane
  extract_lets was l t
  have ht : s.Degrades t := ⟨rfl, rfl, rfl, rfl, id, clearBit_le _ _⟩
  split_ifs
  · exact ht.trans t.degrades_leaveLane
  · exact ht

theorem State.degrades_isolate (s : State) (u : FUnit) (forced : Bool) : s.Degrades (s.isolate u forced) := by
  cases u with
  | lane n =>
    have h : s.Keeps { s with flt := { s.flt with fences := { s.flt.fences with lanes := setBit s.flt.fences.lanes n } } } :=
      ⟨rfl, rfl, rfl, rfl⟩
    exact h.degrades.trans (State.degrades_dropLane _ n)
  | channel n | die n | codec n =>
    refine State.Keeps.degrades ?_
    simp only [State.isolate]
    split_ifs <;> exact ⟨rfl, rfl, rfl, rfl⟩
  | _ => exact State.Keeps.degrades ⟨rfl, rfl, rfl, rfl⟩

theorem State.degrades_haltEntry (s : State) (src : Nat) : s.Degrades (s.haltEntry src) := by
  unfold State.haltEntry
  split
  · exact .refl s
  · extract_lets _ a b _ _ c d _ e _ f g
    have ha : s.Keeps a := .trans ⟨rfl, rfl, rfl, rfl⟩ (State.keeps_command _ _)
    clear_value a
    have hb : a.Keeps b := by
      simp only [b]
      split_ifs <;> simp
    clear_value b
    have hd : b.Keeps d := (State.keeps_sealCard _ _ _).trans (State.keeps_finishPromised _ _)
    clear_value d
    have he : b.Keeps e := by
      simp only [e]
      split
      · exact .refl b
      · exact hd.trans ⟨rfl, rfl, rfl, rfl⟩
    clear_value e
    have hf : e.Keeps f := ⟨rfl, rfl, rfl, rfl⟩
    have hg : f.Degrades g := f.degrades_leaveLane.trans (State.keeps_reportClass _ _).degrades
    have hl : g.Keeps (allBerths.foldl State.haltBerth g) := keeps_foldl State.keeps_haltBerth _ _
    exact ((ha.trans (hb.trans (he.trans hf))).degrades.trans hg).trans hl.degrades

theorem State.degrades_capture (s : State) (i : Fin 64) (k : Cls) (u : FUnit) (forced : Bool) :
    s.Degrades (s.capture i k u forced) := by
  unfold State.capture
  extract_lets v x
  split
  next c esc merged _ =>
  extract_lets y flt z w a b
  have hz : s.Keeps z := ⟨rfl, rfl, rfl, rfl⟩
  clear_value z
  have hw : z.Degrades w := by
    simp only [w]
    split_ifs
    · exact .refl z
    · exact z.degrades_isolate u forced
  have hb : w.Keeps b := (State.keeps_wakeBy w _ _).trans (State.keeps_reportClass a _)
  have h : s.Degrades b := hz.degrades.trans (hw.trans hb.degrades)
  split_ifs
  · exact h.trans (b.degrades_haltEntry _)
  · exact h

theorem State.degrades_raise (s : State) (i : Fin 64) (k : Cls) (u : FUnit) (forced : Bool) :
    s.Degrades (s.raise i k u forced) := by
  unfold State.raise
  extract_lets v n t
  have hv : s.Degrades v := s.degrades_capture i k u forced
  have ht : v.Keeps t := (State.keeps_cancelDram v).trans (State.keeps_cancelShrunk n _)
  split_ifs
  · exact (hv.trans ht.degrades).trans (t.degrades_capture 16 .degrade .none false)
  · exact hv.trans ht.degrades

end Sys2Proof.Machine
end

section
/-! SUPPORT. Reads of control space and the start of a deferral leave narrow mode's own state (R84, R405). -/

namespace Sys2Proof.Machine

/-! ### Reads -/

theorem State.keeps_ledgerUpdate (s : State) : s.Keeps s.ledgerUpdate := by
  unfold State.ledgerUpdate
  extract_lets l h t
  split
  · exact .refl s
  · exact .trans ⟨rfl, rfl, rfl, rfl⟩ (t.keeps_raiseEvent _ _ _)

theorem State.degrades_checkLedger (s : State) : s.Degrades s.checkLedger := by
  unfold State.checkLedger
  split_ifs
  · exact .refl s
  · exact (s.degrades_raise 5 .degrade .none false).trans (State.keeps_ledgerUpdate _).degrades

theorem State.keeps_setCounter (s : State) (n : Fin 32) (x : Counter) : s.Keeps (s.setCounter n x) := ⟨rfl, rfl, rfl, rfl⟩

theorem State.degrades_checkCounter (s : State) (n : Fin 32) : s.Degrades (s.checkCounter n) := by
  unfold State.checkCounter
  extract_lets x
  split
  · exact .refl s
  · split
    · exact .trans (State.Keeps.degrades (by exact ⟨rfl, rfl, rfl, rfl⟩)) (State.degrades_raise _ _ _ _ _)
    · split
      · exact ((s.degrades_raise 5 .degrade .none false).trans (State.keeps_sealCard _ _ _).degrades).trans
          (State.keeps_setCounter _ n _).degrades
      · exact .refl s

theorem State.held_bkLatch (s : State) : s.bkLatch.nar.held = s.nar.held := by
  unfold State.bkLatch
  extract_lets i p t
  split
  · rfl
  · exact (s.degrades_raise 1 .degrade .none false).narrow

theorem State.held_latchCounter (s : State) : s.latchCounter.nar.held = s.nar.held := by
  have h := (s.degrades_checkCounter (Fin.ofNat 32 (bits s.ctr.sel 0 5))).narrow
  unfold State.latchCounter
  extract_lets n t
  split
  · exact h
  · exact h

/-- What CTL_RD latches or steps moves nothing of narrow mode but the queue of up parcels. -/
theorem State.held_readEffect (s : State) (a : Nat) : (s.readEffect none a).nar.held = s.nar.held := by
  unfold State.readEffect
  split
  · rfl
  · rfl
  · rfl
  · rfl
  · rfl
  · exact s.degrades_checkLedger.narrow
  · rfl
  · exact s.held_latchCounter
  · exact s.held_bkLatch
  · rfl
  · rfl

theorem State.held_ctlRead (s : State) (a : Nat) : (s.ctlRead none a).2.nar.held = s.nar.held := by
  refine Eq.trans ?_ (s.held_readEffect a)
  unfold State.ctlRead
  extract_lets t own
  split
  · rfl
  · split <;> rfl

/-- Nothing is there from 0xC000 on: it reads 0 (R84). -/
theorem State.ctlRead_of_high (s : State) {a : Nat} (h : 0xC000 ≤ a) : (s.ctlRead none a).1 = 0 := by
  have hr (t : State) : t.reports a = none := by
    simp only [State.reports]
    repeat rw [if_neg (by omega)]
  simp only [State.ctlRead, hr]
  rw [State.ownReg, if_pos h]

/-! ### The deferral -/

@[simp] theorem State.keeps_settlePart (s : State) (i : SubInstr) : s.Keeps (s.settlePart i) := by
  unfold State.settlePart
  extract_lets ks
  have hd : s.Keeps s.draw.2 := ⟨rfl, rfl, rfl, rfl⟩
  split
  next n t h =>
  have ht : s.Keeps t := by rwa [h] at hd
  extract_lets stamp
  split_ifs
  · exact ht.trans ⟨rfl, rfl, rfl, rfl⟩
  · exact ht.trans (keeps_foldl (fun s k => s.keeps_dropVersion stamp k) _ _)

@[simp] theorem State.keeps_unwrap (s : State) (r : Nat) : s.Keeps (s.unwrap r) := by
  unfold State.unwrap
  extract_lets absent t x
  have ht : s.Keeps t := s.keeps_settleTaken r _
  clear_value t
  exact ht.trans ⟨rfl, rfl, rfl, rfl⟩

theorem State.keeps_stopIntake (s : State) : s.Keeps s.stopIntake := by
  unfold State.stopIntake
  extract_lets cut _ _ _ _ a b c d _ e
  have ha : s.Keeps a := ⟨rfl, rfl, rfl, rfl⟩
  clear_value a
  have hb : a.Keeps b := (State.keeps_disownBy a _).trans (State.keeps_withdraw _ _)
  clear_value b
  have hc : b.Keeps c := keeps_foldl State.keeps_unwrap _ _
  clear_value c
  have hd : c.Keeps d := keeps_foldl (fun s (h : SubHeld) => s.keeps_settlePart h.sub) _ _
  clear_value d
  have he : d.Keeps e := ⟨rfl, rfl, rfl, rfl⟩
  clear_value e
  exact ((ha.trans hb).trans (hc.trans (hd.trans he))).trans ⟨rfl, rfl, rfl, rfl⟩

end Sys2Proof.Machine
end

section
/-! PROOFS. CTL_RD, unknown opcodes, bad tokens, lost blocks and RESET (O6, O14). -/

namespace Sys2Proof.Machine

/-- A response is what it is whatever becomes of the queue of up parcels. -/
theorem Narrow.response_of_held {x y : Narrow} (h : x.held = y.held) : x.response = y.response :=
  (congrArg Narrow.response h :)

theorem Narrow.last_of_held {x y : Narrow} (h : x.held = y.held) : x.last = y.last := (congrArg Narrow.last h :)

/-! ### CTL_RD -/

/-- An address of 16 bits, as a token's argument, is aligned or not as it is itself. -/
theorem ctlArgOk_setWidth {a : W16} (h : bits a 0 2 = 0) : ctlArgOk (a.setWidth 32) = true := by
  have ha := a.isLt
  simp only [bits, Nat.shiftRight_eq_div_pow] at h
  simp only [ctlArgOk, bits, Nat.shiftRight_eq_div_pow, BitVec.toNat_setWidth, Bool.and_eq_true, beq_iff_eq]
  omega

theorem bits_setWidth_address (a : W16) : bits (a.setWidth 32) 0 16 = a.toNat := by
  have ha := a.isLt
  simp only [bits, Nat.shiftRight_eq_div_pow, BitVec.toNat_setWidth]
  omega

/-- The response to CTL_RD is the register's value. -/
theorem State.response_ctlRdBody {s : State} {t : Token} (h : s.nar.last = some t) (a : Nat) :
    (s.ctlRdBody a).nar.response = some ⟨.ok, t.tag, (s.ctlRead none a).1⟩ := by
  rw [State.ctlRdBody, State.response_respond, Narrow.last_of_held (s.held_ctlRead a), h]
  rfl

/-- Settles O6: the read itself leaves the token that asked, so its value answers that token. -/
theorem ctlRdCompletes : Obligations.CtlRdCompletes := by
  unfold Obligations.CtlRdCompletes
  refine ⟨fun s tag a h ha => ?_, fun s tag arg h ha => ?_⟩
  · refine ⟨_, narrowTurn_of_ok h (by simp [State.turnsAway]) (ctlArgOk_setWidth ha) _, ?_⟩
    rw [bits_setWidth_address, State.response_ctlRdBody (s.last_takeToken _)]
    exact ⟨rfl, fun hh => by rw [State.ctlRead_of_high _ hh]⟩
  · exact ⟨_, narrowTurn_of_bad h (by simp [State.turnsAway]) ha _, rfl,
      State.narrowOnly_respond (s.narrowOnly_takeToken _) _ _ _⟩

/-! ### The start of a warm reset -/

/-- The deferral leaves narrow mode's own state, and of the reset block all but the phase (R405). -/
theorem State.defer_spec (s : State) : s.defer.nar.held = s.nar.held ∧ s.defer.rst = { s.rst with phase := .deferring } := by
  obtain ⟨-, -, hn, hr⟩ := s.keeps_stopIntake
  refine ⟨hn, ?_⟩
  rw [← hr]
  rfl

/-- A warm source while the part runs starts the deferral (R400, R405): RST_CAUSE takes it, and narrow mode answers on. -/
theorem State.source_warm {s : State} {i : Nat} (hp : s.rst.power = .on) (hr : s.rst.phase = .running)
    (hm : s.hup.removing = false) (hi : i < 13) (hw : sourceReach i = .warm) :
    (s.source i).nar.held = s.nar.held ∧ (s.source i).rst.phase = .deferring ∧ bit (s.source i).rst.cause i = true ∧
      (s.source i).rst.widest = .warm := by
  let t : State := { s with rst := { s.rst with widest := .block }.takeCause i }
  have hs : s.source i = t.defer := by
    simp [State.source, hp, hr, hm, hw, t]
  obtain ⟨hn, hd⟩ := t.defer_spec
  rw [hs, hd]
  refine ⟨hn, rfl, ?_, ?_⟩
  · simp [t, Rst.takeCause, hw, bit_setBit hi]
  · simp [t, Rst.takeCause, hw, Reach.max, Reach.code]

/-! ### Tokens, blocks and RESET -/

theorem not_narrowOpcode {op : Byte} (h : narrowOpcodes.contains op = false) : ¬(1 ≤ op.toNat ∧ op.toNat ≤ 9) := by
  revert op
  decide

/-- Settles O14: only an opcode that Table NARROW-3 names meets a check, and RESET is answered before the deferral begins. -/
theorem otherTokensComplete : Obligations.OtherTokensComplete := by
  unfold Obligations.OtherTokensComplete
  refine ⟨fun s op tag arg h ho => ?_, fun s h => ?_, fun s a h ha => ?_, fun s tag h hr hm => ?_⟩
  · have hn := not_narrowOpcode ho
    have hne (k : Nat) (hk : 1 ≤ k ∧ k ≤ 9) : op.toNat ≠ k := fun he => hn (he ▸ hk)
    have ht : s.turnsAway op.toNat = none := by
      simp [State.turnsAway, hne]
    refine ⟨(s.takeToken ⟨op, tag, arg⟩).respond .unknownOp 0, ?_, rfl,
      State.narrowOnly_respond (s.narrowOnly_takeToken _) _ _ _⟩
    rw [exec, execUnknownOpcodeToken, if_neg hn, narrowTurn_of_ok h ht rfl]
  · rw [exec, execNarrowTokenBad, if_pos h]
  · rw [exec, execNarrowBlockTimeout, if_pos ⟨h, by rw [ha]; rfl⟩]
  · refine ⟨_, narrowTurn_of_ok h (by simp [State.turnsAway]) rfl _, ?_⟩
    let t := (s.takeToken ⟨9, tag, 1⟩).respond .ok 0
    have ht : t.rst = s.rst := s.rst_takeToken ⟨9, tag, 1⟩
    have hp : s.rst.power = .on := by
      have hl := h.1
      simp only [State.hostLink, Bool.and_eq_true, beq_iff_eq] at hl
      exact hl.1.1
    have hm' : t.hup.removing = false := (congrArg Hup.removing (s.hup_takeToken ⟨9, tag, 1⟩)).trans hm
    obtain ⟨h1, h2, h3, h4⟩ := State.source_warm (s := t) (i := 8) (by rw [ht, hp]) (by rw [ht, hr]) hm'
      (by decide) (by decide)
    exact ⟨Narrow.response_of_held h1, h2, h3, h4⟩

end Sys2Proof.Machine
end

section
/-! SUPPORT. The up path in lane mode, and the lanes that have trained (R115, R123, R128). -/

namespace Sys2Proof.Machine

/-- In lane mode the front parcels leave in order while credits last, each with the next sequence number, and wait in the replay
buffer (R123, R128). -/
theorem State.drainUp_lane (n : Nat) (s : State) (hm : s.lnk.mode = .lane) (hn : s.nar.up.length ≤ n) :
    (s.drainUp n).nar.up = s.nar.up.drop (min s.nar.up.length s.lnk.creditUp) ∧
    (s.drainUp n).lnk.creditUp = s.lnk.creditUp - min s.nar.up.length s.lnk.creditUp ∧
    (s.drainUp n).lnk.txNext = s.lnk.txNext + BitVec.ofNat 12 (min s.nar.up.length s.lnk.creditUp) ∧
    ∃ l, (s.drainUp n).lnk.replayBuf = s.lnk.replayBuf ++ l ∧
      l.map (·.2) = s.nar.up.take (min s.nar.up.length s.lnk.creditUp) := by
  induction n generalizing s with
  | zero =>
    have hu : s.nar.up = [] := List.length_eq_zero_iff.1 (Nat.le_zero.1 hn)
    simp [State.drainUp, hu]
  | succ n ih =>
    by_cases hc : s.nar.up = [] ∨ ¬(s.lnk.mode = .lane ∧ 0 < s.lnk.creditUp)
    · rw [State.drainUp_of_shut hc]
      have h0 : min s.nar.up.length s.lnk.creditUp = 0 := by
        rcases hc with hu | hc
        · simp [hu]
        · simp only [hm, true_and] at hc
          omega
      exact ⟨by simp [h0], by simp [h0], by simp [h0], [], by simp [h0]⟩
    · rw [not_or, not_not] at hc
      obtain ⟨p, r, hu⟩ := List.exists_cons_of_ne_nil hc.1
      have hr : r.length ≤ n := by
        rw [hu, List.length_cons] at hn
        omega
      obtain ⟨h1, h2, h3, l, h4, h5⟩ := ih (s.leaveUp p r) hm hr
      have hk : min s.nar.up.length s.lnk.creditUp = min r.length (s.lnk.creditUp - 1) + 1 := by
        rw [hu, List.length_cons]
        omega
      rw [State.drainUp_of_open hu hc.2, hk]
      refine ⟨h1.trans (by rw [hu]; rfl), h2.trans ?_, h3.trans ?_, (s.lnk.txNext, p) :: l, ?_, ?_⟩
      · show s.lnk.creditUp - 1 - min r.length (s.lnk.creditUp - 1) = _
        omega
      · show s.lnk.txNext + 1 + BitVec.ofNat 12 (min r.length (s.lnk.creditUp - 1)) = _
        rw [BitVec.ofNat_add, BitVec.add_assoc, BitVec.add_comm 1]
        rfl
      · rw [h4]
        simp [State.leaveUp]
      · rw [List.map_cons, h5, hu]
        rfl

/-- The lanes of a parameter word whose coefficients are stored have trained (R115). -/
theorem Link.trained_store (l : Link) (p : BitVec 26) : (l.store p).trained p = true := by
  have h (x y : BitVec 6) : x &&& ~~~(y ||| x) = 0 := by
    ext i hi
    simp
    grind
  unfold Link.store Link.trained
  split <;> simp [h]

end Sys2Proof.Machine
end

section
/-! PROOFS. The end of a training (O16). -/

namespace Sys2Proof.Machine

theorem State.laneStart_of_ok {s : State} (h : s.lnk.agreed.ok = true) :
    s.laneStart = { s with lnk := { s.lnk with sent := [] } } :=
  State.checkLink_of_ok (s := { s with lnk := { s.lnk with sent := [] } }) h

/-- The link as lane mode begins, before the queued parcels leave. -/
def Link.entered (l : Link) (busy : Bool) : Link :=
  { l.store l.agreed.val with
    mode := .lane, fast := false, active := paramEn l.agreed.val, down := paramEn l.agreed.val &&& paramDir l.agreed.val
    trainFail := if l.active = 0 then false else l.trainFail
    creditDown := l.depth.toNat, creditUp := if !l.fast then l.depth.toNat else l.freshCredits, withheld := 0
    headReplays := 0, sliceLost := false, rxMode := .normal, replayOnCredit := false, armed := false
    txNext := if !l.fast then 0 else l.txNext
    txAcked := if !l.fast then 0xFFF else l.txAcked
    rxLast := if !l.fast then 0xFFF else l.rxLast
    replayBuf := if !l.fast then [] else l.replayBuf
    sent := [.wake busy] }

/-- Lane mode is entered with its credits, and then the queued parcels leave (R126, R128). -/
theorem State.enterLane_eq (s : State) : ∃ t : State, t.lnk = s.lnk.entered s.busy ∧ t.nar = s.nar ∧
    s.enterLane = t.drainUp s.nar.up.length := by
  unfold State.enterLane
  extract_lets l p entry restart _ u v
  have hl : v.lnk = s.lnk.entered s.busy := by
    simp only [v]
    split
    · exact u.lnk_sealNegotiation 1
    · rfl
  have hn : v.nar = s.nar := by
    simp only [v]
    split
    · exact u.nar_sealNegotiation 1
    · rfl
  exact ⟨v, hl, hn, by rw [hn]⟩

theorem Link.agreed_store (l : Link) (p : BitVec 26) : (l.store p).agreed = l.agreed := by
  unfold Link.store
  split <;> rfl

theorem Link.trained_held (l : Link) (p : BitVec 26) : l.held.trained p = l.trained p := rfl

theorem Link.trained_entered (l : Link) (busy : Bool) : (l.entered busy).trained l.agreed.val = true := l.trained_store _

theorem degrades_foldl {α : Type} {f : State → α → State} (h : ∀ (s : State) (a : α), s.Degrades (f s a)) (l : List α)
    (s : State) : s.Degrades (l.foldl f s) := by
  induction l generalizing s with
  | nil => exact .refl s
  | cons a r ih => exact (h s a).trans (ih _)

/-- Lanes that fail leave the usable mask and take lane mode with them, whatever the faults that report them do besides (R106,
R124). -/
theorem State.lnk_failLanes (s : State) (lanes : BitVec 6) : (s.failLanes lanes).lnk.mode = .narrow ∧
    (s.failLanes lanes).lnk.trainFail = true ∧ (s.failLanes lanes).lnk.usable &&& lanes = 0 ∧
    (s.failLanes lanes).lnk.pay = s.lnk.pay := by
  let t : State := { s.leaveLane with lnk := { s.leaveLane.lnk with trainFail := true, usable := s.lnk.usable &&& ~~~lanes } }
  have h : t.Degrades (s.failLanes lanes) := degrades_foldl (fun s n => s.degrades_raise 29 .fence (.lane n) false) _ t
  have hu : (s.failLanes lanes).lnk.usable &&& ~~~(s.lnk.usable &&& ~~~lanes) = 0 := h.usable
  refine ⟨h.mode rfl, (congrArg Link.trainFail h.link :), ?_, (congrArg Link.pay h.link :)⟩
  ext i hi
  have hb := congrArg (·[i]) hu
  simp at hb ⊢
  grind

theorem State.lnk_laneStart {s : State} (h : s.lnk.agreed.ok = true) : s.laneStart.lnk = { s.lnk with sent := [] } := by
  rw [State.laneStart_of_ok h]

theorem State.nar_laneStart {s : State} (h : s.lnk.agreed.ok = true) : s.laneStart.nar = s.nar := by
  rw [State.laneStart_of_ok h]

/-- How a training ends, by the lanes that failed (R106). -/
theorem exec_laneTrainingEnd {s : State} (ha : s.alive = true) (hi : s.isMember = false) (hm : s.lnk.mode = .training)
    (hk : s.lnk.agreed.ok = true) (failed : BitVec 6) : exec (.laneTrainingEnd failed) s =
      .next (s.close (if failed &&& paramEn s.lnk.agreed.val = 0 then s.laneStart.enterLane
        else (s.laneStart.failLanes (failed &&& paramEn s.lnk.agreed.val)).sealNegotiation 2)) := by
  have hm' : ¬s.laneStart.lnk.mode ≠ .training := by rw [State.lnk_laneStart hk]; exact not_not.2 hm
  have hg : s.laneStart.lnk.agreed = s.lnk.agreed := by rw [State.lnk_laneStart hk]
  rw [exec, execLaneTrainingEnd, if_pos ⟨ha, by simp [hi], hm⟩]
  simp only [if_neg hm', hg, settled]

/-- Lane mode as the queued parcels have left: what was entered stays but for credits, numbers and the replay buffer. -/
theorem State.lnk_enterLane (s : State) : s.enterLane.lnk.held = (s.lnk.entered s.busy).held ∧
    s.enterLane.nar.up = s.nar.up.drop (min s.nar.up.length (s.lnk.entered s.busy).creditUp) ∧
    s.enterLane.lnk.creditUp = (s.lnk.entered s.busy).creditUp - min s.nar.up.length (s.lnk.entered s.busy).creditUp ∧
    s.enterLane.lnk.txNext = (s.lnk.entered s.busy).txNext +
      BitVec.ofNat 12 (min s.nar.up.length (s.lnk.entered s.busy).creditUp) ∧
    ∃ l, s.enterLane.lnk.replayBuf = (s.lnk.entered s.busy).replayBuf ++ l ∧
      l.map (·.2) = s.nar.up.take (min s.nar.up.length (s.lnk.entered s.busy).creditUp) := by
  obtain ⟨t, hl, hn, hd⟩ := s.enterLane_eq
  obtain ⟨-, hk, -, -⟩ := t.keeps_drainUp s.nar.up.length
  have h := t.drainUp_lane s.nar.up.length (by rw [hl]; rfl) (by rw [hn])
  rw [hl] at hk
  rw [hl, hn] at h
  rw [hd]
  exact ⟨hk, h⟩

/-- Settles O16: lane mode is entered with its credits and the queue drains into them; a failed lane takes the link back to narrow
mode whatever its faults do besides. -/
theorem trainingEnds : Obligations.TrainingEnds := by
  unfold Obligations.TrainingEnds
  refine ⟨fun s failed ha hi hm hk hf => ?_, fun s failed ha hi hm hk hf => ?_⟩
  · have he := exec_laneTrainingEnd ha hi hm hk failed
    rw [if_pos hf] at he
    refine ⟨_, he, ?_⟩
    obtain ⟨hh, hu, hc, ht, l, hr, hp⟩ := s.laneStart.lnk_enterLane
    rw [State.lnk_laneStart hk] at hh hu hc ht hr hp
    rw [State.nar_laneStart hk] at hu hc ht hp
    generalize s.laneStart.busy = busy at hh hu hc ht hr hp
    generalize s.laneStart.enterLane = u at hh hu hc ht hr ⊢
    refine ⟨(congrArg Link.mode hh :), (congrArg Link.agreed hh :).trans (Link.agreed_store _ _),
      (congrArg Link.active hh :), (congrArg Link.down hh :), ?_, (congrArg Link.creditDown hh :), ?_⟩
    · rw [← Link.trained_held, hh, Link.trained_held]
      exact Link.trained_entered { s.lnk with sent := [] } busy
    extract_lets old n first
    have hcr : (Link.entered { s.lnk with sent := [] } busy).creditUp = s.lnk.depth.toNat - old.length := by
      cases hfast : s.lnk.fast <;> simp [Link.entered, Link.freshCredits, old, hfast]
    have hrb : (Link.entered { s.lnk with sent := [] } busy).replayBuf = old := by
      cases hfast : s.lnk.fast <;> simp [Link.entered, old, hfast]
    have htx : (Link.entered { s.lnk with sent := [] } busy).txNext = first := by
      cases hfast : s.lnk.fast <;> simp [Link.entered, first, hfast]
    rw [hcr] at hu hc ht hp
    rw [hrb] at hr
    rw [htx] at ht
    refine ⟨hc, hu, ?_, ?_, ht, (congrArg Link.rxLast hh :).trans ?_, (congrArg Link.txAcked hh :).trans ?_⟩
    · rw [hr, List.map_append, hp]
    · rw [hr, List.take_left' rfl]
    · cases hfast : s.lnk.fast <;> simp [Link.entered, Link.held, hfast]
    · cases hfast : s.lnk.fast <;> simp [Link.entered, Link.held, hfast]
  · have he := exec_laneTrainingEnd ha hi hm hk failed
    rw [if_neg hf] at he
    obtain ⟨h1, h2, h3, h4⟩ := s.laneStart.lnk_failLanes (failed &&& paramEn s.lnk.agreed.val)
    refine ⟨_, he, ?_⟩
    rw [State.lnk_sealNegotiation]
    exact ⟨h1, h2, h3, h4.trans (by rw [State.lnk_laneStart hk])⟩

end Sys2Proof.Machine
end

section
/-! PROOFS. The checks of a PUT block (O13). -/

namespace Sys2Proof.Machine

/-- Outside stop-change-restart a push in a PUT block reaches its berth (R496). -/
theorem State.putParcel_push {s : State} (h : s.scr.active = false) (p : Parcel) :
    s.putParcel 1 p = (.ok, s.push (berthOf p.hdr.berth.toNat) p.hdr.tag p.payload) := by
  have hb : ¬(s.busyCause 6 = true ∧ ¬((1 : Nat) = 1 ∧ (berthOf p.hdr.berth.toNat).val < 8)) := by
    simp [State.busyCause, h]
  unfold State.putParcel
  exact if_neg hb

/-- Settles O13: the branches of `State.checkPut` in their order. -/
theorem putBlockChecked : Obligations.PutBlockChecked := by
  unfold Obligations.PutBlockChecked
  intro s d x p
  have he : s.checkPut d =
      if ¬hcrcOk x.1 x.2.1 x.2.2 then (.blockCrc, { s with lnk := { s.lnk with hcrc := satInc s.lnk.hcrc } })
      else if ¬formatOk x.1 x.2.1 x.2.2 ∨ x.2.2.len.toNat + 20 ≠ d.length then
        (.badField, { s with lnk := { s.lnk with format := satInc s.lnk.format } })
      else if ¬pcrcOk x.1 x.2.1 p then (.blockCrc, { s with lnk := { s.lnk with pcrc := satInc s.lnk.pcrc } })
      else s.putParcel x.2.1 p := rfl
  refine ⟨fun hh => ?_, fun hh hf => ?_, fun hh hf hl hp => ?_, fun hh hf hl hp ht ha => ?_⟩
  · simp [he, hh]
  · rw [he, if_neg (not_not.2 hh), if_pos (hf.imp_left fun h => by simp [h])]
  · simp [he, hh, hf, hl, hp]
  · have hg : s.checkPut d = s.putParcel x.2.1 p := by simp [he, hh, hf, hl, hp]
    rw [hg, ht]
    exact State.putParcel_push ha p

end Sys2Proof.Machine
end

section
/-! SUPPORT. How lane mode takes a parcel (R121, R126). -/

namespace Sys2Proof.Machine

theorem State.mode_of_laneOn {s : State} (h : s.laneOn = true) : s.lnk.mode = .lane := by
  simp only [State.laneOn, Bool.and_eq_true, beq_iff_eq] at h
  exact h.2

theorem State.mode_laneStart {s : State} (hl : s.laneOn = true) (hk : s.lnk.agreed.ok = true) : s.laneStart.lnk.mode = .lane := by
  rw [State.lnk_laneStart hk]
  exact State.mode_of_laneOn hl

/-- The start of a command on the lanes changes nothing that a check of R121 looks at. -/
theorem State.verdict_laneStart {s : State} (hk : s.lnk.agreed.ok = true) (hok pok : Bool) (start typ : Nat) (p : Parcel) :
    s.laneStart.verdict hok pok start typ p = s.verdict hok pok start typ p := by
  rw [State.laneStart_of_ok hk]
  rfl

/-- A good parcel is taken: in order if its type is sequenced, else for what its header carries. -/
theorem receive_of_takes {s : State} {typ : Nat} {p : Parcel} (h : s.takes typ p) (body : State → State) :
    receive typ p s body = .next (s.close (if sequencedType typ then s.laneStart.acceptSeq p.hdr (typ == 2) body
      else body (s.laneStart.takeHeader p.hdr))) := by
  obtain ⟨hl, hk, hv⟩ := h
  have hm : ¬s.laneStart.lnk.mode ≠ .lane := not_not.2 (State.mode_laneStart hl hk)
  rw [receive, if_pos hl]
  simp only [State.verdict_laneStart hk, hv, if_neg hm, if_true, settled]

/-- The state on which what a good sequenced parcel brings takes effect. -/
def State.afterSeqHeader (s : State) (h : Hdr) : State :=
  ({ s with lnk := { s.lnk with sent := [], rxLast := h.seq.setWidth 12, rxMode := .normal } } : State).takeHeader h

/-- The state on which what a good unsequenced parcel brings takes effect. -/
def State.afterHeader (s : State) (h : Hdr) : State := ({ s with lnk := { s.lnk with sent := [] } } : State).takeHeader h

theorem receive_unsequenced {s : State} {typ : Nat} {p : Parcel} (h : s.takes typ p) (ht : sequencedType typ = false)
    (body : State → State) : receive typ p s body = .next (s.close (body (s.afterHeader p.hdr))) := by
  rw [receive_of_takes h, ht, State.laneStart_of_ok h.2.1]
  rfl

/-- A sequenced parcel that is no data is acknowledged with its credit, if the link is in lane mode still (R126). -/
theorem receive_sequenced {s : State} {typ : Nat} {p : Parcel} (h : s.takes typ p) (ht : sequencedType typ = true)
    (hd : typ ≠ 2) (body : State → State) : receive typ p s body = .next (s.close (
      let v := body (s.afterSeqHeader p.hdr)
      if v.lnk.mode = .lane then v.ackWith 1 else v)) := by
  have hd' : (typ == 2) = false := by simpa using hd
  rw [receive_of_takes h, ht, if_pos rfl, State.laneStart_of_ok h.2.1, State.acceptSeq, hd']
  simp only [Bool.false_eq_true, false_and, if_false, ne_eq, ite_not]
  rfl

/-- What answers a data parcel once its data is taken: its acknowledgement, but its credit is owed while the write share is full
(R126, R127). -/
def State.ackData (v : State) : State :=
  if v.lnk.mode ≠ .lane then v
  else if v.writeShare ≤ v.shareUsed then
    { v with lnk := { v.lnk with creditDown := v.lnk.creditDown - 1, withheld := v.lnk.withheld + 1 } }.ackWith 0
  else v.ackWith 1

theorem State.ackData_of_left {v : State} (hm : v.lnk.mode ≠ .lane) : v.ackData = v := if_pos hm

theorem State.ackData_of_room {v : State} (hm : v.lnk.mode = .lane) (hs : v.shareUsed < v.writeShare) :
    v.ackData = v.ackWith 1 := by
  rw [State.ackData, if_neg (not_not.2 hm), if_neg (Nat.not_le.2 hs)]

theorem State.ackData_of_full {v : State} (hm : v.lnk.mode = .lane) (hs : v.writeShare ≤ v.shareUsed) :
    v.ackData = { v with lnk := { v.lnk with
      creditDown := v.lnk.creditDown - 1, withheld := v.lnk.withheld + 1
      sent := v.lnk.sent ++ [.control v.lnk.rxLast none 0 v.busy] } } := by
  rw [State.ackData, if_neg (not_not.2 hm), if_pos hs]
  rfl

theorem receive_data {s : State} {p : Parcel} (h : s.takes 2 p) (body : State → State) :
    receive 2 p s body = .next (s.close (body (s.afterSeqHeader p.hdr)).ackData) := by
  rw [receive_of_takes h, if_pos (by decide), State.laneStart_of_ok h.2.1, State.acceptSeq]
  simp only [BEq.rfl, true_and]
  rfl

end Sys2Proof.Machine
end

section
/-! PROOFS. Good parcels (O17). -/

namespace Sys2Proof.Machine

/-- The answer to a doze request, by the reason to decline it (R132). -/
theorem State.dozeAsked_spec (s : State) {d : List Byte} (hd : d.getD 0 0 = 1) : s.dozeAsked d = { s with lnk :=
    if s.dozeReason = 0 then { s.lnk with dozeAccepted := true, sent := s.lnk.sent ++ [.doze 2 0 s.busy] }
    else { s.lnk with
      dozeAccepted := false, dozeDecline := satInc s.lnk.dozeDecline
      sent := s.lnk.sent ++ [.doze 3 (BitVec.ofNat 8 s.dozeReason) s.busy] } } := by
  by_cases hr : s.dozeReason = 0
  · rw [if_pos hr]
    exact (if_pos hd).trans (if_pos hr)
  · rw [if_neg hr]
    exact (if_pos hd).trans (if_neg hr)

/-- Settles O17: a good parcel's header takes effect, then what the parcel brings, then it is acknowledged if it is sequenced. -/
theorem parcelsArrive : Obligations.ParcelsArrive := by
  unfold Obligations.ParcelsArrive
  refine ⟨fun s p => ?_, fun s p => ?_⟩
  · intro s' b
    refine ⟨fun h => ⟨_, receive_sequenced h rfl (by decide) _, rfl⟩,
      fun h => ⟨(s'.takeParcelData b p.hdr.tag p.payload p.hdr.last).ackData, receive_data h _, ?_⟩,
      fun h => ⟨_, receive_sequenced h rfl (by decide) _, rfl⟩⟩
    refine ⟨State.ackData_of_left, State.ackData_of_room, fun hm hs => ?_⟩
    rw [State.ackData_of_full hm hs]
    exact ⟨rfl, rfl, rfl, rfl⟩
  · intro s'
    refine ⟨fun h => receive_unsequenced h rfl _, fun h hn => ?_, fun h => receive_unsequenced h rfl _, fun h hd => ?_,
      fun h hd => ⟨s'.dozeAsked p.payload, receive_unsequenced h rfl _, ?_⟩⟩
    · exact (if_pos hn).trans (receive_unsequenced h rfl _)
    · have hs : s'.dozeAsked p.payload = s' := if_neg hd
      exact (receive_unsequenced h rfl _).trans (congrArg (fun u => Host.Outcome.next (s.close u)) hs)
    · rw [State.dozeAsked_spec _ hd]
      refine ⟨rfl, fun hr => ?_, fun hr => ?_⟩
      · rw [if_pos hr]
        exact ⟨rfl, rfl, rfl⟩
      · rw [if_neg hr]
        exact ⟨rfl, rfl, rfl⟩

end Sys2Proof.Machine
end

section
/-! SUPPORT. What a parcel that fails a check leaves (R121, R126, Table LANE-6). -/

namespace Sys2Proof.Machine

/-- The host's side of a plain header moves nothing. -/
theorem State.takeHeader_plain {h : Hdr} (hp : plainHdr h = true) (s : State) : s.takeHeader h = s := by
  simp only [plainHdr, Bool.and_eq_true, Bool.not_eq_true', beq_iff_eq] at hp
  obtain ⟨⟨hv, hn⟩, hc⟩ := hp
  simp [State.takeHeader, State.takeCredits, hv, hn, hc]

section
variable (s : State) (reason : Byte) (noType : Bool) {h : Hdr}

theorem State.consume_of_unseq (hu : h.unseq = true) : s.consume reason noType h =
    (s.takeHeader h).nakWith reason (if noType then s.lnk.rxLast else h.seq.setWidth 12) 0 := if_pos hu

theorem State.consume_of_next (hu : h.unseq = false) (hn : h.seq.setWidth 12 = s.lnk.rxLast + 1) : s.consume reason noType h =
    ({ s with lnk := { s.lnk with rxLast := h.seq.setWidth 12, rxMode := .normal } }.takeHeader h).nakWith reason
      (h.seq.setWidth 12) 1 := by
  rw [State.consume, hu]
  exact if_pos hn

theorem State.consume_of_other (hu : h.unseq = false) (hn : h.seq.setWidth 12 ≠ s.lnk.rxLast + 1) :
    s.consume reason noType h = s.nakWith reason (h.seq.setWidth 12) 1 := by
  rw [State.consume, hu]
  exact if_neg hn

/-- A parcel that is consumed with a plain header reaches no berth. -/
theorem State.consume_plain (hp : plainHdr h = true) :
    (s.consume reason noType h).berths = s.berths ∧ (s.consume reason noType h).nar = s.nar := by
  cases hu : h.unseq with
  | true =>
    rw [State.consume_of_unseq s reason noType hu, State.takeHeader_plain hp]
    exact ⟨rfl, rfl⟩
  | false =>
    by_cases hn : h.seq.setWidth 12 = s.lnk.rxLast + 1
    · rw [State.consume_of_next s reason noType hu hn, State.takeHeader_plain hp]
      exact ⟨rfl, rfl⟩
    · rw [State.consume_of_other s reason noType hu hn]
      exact ⟨rfl, rfl⟩

end

/-- No berth and nothing of narrow mode is touched but by what a header carries. -/
theorem State.turnDown_frame (s : State) (v : Verdict) (noType : Bool) (h : Hdr)
    (hp : plainHdr h = true ∨ (v ≠ .format ∧ v ≠ .oversize)) :
    (s.turnDown v noType h).berths = s.berths ∧ (s.turnDown v noType h).nar = s.nar := by
  cases v with
  | format => exact State.consume_plain _ 5 noType (hp.resolve_right fun h => h.1 rfl)
  | oversize => exact State.consume_plain _ 4 false (hp.resolve_right fun h => h.2 rfl)
  | ignored | header | duplicate | noCredit | gap | crc | good => exact ⟨rfl, rfl⟩

/-- START and TYPE hold where START is 0xA and Table LANE-5 has the TYPE. -/
theorem startBad_eq_false_iff {start typ : Nat} : startBad start typ = false ↔ start = 10 ∧ 1 ≤ typ ∧ typ ≤ 8 := by
  simp only [startBad, Bool.or_eq_false_iff, bne_eq_false_iff_eq, beq_eq_false_iff_ne, decide_eq_false_iff_not]
  omega

/-- The number that answers a malformed parcel without a sequence number (Table LANE-6). -/
theorem ite_startBad {α : Type} (start typ : Nat) (x y : α) :
    (if startBad start typ then x else y) = if start = 10 ∧ 1 ≤ typ ∧ typ ≤ 8 then y else x := by
  by_cases hc : start = 10 ∧ 1 ≤ typ ∧ typ ≤ 8
  · rw [if_pos hc, startBad_eq_false_iff.2 hc]
    rfl
  · rw [if_neg hc, if_pos (Bool.eq_true_of_not_eq_false (mt startBad_eq_false_iff.1 hc))]

/-- A set that Table LANE-3 does not name is on no lane of its own. -/
theorem Link.setOn_of_unnamed (l : Link) {a : OrderedSet} (h : orderedSets.contains a.symbol0 = false) : l.setOn a = false := by
  have hn (b : Byte) (hb : b ∈ orderedSets) : a.symbol0.toNat ≠ b.toNat := fun he => by
    simp [BitVec.eq_of_toNat_eq he, hb] at h
  unfold Link.setOn
  split
  next he => exact absurd he (hn 0x1E (by decide))
  next he => exact absurd he (hn 0x2D (by decide))
  next he => exact absurd he (hn 0x5A (by decide))
  next he => exact absurd he (hn 0x55 (by decide))
  next he => exact absurd he (hn 0x66 (by decide))
  next he => exact absurd he (hn 0x78 (by decide))
  next => rfl

end Sys2Proof.Machine
end

section
/-! PROOFS. Bad parcels and ordered sets (O18). -/

namespace Sys2Proof.Machine

/-- Settles O18: each verdict has its branch of `State.turnDown`, and a parcel that is consumed one of the three ways of
`State.consume`. -/
theorem badParcels : Obligations.BadParcels := by
  unfold Obligations.BadParcels
  refine ⟨fun s v start typ h hg => ?_, fun s hdr d crc hl hk => ?_, fun s a hl ha => ?_, fun s a ha => ?_,
    fun s n c hl hc => ?_⟩
  · intro t seq consumed
    refine ⟨s.turnDown_frame v _ h, ?_, ?_, ?_, ?_, ?_, ?_, ?_, ?_⟩
    · rintro rfl
      rfl
    · rintro rfl
      exact ⟨rfl, rfl, rfl⟩
    · rintro rfl
      exact ⟨rfl, rfl, rfl⟩
    · rintro rfl
      exact ⟨rfl, rfl, rfl⟩
    · rintro rfl
      exact ⟨rfl, rfl, rfl⟩
    · rintro rfl
      refine ⟨fun hu => ?_, fun hu hn => State.consume_of_next _ 5 _ hu hn, fun hu hn => State.consume_of_other _ 5 _ hu hn⟩
      rw [← ite_startBad]
      exact State.consume_of_unseq _ 5 _ hu
    · rintro rfl
      exact ⟨fun hu => State.consume_of_unseq _ 4 _ hu, fun hu hn => State.consume_of_next _ 4 _ hu hn,
        fun hu hn => State.consume_of_other _ 4 _ hu hn⟩
    · rintro rfl
      rfl
  · intro x p v hv
    have hm : ¬s.laneStart.lnk.mode ≠ .lane := not_not.2 (State.mode_laneStart hl hk)
    rw [← State.laneStart_of_ok hk, exec, execMalformedParcel, if_pos hl]
    simp only [State.verdict_laneStart hk, if_neg hm, settled]
    exact if_neg hv
  · rw [exec, execUnknownOrderedSet, if_pos ⟨hl, by simp [ha]⟩]
    rfl
  · exact s.lnk.setOn_of_unnamed ha
  · rw [exec, execSyncOrderedSet, if_pos hl, if_neg hc]
    rfl

end Sys2Proof.Machine
end

section
/-! PROOFS. Doze (O20). -/

namespace Sys2Proof.Machine

@[simp] theorem State.lnk_wakeBy (s : State) (src : Nat) (ds : List (Fin 16)) : (s.wakeBy src ds).lnk = s.lnk := by
  simp only [State.wakeBy, State.refuseReq]
  split_ifs <;> rfl

/-- A wake source stands in PMU_WAKESRC (R376, Table POWER-3). -/
theorem State.bit_wakeBy (s : State) {src : Nat} (h : src < 9) (ds : List (Fin 16)) :
    bit (s.wakeBy src ds).pmu.wakeSrc src = true := by
  rw [State.wakeSrc_wakeBy]
  exact bit_setBit h _

/-- Settles O20: each command moves the link's fields and records its wake source. -/
theorem dozeCompletes : Obligations.DozeCompletes := by
  unfold Obligations.DozeCompletes
  refine ⟨fun s hl hk hd => ?_, fun s hl => if_pos hl,
    fun s ha hi hm => ⟨⟨_, if_pos ⟨ha, by simp [hi], hm⟩, ?_⟩, if_pos ⟨ha, hm⟩, ⟨_, if_pos ⟨ha, by simp [hi], hm⟩, ?_⟩⟩,
    fun s ha => ⟨_, if_pos ha, State.bit_wakeBy _ (by decide) _⟩, fun s hl hr => ?_⟩
  · rw [exec, execElectricalIdleSet, if_pos ⟨hl, hd⟩]
    simp only [if_neg (not_not.2 (State.mode_laneStart hl hk)), settled]
    rw [State.laneStart_of_ok hk]
  · rw [State.lnk_wakeBy]
    exact ⟨rfl, State.bit_wakeBy _ (by decide) _⟩
  · rw [State.lnk_wakeBy]
    exact ⟨rfl, rfl, rfl, State.bit_wakeBy _ (by decide) _⟩
  · rw [exec, execRealignOrderedSet, if_pos hl, if_pos hr]

end Sys2Proof.Machine
end

section
/-! SUPPORT. The end of an instruction in a berth that goes on (R157, R161, R162): its parts, and what its berth then holds. -/

namespace Sys2Proof.Machine

/-! ### The up path in narrow mode -/

/-- In narrow mode a parcel waits in the queue for GET (R83). -/
theorem State.sendUp_of_narrow {s : State} (h : s.lnk.mode = .narrow) (p : UpParcel) :
    s.sendUp p = { s with nar := { s.nar with up := s.nar.up ++ [p] } } := by
  have hw : (s.lnk.wakeLow || (s.lnk.mode == LinkMode.doze && s.lnk.wakeEn)) = s.lnk.wakeLow := by simp [h]
  unfold State.sendUp
  simp only [hw, List.length_append, List.length_singleton]
  exact State.drainUp_of_shut (.inr fun hl => by simp [h] at hl) _

/-! ### The berth of a completion -/

@[simp] theorem State.berth_sendCompletion (s : State) (b : BerthId) (tag : W16) (op : Byte) (st : Status) (done : Nat)
    (first : Option Nat) (res : W64) : (s.sendCompletion b tag op st done first res).berth b =
      { s.berth b with cseq := (s.berth b).cseq + 1 }.record
        ({ s.berth b with cseq := (s.berth b).cseq + 1 }.completion st op done first res) tag := by
  simp [State.sendCompletion]

theorem State.nar_sendCompletion_of_narrow {s : State} (h : s.lnk.mode = .narrow) (b : BerthId) (tag : W16) (op : Byte)
    (st : Status) (done : Nat) (first : Option Nat) (res : W64) :
    (s.sendCompletion b tag op st done first res).nar.up = s.nar.up ++ [⟨BitVec.ofNat 16 b.val, tag,
      .completion ({ s.berth b with cseq := (s.berth b).cseq + 1 }.completion st op done first res)⟩] := by
  unfold State.sendCompletion
  rw [State.sendUp_of_narrow (by exact h), State.berth_modBerth]
  rfl

theorem State.lnk_sendCompletion_of_narrow {s : State} (h : s.lnk.mode = .narrow) (b : BerthId) (tag : W16) (op : Byte)
    (st : Status) (done : Nat) (first : Option Nat) (res : W64) :
    (s.sendCompletion b tag op st done first res).lnk = s.lnk := by
  unfold State.sendCompletion
  rw [State.sendUp_of_narrow (by exact h)]
  rfl

/-! ### Where a berth comes to rest -/

/-- A berth that stands in a state. -/
def Berth.standing (x : Berth) (i : BState) : Berth := { x with state := i }

theorem State.rest_of_stream {s : State} {b : BerthId} (h : (s.berth b).kind = false) :
    ∃ i, s.rest b = s.modBerth b fun x => x.standing i := by
  simp only [State.rest, State.berth_modBerth, h, Bool.false_and, Bool.false_eq_true, if_false]
  exact ⟨_, rfl⟩

/-- A resident berth that nothing holds is READY between instructions (Table BERTH-3). -/
theorem State.rest_of_resident {s : State} {b : BerthId} (h : (s.berth b).kind = true) (hq : s.quiesces b = false) :
    s.rest b = s.modBerth b fun x => x.standing .ready := by
  have hi : s.idleState b = .ready := by simp [State.idleState, h, hq]
  simp [State.rest, hi, Berth.standing]

@[simp] theorem State.lnk_rest (s : State) (b : BerthId) : (s.rest b).lnk = s.lnk := by
  simp only [State.rest]
  split <;> rfl

/-! ### A berth that goes on -/

/-- The completion of an instruction, where its berth sends one (R161). -/
def State.reportsEnd (s : State) (b : BerthId) (q : QInstr) (st : Status) (done : Nat) (first : Option Nat) (res : Option W64) :
    State :=
  if (s.berth b).sends q.op st then s.sendCompletion b q.tag q.op st done first (res.getD 0) else s

theorem State.movesOn_refl (s : State) (b : BerthId) : s.movesOn s b :=
  ⟨⟨_, _, _, s.berth b, by simp [State.setBerth, State.berth]⟩, rfl⟩

theorem State.movesOn_reportsEnd (s : State) (b : BerthId) (q : QInstr) (st : Status) (done : Nat) (first : Option Nat)
    (res : Option W64) : s.movesOn (s.reportsEnd b q st done first res) b := by
  unfold State.reportsEnd
  split_ifs
  · exact s.movesOn_sendCompletion b _ _ _ _ _ _
  · exact s.movesOn_refl b

/-- Past its instruction, its completion sent, a berth has moved on from where the instruction took it. -/
theorem State.movedTo_reportsEnd (s : State) (b : BerthId) (q : QInstr) (st : Status) (done : Nat) (first : Option Nat)
    (res : Option W64) (pc : Nat) (took : Bool) :
    ((s.berth b).passed q st res pc).movedTo (((s.leaves b q st res pc took).reportsEnd b q st done first res).berth b) := by
  have h := (State.movesOn_trans (State.movesOn_leaveData ((s.countThru st).modBerth b fun x => x.passed q st res pc) b q took)
    (State.movesOn_reportsEnd _ b q st done first res)).2
  rwa [State.berth_modBerth] at h

/-- A berth that neither its status, nor HALT, STOPERR, the end of its allocation or STOP stops (R145, R151) reports and comes to
rest. -/
theorem State.finishAt_of_goesOn {s : State} {b : BerthId} {q : QInstr} {st : Status} {pc : Nat} (hst : st.stops = false)
    (hq : q.op ≠ 1) (hd : (s.berth b).stopDue = false)
    (he : (s.berth b).kind = false → (s.berth b).stopErr = true → st.good = true)
    (hk : (s.berth b).kind = true → pc < (s.berth b).poolWords) (done : Nat) (first : Option Nat) (res : Option W64) :
    s.finishAt b q st done first res pc =
      ((s.leaves b q st res pc (s.berth b).tookLast).reportsEnd b q st done first res).rest b := by
  have hm := s.movedTo_reportsEnd b q st done first res pc (s.berth b).tookLast
  rw [State.finishAt_eq, State.concludes, ← State.reportsEnd]
  generalize (s.leaves b q st res pc (s.berth b).tookLast).reportsEnd b q st done first res = u at *
  have hstop : (st.stops || (q.op == 0x01 && st == .ok) || (!(u.berth b).kind && (u.berth b).stopErr && (u.berth b).e)) =
      false := by
    rw [hm, beq_eq_false_iff_ne.2 hq, hst]
    simpa [Berth.passed] using he
  have hfall : ((u.berth b).kind && decide ((u.berth b).poolWords ≤ pc)) = false := by
    rw [hm]
    simpa [Berth.passed, Berth.poolWords] using hk
  have hdue : (u.berth b).stopDue = false := by
    rw [hm]
    exact hd
  simp only [hstop, hfall, hdue, Bool.false_eq_true, if_false]

/-! ### The registers of a berth past its instruction -/

theorem Berth.reg_of_v {x y : Berth} (h : x.v = y.v) (i : Nat) : x.reg i = y.reg i := by rw [Berth.reg, Berth.reg, h]

/-- What a berth that has moved on keeps. -/
theorem Berth.kept_of_movedTo {x y : Berth} (h : x.movedTo y) : y.v = x.v ∧ y.e = x.e ∧ y.lastStat = x.lastStat ∧
    y.session = x.session ∧ y.stack = x.stack ∧ y.inbox = x.inbox := by
  rw [h]
  exact ⟨rfl, rfl, rfl, rfl, rfl, rfl⟩

/-- Every other register stays. -/
theorem Berth.reg_passed_other (x : Berth) {q : QInstr} {i : Nat} (hi : i < 16) (hd : i ≠ q.dst) (st : Status) (res : Option W64)
    (pc : Nat) : (x.passed q st res pc).reg i = x.reg i := by
  cases res with
  | none => rfl
  | some r =>
    simp only [Berth.reg, Berth.passed, Nat.mod_eq_of_lt hi]
    have hs : (x.v.toArray.setIfInBounds (bits q.word 48 4) r)[i]? = x.v.toArray[i]? :=
      Array.getElem?_setIfInBounds_ne (Ne.symm hd)
    simp [Vector.getD, Array.getD_eq_getD_getElem?, hs]

end Sys2Proof.Machine
end

section
/-! PROOFS. The end of an instruction, and the frame of the arithmetic family (O23, O28). -/

namespace Sys2Proof.Machine

/-! ### Completion (R157, R161, R164) -/

theorem Berth.sends_of_stream {x : Berth} (hk : x.kind = false) (op : Byte) (st : Status) : x.sends op st = true := by
  simp [Berth.sends, hk]

/-- A resident berth sends nothing for an instruction that does not stop it where RCOMP is clear (R161). -/
theorem Berth.sends_of_silent {x : Berth} {op : Byte} {st : Status} (hk : x.kind = true) (hr : x.rcomp = false) (ho : op ≠ 1)
    (hst : st.stops = false) : x.sends op st = false := by
  simp [Berth.sends, hk, hr, hst, show op ≠ 1#8 from ho]

theorem State.countThru_of_ne (s : State) {st : Status} (h : st ≠ .writeThrough) : s.countThru st = s := by
  simp [State.countThru, h]

theorem State.modBerth_of_fixed {s : State} {b : BerthId} {f : Berth → Berth} (h : f (s.berth b) = s.berth b) :
    s.modBerth b f = s := by
  rw [State.modBerth, h, State.setBerth, State.berth]
  simp

theorem State.discard_zero (s : State) : s.discard 0 = s := by
  have hd : satNat 32 s.bth.discard.toNat = s.bth.discard := by
    have := s.bth.discard.isLt
    rw [satNat, min_eq_left (by omega), BitVec.ofNat_toNat, BitVec.setWidth_eq]
  rw [State.discard, Nat.add_zero, hd]

/-- An instruction of a resident berth that leaves no parcel behind drops none (R155). -/
theorem State.leaveData_of_none {s : State} {b : BerthId} {q : QInstr} (hk : (s.berth b).kind = true)
    (h : q.takesData = false ∨ (s.berth b).chunks = []) (took : Bool) : s.leaveData b q took = s := by
  have hl : (if q.takesData && !took then afterRun (fun _ => true) (s.berth b).chunks else (s.berth b).chunks) =
      (s.berth b).chunks := by
    rcases h with h | h <;> simp [h, afterRun]
  simp only [State.leaveData, hk, Bool.true_or, if_true, hl, Nat.sub_self]
  rw [State.discard_zero, State.modBerth_of_fixed rfl]

/-- What leaves with an instruction, of its berth, are parcels. -/
theorem State.berth_leaves (s : State) (b : BerthId) (q : QInstr) (st : Status) (res : Option W64) (pc : Nat) (took : Bool) :
    ∃ l, (s.leaves b q st res pc took).berth b = { (s.berth b).passed q st res pc with chunks := l } := by
  unfold State.leaves State.leaveData
  simp only [State.berth_discard, State.berth_modBerth]
  exact ⟨_, rfl⟩

/-- STOP that waits for the boundary stops the berth there, whatever else the end of the instruction brings (R151). -/
theorem State.state_finish_of_stopDue {s : State} {b : BerthId} (h : (s.berth b).stopDue = true) (q : QInstr) (st : Status)
    (done : Nat) (first : Option Nat) (res : Option W64) : ((s.finish b q st done first res).berth b).state = .stopped := by
  have hm := s.movedTo_reportsEnd b q st done first res ((s.berth b).pc.toNat + q.words) (s.berth b).tookLast
  rw [State.finish, State.finishAt_eq, State.concludes, ← State.reportsEnd]
  generalize (s.leaves b q st res ((s.berth b).pc.toNat + q.words) (s.berth b).tookLast).reportsEnd b q st done first res = u at *
  have hd : (u.berth b).stopDue = true := by
    rw [hm]
    exact h
  simp only [hd, if_true]
  split_ifs
  · exact State.state_stopBerth _ _ _
  · exact State.state_stopBerth _ _ _
  · exact State.state_stopBerth _ _ _

/-- A berth past its instruction, with these parcels left and its completion counted. -/
def Berth.counted (x : Berth) (q : QInstr) (st : Status) (res : Option W64) (pc : Nat) (l : List Chunk) : Berth :=
  { x.passed q st res pc with chunks := l, cseq := x.cseq + 1 }

/-- An instruction that lets its stream berth go on: the berth goes past it, its completion is recorded and, in narrow mode,
queued for the host (R161, R164). -/
theorem State.finish_of_stream {s : State} {b : BerthId} {q : QInstr} {st : Status} (hk : (s.berth b).kind = false)
    (hst : st.stops = false) (hq : q.op ≠ 1) (hd : (s.berth b).stopDue = false)
    (he : (s.berth b).stopErr = true → st.good = true) (hn : s.lnk.mode = .narrow) (done : Nat) (first : Option Nat)
    (res : Option W64) : ∃ l i,
      let x := (s.berth b).counted q st res ((s.berth b).pc.toNat + q.words) l
      let c := x.completion st q.op done first (res.getD 0)
      (s.finish b q st done first res).berth b = (x.record c q.tag).standing i ∧
      (s.finish b q st done first res).nar.up = s.nar.up ++ [⟨BitVec.ofNat 16 b.val, q.tag, .completion c⟩] := by
  obtain ⟨l, hl⟩ := s.berth_leaves b q st res ((s.berth b).pc.toNat + q.words) (s.berth b).tookLast
  have hkl : ((s.leaves b q st res ((s.berth b).pc.toNat + q.words) (s.berth b).tookLast).berth b).kind = false := by
    rw [hl]
    exact hk
  have hu := State.finishAt_of_goesOn hst hq hd (fun _ => he) (fun h => by simp [hk] at h) done first res
    (pc := (s.berth b).pc.toNat + q.words)
  rw [State.reportsEnd, if_pos (Berth.sends_of_stream hkl _ _)] at hu
  obtain ⟨i, hi⟩ := State.rest_of_stream (s := (s.leaves b q st res ((s.berth b).pc.toNat + q.words)
    (s.berth b).tookLast).sendCompletion b q.tag q.op st done first (res.getD 0)) (b := b) (by simpa [Berth.record] using hkl)
  rw [hi] at hu
  refine ⟨l, i, ?_, ?_⟩
  · rw [State.finish, hu, State.berth_modBerth, State.berth_sendCompletion, hl]
    rfl
  · rw [State.finish, hu, State.nar_modBerth, State.nar_sendCompletion_of_narrow (by exact hn), hl]
    rfl

/-- No other berth is touched by the end of an instruction that lets its berth go on. -/
theorem State.berth_finish_other {s : State} {b b' : BerthId} {q : QInstr} {st : Status} (hst : st.stops = false) (hq : q.op ≠ 1)
    (hd : (s.berth b).stopDue = false) (he : (s.berth b).kind = false → (s.berth b).stopErr = true → st.good = true)
    (hk : (s.berth b).kind = true → (s.berth b).pc.toNat + q.words < (s.berth b).poolWords) (hb : b' ≠ b) (done : Nat)
    (first : Option Nat) (res : Option W64) : (s.finish b q st done first res).berth b' = s.berth b' := by
  rw [State.finish, State.finishAt_of_goesOn hst hq hd he hk,
    State.berth_movesOn_other (State.movesOn_rest _ b) hb, State.berth_movesOn_other (State.movesOn_reportsEnd _ b _ _ _ _ _) hb,
    State.leaves, State.berth_movesOn_other (State.movesOn_leaveData _ b _ _) hb]
  exact State.berth_modBerth_other _ _ hb

/-- An instruction of a resident berth that reports nothing and leaves no parcel takes its berth past it, and does nothing
else. -/
theorem State.finish_of_silent {s : State} {b : BerthId} {q : QInstr} {st : Status} (hk : (s.berth b).kind = true)
    (hr : (s.berth b).rcomp = false) (hst : st.stops = false) (hthru : st ≠ .writeThrough) (hq : q.op ≠ 1)
    (hpc : (s.berth b).pc.toNat + q.words < (s.berth b).poolWords) (hfree : s.quiesces b = false)
    (hd : (s.berth b).stopDue = false) (hdata : q.takesData = false ∨ (s.berth b).chunks = []) (done : Nat) (first : Option Nat)
    (res : Option W64) : s.finish b q st done first res = s.modBerth b fun x =>
      (x.passed q st res ((s.berth b).pc.toNat + q.words)).standing .ready := by
  have hl : s.leaves b q st res ((s.berth b).pc.toNat + q.words) (s.berth b).tookLast =
      s.modBerth b fun x => x.passed q st res ((s.berth b).pc.toNat + q.words) := by
    rw [State.leaves, State.countThru_of_ne s hthru]
    exact State.leaveData_of_none (by rw [State.berth_modBerth]; exact hk) (by rw [State.berth_modBerth]; exact hdata) _
  have hsend : ((s.modBerth b fun x => x.passed q st res ((s.berth b).pc.toNat + q.words)).berth b).sends q.op st = false := by
    rw [State.berth_modBerth]
    exact Berth.sends_of_silent hk hr hq hst
  rw [State.finish, State.finishAt_of_goesOn hst hq hd (fun h => by simp [hk] at h) fun _ => hpc, hl, State.reportsEnd, hsend,
    if_neg Bool.false_ne_true]
  refine (State.rest_of_resident ?_ (by exact hfree)).trans (s.modBerth_modBerth b _ _)
  rw [State.berth_modBerth]
  exact hk

/-- Settles O23: an instruction that lets its berth go on takes it past its words, is reported where the berth reports, and leaves
the berth at rest. -/
theorem finish : Obligations.Finish := by
  unfold Obligations.Finish
  refine ⟨fun s b q r st done res hk hqueue hst hq hd he hset hn => ?_,
    fun s b q st done res hk hr hst hthru hq hpc hpool hfree hd hdata => ?_,
    fun s b q st done first res h => State.state_finish_of_stopDue h q st done first res⟩
  · obtain ⟨l, i, hb, hup⟩ := State.finish_of_stream hk hst hq hd he hn done none (some res)
    have hother : ∀ b', b' ≠ b → (s.finish b q st done none (some res)).berth b' = s.berth b' := fun b' hb' =>
      State.berth_finish_other hst hq hd (fun _ => he) (fun h => by simp [hk] at h) hb' done none _
    dsimp only
    rw [hb, hup]
    refine ⟨Berth.reg_dst_passed _ q st res ((s.berth b).pc.toNat + q.words), fun i hi hne =>
      Berth.reg_passed_other (s.berth b) hi hne st (some res) ((s.berth b).pc.toNat + q.words), rfl, if_pos hset, ?_, rfl, ?_,
      rfl, rfl, rfl, rfl, rfl, rfl, rfl, ⟨_, rfl, rfl, rfl, rfl, rfl⟩, hother⟩
    · simp [Berth.standing, Berth.counted, Berth.record, Berth.passed, hk, hqueue]
    · simp [Berth.standing, Berth.counted, Berth.record, Berth.passed, Berth.pcPast, hk]
  · dsimp only
    rw [State.finish_of_silent hk hr hst hthru hq hpc hfree hd hdata, State.berth_modBerth]
    refine ⟨?_, rfl, rfl, rfl, rfl, rfl, fun b' hb => State.berth_modBerth_other _ _ hb⟩
    simp only [Berth.standing, Berth.passed, hk, if_true, BitVec.toNat_ofNat]
    omega

/-! ### The frame of the arithmetic family (R188, R189) -/

/-- In narrow mode an instruction that lets its berth go on leaves the link alone. -/
theorem State.lnk_finish_of_narrow {s : State} {b : BerthId} {q : QInstr} {st : Status} (hst : st.stops = false) (hq : q.op ≠ 1)
    (hd : (s.berth b).stopDue = false) (he : (s.berth b).kind = false → (s.berth b).stopErr = true → st.good = true)
    (hk : (s.berth b).kind = true → (s.berth b).pc.toNat + q.words < (s.berth b).poolWords) (hn : s.lnk.mode = .narrow)
    (done : Nat) (first : Option Nat) (res : Option W64) : (s.finish b q st done first res).lnk = s.lnk := by
  rw [State.finish, State.finishAt_of_goesOn hst hq hd he hk, State.lnk_rest, State.reportsEnd]
  split_ifs
  · exact State.lnk_sendCompletion_of_narrow (by exact hn) b _ _ _ _ _ _
  · rfl

/-- All but one berth and the way up stands as it stood: memory, the store, and the registers of the blocks. -/
theorem State.blocks_of_movesOn {s t : State} {b : BerthId} (h : s.movesOn t b) :
    t.pool = s.pool ∧ t.scratch = s.scratch ∧ t.store = s.store ∧ t.tim = s.tim ∧ t.log = s.log ∧ t.ctr = s.ctr ∧ t.rgn = s.rgn ∧
      t.rings = s.rings ∧ t.hup = s.hup ∧ t.pmu = s.pmu ∧ t.flt = s.flt := by
  obtain ⟨⟨n, l, d, y, rfl⟩, -⟩ := h
  exact ⟨rfl, rfl, rfl, rfl, rfl, rfl, rfl, rfl, rfl, rfl, rfl⟩

/-- Settles O28: the flags are of its own berth, and the end of the instruction moves that berth and the way up alone. -/
theorem arithmeticFrame : Obligations.ArithmeticFrame := by
  unfold Obligations.ArithmeticFrame
  intro s b q r w hn _ hd hq hk
  let t := s.modBerth b fun x => x.setFlags r
  let res := if w then some r.val else none
  have hbt : t.berth b = (s.berth b).setFlags r := State.berth_modBerth _ _ _
  have hdt : (t.berth b).stopDue = false := by rw [hbt]; exact hd
  have hkt : (t.berth b).kind = true → (t.berth b).pc.toNat + q.words < (t.berth b).poolWords := by
    rw [hbt]
    exact fun h => (hk h).1
  have hmoves := State.movesOn_finish hq hdt hkt 0 none res
  have hlnk : (t.finish b q .ok 0 none res).lnk = s.lnk :=
    State.lnk_finish_of_narrow rfl hq hdt (fun _ _ => rfl) hkt hn 0 none res
  have hother : ∀ b', b' ≠ b → (t.finish b q .ok 0 none res).berth b' = s.berth b' := fun b' hb =>
    (State.berth_finish_other rfl hq hdt (fun _ _ => rfl) hkt hb 0 none res).trans (State.berth_modBerth_other _ _ hb)
  obtain ⟨hpool, hscr, hstore, htim, hlog, hctr, hrgn, hrings, hhup, hpmu, hflt⟩ := State.blocks_of_movesOn hmoves
  obtain ⟨hv, -, -, hsess, hstack, hinbox⟩ := Berth.kept_of_movedTo hmoves.2
  rw [State.berth_modBerth, hbt] at hv hsess hstack hinbox
  refine ⟨hpool, hscr, hstore, htim, ?_, hlog, hctr, hrgn, hrings, hhup, hpmu, hflt, hother, fun i hi hne => ?_, fun hw => ?_, hsess,
    hstack, hinbox⟩
  · rw [State.arith, hlnk]
  · exact (Berth.reg_of_v hv i).trans (Berth.reg_passed_other _ hi hne _ _ _)
  · refine (Berth.reg_of_v hv q.dst).trans ?_
    simp only [res, hw]
    rfl

end Sys2Proof.Machine
end

section
/-! PROOFS. The order of refusals, and what a skip does (O24). -/

namespace Sys2Proof.Machine

/-! ### Before an instruction's own rules (Table COMB-2) -/

/-- Words of the pool that cannot be read end the instruction before all else (R343). -/
theorem State.begin_of_lost {s : State} {b : BerthId} {q : QInstr} (hk : (s.berth b).kind = true)
    (h : (s.memRead 1 ((s.berth b).poolStart + (s.berth b).pc.toNat) q.words).1 = true) (body : QInstr → State → State) :
    s.begin b q body =
      (s.memRead 1 ((s.berth b).poolStart + (s.berth b).pc.toNat) q.words).2.finish b q .memUncorrectable := by
  simp only [State.begin, hk, if_true, h]

/-- The words that a turn takes from the pool are there, whole; a stream berth takes none. -/
def State.readsWhole (s : State) (b : BerthId) (q : QInstr) : Prop :=
  (s.berth b).kind = true → s.memRead 1 ((s.berth b).poolStart + (s.berth b).pc.toNat) q.words = (false, s)

/-- Its words read, an instruction meets the checks of Table COMB-2 in their order. -/
theorem State.begin_of_readsWhole {s : State} {b : BerthId} {q : QInstr} (h : s.readsWhole b q) (body : QInstr → State → State) :
    s.begin b q body =
      if s.flt.halted then s.finish b q .halted
      else if s.refusesBusy b then s.finish b q .busy
      else if !knownOp q.op then s.finish b q .unknownOp
      else if 10 < q.cc then s.finish b q .badField
      else if !(s.berth b).cond q.cc then s.skip b q
      else if (s.berth b).kind && q.xc < extCount q.word then s.finish b q .badTarget
      else if serviceOp q.op && 8 ≤ b.val then s.finish b q .notService
      else body q s := by
  have e : (if (s.berth b).kind then s.memRead 1 ((s.berth b).poolStart + (s.berth b).pc.toNat) q.words else (false, s)) =
      (false, s) := ite_eq_right_iff.2 h
  simp only [State.begin, e, Bool.false_eq_true, if_false]

/-! ### A skip (R173) -/

/-- A berth past an instruction that it skips. -/
def Berth.skipped (x : Berth) (q : QInstr) : Berth :=
  { x with
    e := false
    lastStat := if setsLastStat q.op then .ok else x.lastStat
    queue := if x.kind then x.queue else x.queue.drop 1
    pc := x.pcPast q.words }

/-- A skip that stays in the allocation takes its berth past the instruction; the rest is its report, which a resident berth does
not send. -/
theorem State.movesOn_skip {s : State} {b : BerthId} {q : QInstr}
    (h : (s.berth b).kind = true → (s.berth b).pc.toNat + q.words < (s.berth b).poolWords) :
    (s.modBerth b fun x => x.skipped q).movesOn (s.skip b q) b := by
  unfold State.skip
  extract_lets pc t
  have ht : t.berth b = (s.berth b).skipped q := State.berth_modBerth _ _ _
  change t.movesOn _ b
  split_ifs with hk hp
  · rw [ht] at hk hp
    exact absurd (h hk) hp.not_gt
  · exact State.movesOn_rest t b
  · have hsent := State.movesOn_trans (State.movesOn_leaveData t b q false) (State.movesOn_sendCompletion _ b q.tag q.op .ok 0 none 0)
    exact State.movesOn_trans hsent (State.movesOn_rest _ b)

/-- Settles O24: each check is met once those before it are passed, and a skip's berth has only moved on past the instruction. -/
theorem refusalOrder : Obligations.RefusalOrder := by
  unfold Obligations.RefusalOrder
  refine ⟨fun s b q body hk => ⟨fun hl => State.begin_of_lost hk hl body, fun hm h1 h2 h3 h4 h5 h6 => ?_⟩,
    fun s b q body hw => ?_, fun s b q body h1 h2 h3 h4 h5 hw => ?_⟩
  · rw [State.begin_of_readsWhole fun _ => hm]
    simp [h1, h2, h3, h4.not_gt, h5, hk, h6]
  · have hr : s.readsWhole b q := fun hk => (hw hk).1
    have hx : ((s.berth b).kind && decide (q.xc < extCount q.word)) = false := by
      simpa using fun hk => (hw hk).2
    rw [State.begin_of_readsWhole hr]
    refine ⟨fun h1 => ?_, fun h1 h2 => ?_, fun h1 h2 h3 => ?_, fun h1 h2 h3 h4 => ?_, fun h1 h2 h3 h4 h5 h6 h7 => ?_⟩
    · simp [h1]
    · simp [h1, h2]
    · simp [h1, h2, h3]
    · simp [h1, h2, h3, h4]
    · simp [h1, h2, h3, h4.not_gt, h5, hx, h6, h7]
  · have hm := State.movesOn_skip fun hk => (hw hk).2
    obtain ⟨hv, he, hl, -⟩ := Berth.kept_of_movedTo hm.2
    rw [State.berth_modBerth] at hv he hl
    refine ⟨?_, he, hv, fun hset => hl.trans (if_pos hset)⟩
    rw [State.begin_of_readsWhole fun hk => (hw hk).1]
    simp [h1, h2, h3, h4.not_gt, h5]

end Sys2Proof.Machine
end

section
/-! PROOFS. Transfers (O25). -/

namespace Sys2Proof.Machine

/-! ### Targets (R145) -/

theorem State.jumpTo_of_inside {s : State} {b : BerthId} {pc : Nat} (h : pc < (s.berth b).poolWords) (q : QInstr)
    (res : Option W64) : s.jumpTo b q pc res = s.finishAt b q .ok 0 none res pc := if_neg h.not_ge

theorem State.jumpTo_of_outside {s : State} {b : BerthId} {pc : Nat} (h : (s.berth b).poolWords ≤ pc) (q : QInstr)
    (res : Option W64) : s.jumpTo b q pc res = s.finish b q .badTarget := if_pos h

/-! ### The bodies of the transfers (R184, Table TZ-6) -/

/-- BRANCH in a resident berth. -/
def State.branchBody (s : State) (b : BerthId) (q : QInstr) : State :=
  let m : Byte := BitVec.ofNat 8 (q.imm 24 8)
  if (s.berth b).lastStat.code &&& m = BitVec.ofNat 8 (q.imm 16 8) &&& m then s.jumpTo b q (q.imm 0 16)
  else s.finish b q .ok

/-- CALL in a resident berth. -/
def State.callBody (s : State) (b : BerthId) (q : QInstr) : State :=
  if 4 ≤ (s.berth b).stack.length then s.finish b q .stackFault
  else if (s.berth b).poolWords ≤ q.imm 0 16 then s.finish b q .badTarget
  else
    let ret := BitVec.ofNat 16 (s.nextPc b)
    (s.modBerth b fun x => { x with stack := ret :: x.stack }).jumpTo b q (q.imm 0 16)

/-- RETURN in a resident berth. -/
def State.retBody (s : State) (b : BerthId) (q : QInstr) : State :=
  match (s.berth b).stack with
  | [] => s.finish b q .stackFault
  | p :: r => (s.modBerth b fun x => { x with stack := r }).jumpTo b q p.toNat

/-- LOOP in a resident berth. -/
def State.loopBody (s : State) (b : BerthId) (q : QInstr) : State :=
  let v := (s.berth b).reg q.dst
  if v = 0 then (s.modBerth b fun x => { x with z := true }).finish b q .ok
  else if v = 1 then (s.modBerth b fun x => { x with z := true }).finish b q .ok 0 none (some 0)
  else if (s.berth b).poolWords ≤ q.imm 0 16 then s.finish b q .badTarget
  else (s.modBerth b fun x => { x with z := false }).jumpTo b q (q.imm 0 16) (some (v - 1))

theorem State.retBody_of_empty {s : State} {b : BerthId} (h : (s.berth b).stack = []) (q : QInstr) :
    s.retBody b q = s.finish b q .stackFault := by
  simp only [State.retBody, h]

theorem State.retBody_of_cons {s : State} {b : BerthId} {p : W16} {r : List W16} (h : (s.berth b).stack = p :: r) (q : QInstr) :
    s.retBody b q = (s.modBerth b fun x => { x with stack := r }).jumpTo b q p.toNat := by
  simp only [State.retBody, h]

/-! ### A transfer's turn -/

section
variable {s : State} {b : BerthId} {q : QInstr} (h : s.mayRun b q)
include h

/-- In a stream berth a transfer is NOT_IN_STREAM (R144). -/
theorem runTurn_transfer {op : Byte} (ho : q.op = op) (hk : knownOp op = true) {fs : List (Nat × Nat)} (hf : q.only fs = true)
    (body : QInstr → State → State) : (runTurn b op s fun q s => s.transfer b q fs (body q)) =
      .next (State.wakeAll 512 (if (s.berth b).kind then body q (s.takeTurn b q) else (s.takeTurn b q).finish b q .notInStream)) :=
  runTurn_checked h ho hk hf fun q s => if (s.berth b).kind then body q s else s.finish b q .notInStream

theorem exec_jump_of_mayRun (ho : q.op = 2) (hf : q.only [(0, 16)] = true) :
    exec (.jump b) s = .next (State.wakeAll 512 (if (s.berth b).kind then (s.takeTurn b q).jumpTo b q (q.imm 0 16)
      else (s.takeTurn b q).finish b q .notInStream)) :=
  runTurn_transfer h ho rfl hf fun q s => s.jumpTo b q (q.imm 0 16)

theorem exec_branch_of_mayRun (ho : q.op = 3) (hf : q.only [(0, 32)] = true) :
    exec (.branch b) s = .next (State.wakeAll 512 (if (s.berth b).kind then (s.takeTurn b q).branchBody b q
      else (s.takeTurn b q).finish b q .notInStream)) :=
  runTurn_transfer h ho rfl hf fun q s => s.branchBody b q

theorem exec_call_of_mayRun (ho : q.op = 4) (hf : q.only [(0, 16)] = true) :
    exec (.call b) s = .next (State.wakeAll 512 (if (s.berth b).kind then (s.takeTurn b q).callBody b q
      else (s.takeTurn b q).finish b q .notInStream)) :=
  runTurn_transfer h ho rfl hf fun q s => s.callBody b q

theorem exec_ret_of_mayRun (ho : q.op = 5) (hf : q.only [] = true) :
    exec (.ret b) s = .next (State.wakeAll 512 (if (s.berth b).kind then (s.takeTurn b q).retBody b q
      else (s.takeTurn b q).finish b q .notInStream)) :=
  runTurn_transfer h ho rfl hf fun q s => s.retBody b q

theorem exec_loop_of_mayRun (ho : q.op = 6) (hf : q.only [fDst, (0, 16)] = true) :
    exec (.loop b) s = .next (State.wakeAll 512 (if (s.berth b).kind then (s.takeTurn b q).loopBody b q
      else (s.takeTurn b q).finish b q .notInStream)) :=
  runTurn_transfer h ho rfl hf fun q s => s.loopBody b q

end

/-! ### LOOP's count -/

theorem ne_of_one_lt_toNat {v : W64} (h : 1 < v.toNat) : v ≠ 0 ∧ v ≠ 1 := by
  constructor <;> rintro rfl <;> exact absurd h (by decide)

/-- Settles O25: the turn of a transfer runs its body in a resident berth, and each clause is one of its branches. -/
theorem transfers : Obligations.Transfers := by
  unfold Obligations.Transfers
  refine ⟨fun s b q ⟨h, hk⟩ => ?_, fun s b q h => ?_⟩
  · refine ⟨fun ho hf ht => ?_, fun ho hf => ⟨fun hm ht => ?_, fun hm => ?_⟩, fun ho hf ht hs => ?_,
      fun p r ho hf hs hp => ?_, fun ho hf ht hv => ?_, fun ho hf hv => ?_, fun ho hf hv => ?_⟩
    · rw [exec_jump_of_mayRun h ho hf, if_pos hk, State.jumpTo_of_inside (by exact ht)]
    · rw [exec_branch_of_mayRun h ho hf, if_pos hk, State.branchBody, if_pos (by exact hm), State.jumpTo_of_inside (by exact ht)]
    · rw [exec_branch_of_mayRun h ho hf, if_pos hk, State.branchBody, if_neg (by exact hm)]
      rfl
    · rw [exec_call_of_mayRun h ho hf, if_pos hk, State.callBody, if_neg (by exact hs.not_ge), if_neg (by exact ht.not_ge)]
      simp only
      rw [State.jumpTo_of_inside (by rw [State.berth_modBerth]; exact ht)]
      rfl
    · rw [exec_ret_of_mayRun h ho hf, if_pos hk, State.retBody_of_cons (by exact hs),
        State.jumpTo_of_inside (by rw [State.berth_modBerth]; exact hp)]
    · obtain ⟨h0, h1⟩ := ne_of_one_lt_toNat hv
      rw [exec_loop_of_mayRun h ho hf, if_pos hk, State.loopBody, State.berth_takeTurn, if_neg h0, if_neg h1, if_neg ht.not_ge,
        State.jumpTo_of_inside (by rw [State.berth_modBerth]; exact ht)]
    · rw [exec_loop_of_mayRun h ho hf, if_pos hk, State.loopBody, State.berth_takeTurn, if_pos hv, State.finish,
        State.berth_modBerth]
      rfl
    · rw [exec_loop_of_mayRun h ho hf, if_pos hk, State.loopBody, State.berth_takeTurn, hv, if_neg (by decide), if_pos rfl,
        State.finish, State.berth_modBerth]
      rfl
  · refine ⟨fun hk hf ht => ⟨fun ho => ?_, fun ho hs => ?_⟩, fun hk ho hf ht hm => ?_, fun hk ho hf ht hv => ?_,
      fun hk ho hf hs => ?_, fun hk ho hf hs => ?_, fun hk => ?_⟩
    · rw [exec_jump_of_mayRun h ho hf, if_pos hk, State.jumpTo_of_outside (by exact ht)]
    · rw [exec_call_of_mayRun h ho hf, if_pos hk, State.callBody, if_neg (by exact hs.not_ge), if_pos (by exact ht)]
    · rw [exec_branch_of_mayRun h ho hf, if_pos hk, State.branchBody, if_pos (by exact hm), State.jumpTo_of_outside (by exact ht)]
    · obtain ⟨h0, h1⟩ := ne_of_one_lt_toNat hv
      rw [exec_loop_of_mayRun h ho hf, if_pos hk, State.loopBody, State.berth_takeTurn, if_neg h0, if_neg h1, if_pos ht]
    · rw [exec_call_of_mayRun h ho hf, if_pos hk, State.callBody, if_pos (by exact hs)]
    · rw [exec_ret_of_mayRun h ho hf, if_pos hk, State.retBody_of_empty (by exact hs)]
    · have hn : ¬(s.berth b).kind = true := by simp [hk]
      refine ⟨fun ho hf => ?_, fun ho hf => ?_, fun ho hf => ?_, fun ho hf => ?_, fun ho hf => ?_⟩
      · rw [exec_jump_of_mayRun h ho hf, if_neg hn]
      · rw [exec_branch_of_mayRun h ho hf, if_neg hn]
      · rw [exec_call_of_mayRun h ho hf, if_neg hn]
      · rw [exec_ret_of_mayRun h ho hf, if_neg hn]
      · rw [exec_loop_of_mayRun h ho hf, if_neg hn]

end Sys2Proof.Machine
end

section
/-! SUPPORT. What the end of an instruction from outside leaves of the berths: their sessions, and a stopped berth's instruction
(R150, R151, R224). -/

namespace Sys2Proof.Machine

/-! ### One part of every berth -/

theorem State.map_berths_modBerth {α : Type} (s : State) (b : BerthId) {f : Berth → Berth} {g : Berth → α}
    (h : g (f (s.berth b)) = g (s.berth b)) : (s.modBerth b f).berths.map g = s.berths.map g := by
  ext i hi
  by_cases hb : b.val = i
  · subst hb
    simpa [State.modBerth, State.setBerth, State.berth] using h
  · simp [State.modBerth, State.setBerth, Vector.getElem_set_ne _ _ hb]

/-- The sessions of the berths. -/
def State.sessions (s : State) : Vector Session 512 := s.berths.map Berth.session

theorem State.session_of_sessions {s t : State} (h : t.sessions = s.sessions) (b : BerthId) :
    (t.berth b).session = (s.berth b).session := by
  have := congrArg (fun v => v[b]) h
  simpa [State.sessions, State.berth] using this

theorem sessions_foldl {α : Type} {f : State → α → State} (h : ∀ (s : State) (a : α), (f s a).sessions = s.sessions) (l : List α)
    (s : State) : (l.foldl f s).sessions = s.sessions := by
  induction l generalizing s with
  | nil => rfl
  | cons a r ih => exact (ih _).trans (h s a)

theorem State.sessions_modBerth (s : State) (b : BerthId) {f : Berth → Berth} (h : (f (s.berth b)).session = (s.berth b).session) :
    (s.modBerth b f).sessions = s.sessions := s.map_berths_modBerth b h

theorem State.sessions_of_movesOn {s t : State} {b : BerthId} (h : s.movesOn t b) : t.sessions = s.sessions := by
  have hs := (Berth.kept_of_movedTo h.2).2.2.2.1
  obtain ⟨⟨n, l, d, y, rfl⟩, -⟩ := h
  rw [State.berth_setBerth] at hs
  exact s.sessions_modBerth b (f := fun _ => y) hs

/-! ### Stopping -/

@[simp] theorem State.sessions_raiseEvent (s : State) (code : Nat) (arg : W32) (src : Option BerthId) :
    (s.raiseEvent code arg src).sessions = s.sessions := by
  obtain ⟨w, n, l, h⟩ := s.raiseEvent_spec code arg src
  rw [h, State.sessions, Vector.map_map]
  rfl

@[simp] theorem State.sessions_sendCompletion (s : State) (b : BerthId) (tag : W16) (op : Byte) (st : Status) (done : Nat)
    (first : Option Nat) (res : W64) : (s.sendCompletion b tag op st done first res).sessions = s.sessions :=
  State.sessions_of_movesOn (s.movesOn_sendCompletion b tag op st done first res)

@[simp] theorem State.sessions_dropChunks (s : State) (b : BerthId) (p : Chunk → Bool) :
    (s.dropChunks b p).sessions = s.sessions := State.sessions_of_movesOn (s.movesOn_dropChunks b p)

@[simp] theorem State.sessions_leaveData (s : State) (b : BerthId) (q : QInstr) (took : Bool) :
    (s.leaveData b q took).sessions = s.sessions := State.sessions_of_movesOn (s.movesOn_leaveData b q took)

@[simp] theorem State.sessions_rest (s : State) (b : BerthId) : (s.rest b).sessions = s.sessions :=
  State.sessions_of_movesOn (s.movesOn_rest b)

@[simp] theorem State.sessions_flushQueue (s : State) (b : BerthId) (qs : List QInstr) :
    (s.flushQueue b qs).sessions = s.sessions := by
  induction qs generalizing s with
  | nil => rfl
  | cons q r ih =>
    rw [State.flushQueue, ih, State.sessions_sendCompletion]
    exact s.sessions_modBerth b rfl

@[simp] theorem State.sessions_stopBerth (s : State) (b : BerthId) (st : Status) : (s.stopBerth b st).sessions = s.sessions := by
  have h := s.sessions_modBerth b (f := fun x => { x with state := .stopped, why := .none, cur := none, stopDue := false }) rfl
  simp only [State.stopBerth, State.sessions_dropChunks]
  split_ifs
  · exact h
  · simpa using h

@[simp] theorem State.sessions_stopHere (s : State) (b : BerthId) : (s.stopHere b).sessions = s.sessions := by
  simp only [State.stopHere, State.sessions_stopBerth]
  split_ifs
  · rw [State.sessions_sendCompletion]
    exact s.sessions_modBerth b rfl
  · rfl

/-! ### What was under way is withdrawn (R150, R366) -/

@[simp] theorem State.sessions_creditItem (s : State) (k : ItemKind) (cost : Nat) : (s.creditItem k cost).sessions = s.sessions :=
  rfl

@[simp] theorem State.sessions_addStale (s : State) (k : Nat) (orphan : Bool) (x : Option Copy) :
    (s.addStale k orphan x).sessions = s.sessions := by
  cases x <;> rfl

@[simp] theorem State.sessions_orphan (s : State) (k : Nat) (base : Option Copy) (v : Version) :
    (s.orphan k base v).sessions = s.sessions := by
  unfold State.orphan
  split
  · exact s.sessions_addStale _ _ _
  · rfl

@[simp] theorem State.sessions_purgeUnit (s : State) (k : Nat) : (s.purgeUnit k).sessions = s.sessions :=
  (sessions_foldl (fun s v => s.sessions_orphan k _ v) _ _).trans (s.sessions_addStale k false _)

@[simp] theorem State.sessions_settleWrap (s : State) (r : Nat) : (s.settleWrap r).sessions = s.sessions := by
  refine (sessions_foldl (fun s g => ?_) _ _).trans (rfl : (s.setRing r _).sessions = s.sessions)
  exact sessions_foldl State.sessions_purgeUnit _ _

@[simp] theorem State.sessions_releasePiece (s : State) (c : Cur) : (s.releasePiece c).sessions = s.sessions := by
  simp only [State.releasePiece]
  split_ifs <;> simp

@[simp] theorem State.sessions_refuseReq (s : State) (reason : Nat) : (s.refuseReq reason).sessions = s.sessions := by
  unfold State.refuseReq
  split_ifs <;> rfl

@[simp] theorem State.sessions_openGate (s : State) : s.openGate.sessions = s.sessions := by
  refine sessions_foldl (fun s b => ?_) _ _
  split
  · split_ifs
    · rw [State.sessions_rest]
      exact s.sessions_modBerth b rfl
    · rfl
  · rfl

@[simp] theorem State.sessions_freeBerths (s : State) : s.freeBerths.sessions = s.sessions := by
  refine sessions_foldl (fun s b => ?_) _ _
  split_ifs
  · exact s.sessions_rest b
  · rfl

@[simp] theorem State.sessions_startRelease (s : State) : s.startRelease.sessions = s.sessions := by
  rw [State.startRelease, State.sessions_raiseEvent]
  exact s.sessions_refuseReq 7

@[simp] theorem State.sessions_leaveQuiesce (s : State) : s.leaveQuiesce.sessions = s.sessions := by
  have hf : ({ s with scr := Scr.init } : State).freeBerths.sessions = s.sessions := State.sessions_freeBerths _
  simp only [State.leaveQuiesce]
  split_ifs
  · exact (State.sessions_startRelease _).trans hf
  · exact hf

@[simp] theorem State.sessions_dropVersion (s : State) (stamp k : Nat) : (s.dropVersion stamp k).sessions = s.sessions := by
  simp only [State.dropVersion]
  split
  · rfl
  · exact s.sessions_orphan k _ _

@[simp] theorem State.sessions_restoreCfg (s : State) (o : OldCfg) : (s.restoreCfg o).sessions = s.sessions := by
  unfold State.restoreCfg
  refine (sessions_foldl (fun s p => ?_) _ _).trans (sessions_foldl (fun s p => ?_) _ _)
  · rfl
  · rfl

@[simp] theorem State.sessions_undoChange (s : State) (c : Change) : (s.undoChange c).sessions = s.sessions := by
  simp only [State.undoChange]
  refine (sessions_foldl (fun s a => ?_) _ _).trans ?_
  · cases a with
    | restore o => exact s.sessions_restoreCfg o
    | _ => rfl
  · split_ifs <;> exact sessions_foldl (fun s k => s.sessions_dropVersion c.stamp k) _ _

@[simp] theorem State.sessions_withdraw (s : State) (p : Change → Bool) : (s.withdraw p).sessions = s.sessions := by
  simp only [State.withdraw]
  exact sessions_foldl State.sessions_undoChange _ _

@[simp] theorem State.sessions_unsign (s : State) (b : BerthId) : (s.unsign b).sessions = s.sessions := by
  simp only [State.unsign]
  refine sessions_foldl (fun s c => ?_) _ _
  split_ifs <;> rfl

@[simp] theorem State.sessions_unstep (s : State) (b : BerthId) : (s.unstep b).sessions = s.sessions := by
  simp only [State.unstep]
  split
  · split_ifs <;> rfl
  · rfl

theorem State.sessions_unsealLast {s t : State} {b : BerthId} (h : s.unsealLast b = some t) : t.sessions = s.sessions := by
  simp only [State.unsealLast] at h
  split at h
  · split_ifs at h <;> rw [← Option.some.inj h] <;> rfl
  · cases h

@[simp] theorem State.sessions_withdrawCur (s : State) (b : BerthId) (c : Cur) : (s.withdrawCur b c).sessions = s.sessions := by
  have hu (t : State) : ((t.unsealLast b).getD t).sessions = t.sessions := by
    cases h : t.unsealLast b with
    | none => rfl
    | some v => exact State.sessions_unsealLast h
  unfold State.withdrawCur
  extract_lets op s1 w s2 l s3 s4 s5 s6 s7 s8 s9
  have h1 : s1.sessions = s.sessions := rfl
  clear_value s1
  have h2 : s2.sessions = s.sessions := by
    simp only [s2]
    split_ifs <;> simp [h1]
  clear_value s2
  have h3 : s3.sessions = s.sessions := by
    simp only [s3]
    split_ifs <;> simp [h2]
  clear_value s3
  have h4 : s4.sessions = s.sessions := by
    simp only [s4]
    split_ifs <;> simp [h3]
  clear_value s4
  have h5 : s5.sessions = s.sessions := by
    simp only [s5]
    split_ifs <;> simp [h4]
  clear_value s5
  have h8 : s8.sessions = s.sessions := by simp only [s8, s7, s6, hu, State.sessions_unsign, State.sessions_unstep,
    State.sessions_withdraw, h5]
  clear_value s8
  exact h8

/-! ### STOP (R151) -/

theorem State.sessions_endAborted (s : State) (b : BerthId) (c : Cur) : (s.endAborted b c).sessions = s.sessions := by
  simp only [State.endAborted, State.sessions_sendCompletion, State.sessions_leaveData]
  exact (State.sessions_modBerth _ b rfl).trans (s.sessions_withdrawCur b c)

@[simp] theorem State.sessions_stopCommand (s : State) (b : BerthId) : (s.stopCommand b).sessions = s.sessions := by
  unfold State.stopCommand
  split
  · split_ifs
    · rw [State.sessions_stopBerth, State.sessions_endAborted]
    · exact s.sessions_modBerth b rfl
  · exact s.sessions_stopHere b

@[simp] theorem State.cur_flushQueue (s : State) (b : BerthId) (qs : List QInstr) :
    ((s.flushQueue b qs).berth b).cur = (s.berth b).cur := by
  induction qs generalizing s with
  | nil => rfl
  | cons q r ih =>
    rw [State.flushQueue, ih, State.berth_sendCompletion, State.berth_modBerth]
    rfl

@[simp] theorem State.cur_raiseEvent (s : State) (code : Nat) (arg : W32) (src : Option BerthId) (b : BerthId) :
    ((s.raiseEvent code arg src).berth b).cur = (s.berth b).cur := by
  obtain ⟨w, n, l, h⟩ := s.raiseEvent_spec code arg src
  rw [h]
  simp [State.berth, Berth.pendEvent]

/-- A stopped berth has no instruction in progress. -/
theorem State.cur_stopBerth (s : State) (b : BerthId) (st : Status) : ((s.stopBerth b st).berth b).cur = none := by
  simp only [State.stopBerth, State.dropChunks, State.berth_discard, State.berth_modBerth]
  split <;> simp

/-- STOP stops a berth whose instruction in progress, if it has one, can be taken back. -/
theorem State.berth_stopCommand {s : State} {b : BerthId} (h : ∀ c, (s.berth b).cur = some c → s.takesBack b c = true) :
    ((s.stopCommand b).berth b).state = .stopped ∧ ((s.stopCommand b).berth b).cur = none := by
  unfold State.stopCommand
  split
  next c hc =>
    rw [if_pos (h c hc)]
    exact ⟨State.state_stopBerth _ _ _, State.cur_stopBerth _ _ _⟩
  next => exact ⟨State.state_stopBerth _ _ _, State.cur_stopBerth _ _ _⟩

/-- An instruction in progress that can no longer be taken back completes first (log 63). -/
theorem State.stopCommand_of_rests {s : State} {b : BerthId} {c : Cur} (hc : (s.berth b).cur = some c)
    (h : s.takesBack b c = false) : s.stopCommand b = s.modBerth b fun x => { x with stopDue := true } := by
  rw [State.stopCommand, hc]
  simp only [h, Bool.false_eq_true, if_false]

end Sys2Proof.Machine
end

section
/-! SUPPORT. The commands of the berth in BTH_SEL (R148): each runs on the berth whose window holds its code, and its status
stands in the window. -/

namespace Sys2Proof.Machine

/-! ### A command and its answer -/

/-- BTH_CMD.OP stands in the window of the selected berth. -/
def State.commanded (s : State) (op : Nat) : State := s.modWindow fun w => { w with op := BitVec.ofNat 3 op }

/-- A berth with the status of a command in its window. -/
def Berth.answered (x : Berth) (st : Status) : Berth := { x with win := { x.win with cmdSt := st } }

/-- The status of a command stands in the window of berth `b`. -/
def State.answered (s : State) (b : BerthId) (st : Status) : State := s.modBerth b fun x => x.answered st

/-- A berth with the code of a command in its window. -/
def Berth.commanded (x : Berth) (op : Nat) : Berth := { x with win := { x.win with op := BitVec.ofNat 3 op } }

@[simp] theorem State.berth_commanded (s : State) (op : Nat) :
    (s.commanded op).berth s.selected = (s.berth s.selected).commanded op := State.berth_modBerth _ _ _

@[simp] theorem State.sessions_commanded (s : State) (op : Nat) : (s.commanded op).sessions = s.sessions :=
  s.sessions_modBerth _ rfl

theorem State.berth_answered (s : State) (b : BerthId) (st : Status) :
    (s.answered b st).berth b = (s.berth b).answered st := State.berth_modBerth _ _ _

theorem State.cmdSt_answered (s : State) (b : BerthId) (st : Status) : ((s.answered b st).berth b).win.cmdSt = st := by
  rw [State.berth_answered]
  rfl

/-- No session but that of the berth itself is touched. -/
def State.othersKeep (s t : State) (b : BerthId) : Prop := ∀ b', b' ≠ b → (t.berth b').session = (s.berth b').session

theorem State.othersKeep_of_sessions {s t : State} (h : t.sessions = s.sessions) (b : BerthId) : s.othersKeep t b :=
  fun b' _ => State.session_of_sessions h b'

theorem State.othersKeep_modBerth {s t : State} {b : BerthId} (h : s.othersKeep t b) (f : Berth → Berth) :
    s.othersKeep (t.modBerth b f) b := fun b' hb => by
  rw [State.berth_modBerth_other _ _ hb]
  exact h b' hb

/-- What a command does, with its status (Table BERTH-5). -/
def State.commandEffect (s : State) (b : BerthId) : Nat → Status × State
  | 1 => s.allocBerth b
  | 2 => (.ok, s.modBerth b fun x => { x with state := .loading, loadPtr := 0 })
  | 3 => (.ok, s.startBerth b)
  | 4 => (.ok, s.stopCommand b)
  | 5 => (.ok, s.freeBerth b)
  | _ => (.ok, s.restartBerth b)

theorem State.berthCommand_of_from {s : State} {op : Nat} (h1 : 1 ≤ op) (h6 : op ≤ 6)
    (h : commandFrom op (s.berth s.selected) = true) :
    s.berthCommand op = (s.commandEffect s.selected op).2.answered s.selected (s.commandEffect s.selected op).1 := by
  unfold State.berthCommand
  extract_lets b done
  rw [if_neg (by omega), h, Bool.not_true, if_neg Bool.false_ne_true]
  obtain rfl | rfl | rfl | rfl | rfl | rfl : op = 1 ∨ op = 2 ∨ op = 3 ∨ op = 4 ∨ op = 5 ∨ op = 6 := by omega
  all_goals rfl

theorem State.berthCommand_of_wrongState {s : State} {op : Nat} (h1 : 1 ≤ op) (h6 : op ≤ 6)
    (h : commandFrom op (s.berth s.selected) = false) : s.berthCommand op = s.answered s.selected .wrongState := by
  unfold State.berthCommand
  extract_lets b done
  rw [if_neg (by omega), h, Bool.not_false, if_pos rfl]
  rfl

/-- A command that its berth's state allows takes effect, and its status stands in the window. -/
theorem berthRow_of_from {s : State} {op : Nat} (ha : s.alive = true) (h1 : 1 ≤ op) (h6 : op ≤ 6)
    (h : commandFrom op (s.berth s.selected) = true) : berthRow op s = .next (s.close (
      ((s.commanded op).commandEffect s.selected op).2.answered s.selected ((s.commanded op).commandEffect s.selected op).1)) := by
  rw [berthRow, if_pos ha]
  refine congrArg (settled s) (State.berthCommand_of_from h1 h6 ?_)
  change commandFrom op ((s.commanded op).berth s.selected) = true
  rw [State.berth_commanded]
  exact h

/-- A command that its berth's state does not allow is WRONG_STATE and does nothing else. -/
theorem berthRow_of_wrongState {s : State} {op : Nat} (ha : s.alive = true) (h1 : 1 ≤ op) (h6 : op ≤ 6)
    (h : commandFrom op (s.berth s.selected) = false) :
    berthRow op s = .next (s.close ((s.commanded op).answered s.selected .wrongState)) := by
  rw [berthRow, if_pos ha]
  refine congrArg (settled s) (State.berthCommand_of_wrongState h1 h6 ?_)
  change commandFrom op ((s.commanded op).berth s.selected) = false
  rw [State.berth_commanded]
  exact h

/-! ### ALLOC (R145, R146) -/

theorem State.unitTaken_commanded (s : State) (op u : Nat) : (s.commanded op).unitTaken u = s.unitTaken u := by
  have h := s.map_berths_modBerth s.selected (f := fun x => x.commanded op) (g := fun x => (x.poolBase, x.poolUnits)) rfl
  have hany (v : Vector Berth 512) : (v.toList.any fun x => x.poolBase ≤ u && u < x.poolBase + x.poolUnits) =
      ((v.map fun x => (x.poolBase, x.poolUnits)).toList.any fun p => p.1 ≤ u && u < p.1 + p.2) := by
    rw [Vector.toList_map, List.any_map]
    rfl
  rw [State.unitTaken, State.unitTaken, hany, hany]
  exact congrArg (fun v : Vector (Nat × Nat) 512 => v.toList.any _) h

theorem State.unitFree_commanded (s : State) (op : Nat) : (s.commanded op).unitFree = s.unitFree := by
  funext u
  rw [State.unitFree, State.unitTaken_commanded]
  rfl

theorem State.pageFree_commanded (s : State) (op : Nat) : (s.commanded op).pageFree = s.pageFree := by
  have h := s.map_berths_modBerth s.selected (f := fun x => x.commanded op) (g := fun x => (x.scrBase, x.scrPages)) rfl
  funext p
  have hany (v : Vector Berth 512) : (v.toList.any fun x => x.scrBase ≤ p && p < x.scrBase + x.scrPages) =
      ((v.map fun x => (x.scrBase, x.scrPages)).toList.any fun y => y.1 ≤ p && p < y.1 + y.2) := by
    rw [Vector.toList_map, List.any_map]
    rfl
  rw [State.pageFree, State.pageFree, hany, hany]
  exact congrArg (fun v : Vector (Nat × Nat) 512 => !(v.toList.any _) && !(s.memOf 2).withdrawn.contains p) h

/-- Clearing a run of a memory is an affair of that memory's own checks: at most its flip-mask acts (R347). -/
theorem State.memCleared_spec (s : State) (m : Fin 10) (a n : Nat) : ∃ x, s.memCleared m a n = { s with mems := x } := by
  simp only [State.memCleared, State.memWrote]
  split_ifs <;> exact ⟨_, rfl⟩

/-- A berth that holds its run of pool units and of scratch pages, to be loaded. -/
def Berth.allocated (x : Berth) (p g : Nat) : Berth :=
  { x with state := .loading, poolBase := p, poolUnits := x.win.units, scrBase := g, scrPages := x.win.pages, loadPtr := 0 }

/-- Memory with `n` zeroed pool units from `p` on, and `m` zeroed scratch pages of a colour from `g` on; `x` is what the memories'
own checks hold then. -/
def State.zeroed (s : State) (p n g m : Nat) (colour : BitVec 4) (x : Vector Mem 10) : State :=
  { s with
    pool := Memory.clear s.pool (512 * p) (512 * n)
    scratch := Memory.clear s.scratch (4096 * g) (4096 * m)
    scrTags := Vector.ofFn fun i => if g ≤ i.val ∧ i.val < g + m then colour else s.scrTags[i]
    mems := x }

/-- ALLOC that finds room takes zeroed words and pages of the berth's colour. -/
theorem State.allocBerth_of_room {s : State} {b : BerthId} {p g : Nat} (h0 : (s.berth b).win.units ≠ 0)
    (h1 : (s.berth b).win.units ≤ 1024) (h2 : (s.berth b).win.pages ≤ 64)
    (hp : firstFit s.unitFree (s.berth b).win.units 1024 = some p)
    (hg : (if (s.berth b).win.pages = 0 then some 0 else firstFit s.pageFree (s.berth b).win.pages 64) = some g) :
    ∃ x, s.allocBerth b = (.ok,
      (s.zeroed p (s.berth b).win.units g (s.berth b).win.pages (s.berth b).scolour x).modBerth b fun x => x.allocated p g) := by
  simp only [State.allocBerth, hp, hg]
  rw [if_neg (by omega)]
  generalize hz : ({ s with
    pool := Memory.clear s.pool (512 * p) (512 * (s.berth b).win.units)
    scratch := Memory.clear s.scratch (4096 * g) (4096 * (s.berth b).win.pages)
    scrTags := Vector.ofFn fun i : Fin 64 =>
      if g ≤ i.val ∧ i.val < g + (s.berth b).win.pages then (s.berth b).scolour else s.scrTags[i] } : State) = z
  obtain ⟨x, hx⟩ := z.memCleared_spec 1 (512 * p) (512 * (s.berth b).win.units)
  obtain ⟨y, hy⟩ := (z.memCleared 1 (512 * p) (512 * (s.berth b).win.units)).memCleared_spec 2 (4096 * g)
    (4096 * (s.berth b).win.pages)
  rw [hy, hx, ← hz]
  exact ⟨y, rfl⟩

end Sys2Proof.Machine
end

section
/-! SUPPORT. Reservation requests (R53, R159, R160). -/

namespace Sys2Proof.Machine

theorem setWidth_eq_zero_iff {w : Nat} (v : BitVec w) (n : Nat) : v.setWidth n = 0 ↔ bits v 0 n = 0 := by
  rw [← BitVec.toNat_inj]
  simp [bits]

/-- BTH_RESV as a request leaves it in the window. -/
def resvWritten (v : W32) : W32 := (v ||| 0x20000) &&& 0x1FFFF

theorem setWidth_resvWritten (v : W32) : (resvWritten v).setWidth 16 = v.setWidth 16 := by
  rw [resvWritten, BitVec.setWidth_and, BitVec.setWidth_or]
  exact (BitVec.and_allOnes).trans BitVec.or_zero

theorem bit_resvWritten (v : W32) : bit (resvWritten v) 16 = bit v 16 := by
  simp [bit, resvWritten]

/-- The window of the selected berth holds the request. -/
def State.resvAsked (s : State) (v : W32) : State := s.modWindow fun w => { w with resv := resvWritten v }

theorem State.berth_resvAsked (s : State) (v : W32) : (s.resvAsked v).berth s.selected =
    { s.berth s.selected with win := { (s.berth s.selected).win with resv := resvWritten v } } := State.berth_modBerth _ _ _

/-- The reservations of the other berths. -/
def State.otherResvs (s : State) (b : BerthId) : List Resv :=
  (s.berths.toList.zip allBerths).filterMap fun p => if p.2 = b then none else p.1.resv

theorem State.otherResvs_resvAsked (s : State) (v : W32) (b : BerthId) : (s.resvAsked v).otherResvs b = s.otherResvs b := by
  have h := s.map_berths_modBerth s.selected
    (f := fun x => { x with win := { x.win with resv := resvWritten v } }) (g := Berth.resv) rfl
  have hmap (u : Vector Berth 512) : ((u.toList.zip allBerths).filterMap fun p => if p.2 = b then none else p.1.resv) =
      ((u.map Berth.resv).toList.zip allBerths).filterMap fun p => if p.2 = b then none else p.1 := by
    rw [Vector.toList_map, List.zip_map_left, List.filterMap_map]
    rfl
  rw [State.otherResvs, State.otherResvs, hmap, hmap]
  exact congrArg (fun u : Vector (Option Resv) 512 => (u.toList.zip allBerths).filterMap _) h

/-- The reservation that a request asks for. -/
def State.asksFor (s : State) (v : W32) : Resv :=
  { rate := v.setWidth 16, up := bit v 16, regions := (s.berth s.selected).win.regions, stamp := s.bth.stamp }

/-- The answer stands in BTH_RESVST. -/
def State.saysResv (s : State) (st : Status) : State := { s with bth := { s.bth with resvSt := st } }

/-- The reservation of a berth is set, or taken back. -/
def State.setResv (s : State) (b : BerthId) (r : Option Resv) : State := s.modBerth b fun x => { x with resv := r }

theorem State.resv_setResv (s : State) (b : BerthId) (r : Option Resv) (st : Status) :
    (((s.setResv b r).saysResv st).berth b).resv = r := by
  change ((s.modBerth b fun x => { x with resv := r }).berth b).resv = r
  rw [State.berth_modBerth]

theorem State.resv_resvAsked (s : State) (v : W32) (st : Status) :
    (((s.resvAsked v).saysResv st).berth s.selected).resv = (s.berth s.selected).resv := by
  change ((s.resvAsked v).berth s.selected).resv = _
  rw [s.berth_resvAsked]

/-- The stamp of the next reservation. -/
def State.stepStamp (s : State) : State := { s with bth := { s.bth with stamp := s.bth.stamp + 1 } }

/-- A request is answered by its first failing check, else granted; a rate of 0 takes the reservation back (R159, R160). -/
theorem exec_bthResvRequest {s : State} (ha : s.alive = true) (v : W32) : exec (.bthResvRequest v) s = .next (s.close (
    if v.setWidth 16 = 0 then ((s.resvAsked v).setResv s.selected none).saysResv .ok
    else if (s.asksFor v).regions = 0 ∨ ((List.range 64).any fun n => bit (s.asksFor v).regions n && !s.reservable n) = true then
      (s.resvAsked v).saysResv .badRegion
    else if 64 ≤ (s.otherResvs s.selected).length ∨
        ¬s.limitsHold s.lnk.agreed.val (s.otherResvs s.selected ++ [s.asksFor v]) = true then
      (s.resvAsked v).saysResv .overReserved
    else ((s.resvAsked v).stepStamp.setResv s.selected (some (s.asksFor v))).saysResv .ok)) := by
  have h17 : bit (v ||| 0x20000) 17 = true := by simp [bit]
  rw [exec, execBthResvRequest, if_pos ha, State.writeResv, if_pos h17]
  refine congrArg (settled s) ?_
  rw [← s.otherResvs_resvAsked v]
  change (s.resvAsked v).requestResv = _
  unfold State.requestResv
  simp only [show (s.resvAsked v).selected = s.selected from rfl, State.berth_resvAsked, setWidth_resvWritten, bit_resvWritten]
  rfl

end Sys2Proof.Machine
end

section
/-! PROOFS. Berth commands (O57). -/

namespace Sys2Proof.Machine

/-! ### Commands (Table BERTH-5) -/

/-- A command was carried out on berth `b`: OK stands in its window, and the session of no other berth has changed. -/
def State.carriedOut (s u : State) (b : BerthId) : Prop := (u.berth b).win.cmdSt = .ok ∧ s.othersKeep u b

theorem State.carriedOut_of_sessions {s t : State} (h : t.sessions = s.sessions) (b : BerthId) :
    s.carriedOut (t.answered b .ok) b :=
  ⟨t.cmdSt_answered b .ok, State.othersKeep_modBerth (State.othersKeep_of_sessions h b) _⟩

/-- A command that changes the selected berth by `f`, and that alone. -/
def State.carriedOutBy (s : State) (op : Nat) (f : Berth → Berth) : State :=
  ((s.commanded op).modBerth s.selected f).answered s.selected .ok

theorem State.carriedOut_carriedOutBy (s : State) (op : Nat) (f : Berth → Berth) :
    s.carriedOut (s.carriedOutBy op f) s.selected :=
  ⟨State.cmdSt_answered _ _ _, State.othersKeep_modBerth (State.othersKeep_modBerth
    (State.othersKeep_of_sessions (s.sessions_commanded op) _) f) _⟩

theorem State.berth_carriedOutBy (s : State) (op : Nat) (f : Berth → Berth) :
    (s.carriedOutBy op f).berth s.selected = (f ((s.berth s.selected).commanded op)).answered .ok := by
  rw [State.carriedOutBy, State.berth_answered, State.berth_modBerth, State.berth_commanded]

/-- A berth as START leaves it (R184). -/
def Berth.started (x : Berth) : Berth :=
  { x with
    pc := 0, v := Vector.replicate 16 0, z := false, n := false, c := false, e := false, stack := [], inbox := []
    lastStat := .ok, state := .ready }

theorem Berth.reg_started (x : Berth) (i : Nat) : x.started.reg i = 0 := by
  have h : i % 16 < 16 := Nat.mod_lt _ (by decide)
  simp [Berth.reg, Berth.started, Vector.getD, h]

/-- A berth as FREE leaves it: a stream berth with nothing of its own, its session closed (R224). -/
def Berth.freed (x : Berth) : Berth :=
  { x.closeSession with
    state := .empty, kind := false, poolBase := 0, poolUnits := 0, scrBase := 0, scrPages := 0, inbox := [], queue := []
    pc := 0 }

/-- A berth as RESTART leaves it, its session closed (R224). -/
def Berth.restarted (x : Berth) : Berth :=
  { x.closeSession with
    state := if x.kind then .loaded else .empty, queue := if x.kind then x.queue else [], pc := if x.kind then x.pc else 0
    inbox := if x.kind then [] else x.inbox }

section
variable {s : State} (ha : s.alive = true)
include ha

theorem exec_alloc_of_room {p g : Nat} (hx : (s.berth s.selected).state = .unallocated) (h0 : (s.berth s.selected).win.units ≠ 0)
    (h1 : (s.berth s.selected).win.units ≤ 1024) (h2 : (s.berth s.selected).win.pages ≤ 64)
    (hp : firstFit s.unitFree (s.berth s.selected).win.units 1024 = some p)
    (hg : (if (s.berth s.selected).win.pages = 0 then some 0 else firstFit s.pageFree (s.berth s.selected).win.pages 64) = some g) :
    ∃ x, exec .alloc s = .next (s.close ((s.zeroed p (s.berth s.selected).win.units g (s.berth s.selected).win.pages
      (s.berth s.selected).scolour x).carriedOutBy 1 fun x => x.allocated p g)) := by
  have hb := s.berth_commanded 1
  obtain ⟨x, hx'⟩ := State.allocBerth_of_room (s := s.commanded 1) (b := s.selected) (p := p) (g := g) (by rw [hb]; exact h0)
    (by rw [hb]; exact h1) (by rw [hb]; exact h2) (by rw [hb, State.unitFree_commanded]; exact hp)
    (by rw [hb, State.pageFree_commanded]; exact hg)
  rw [hb] at hx'
  refine ⟨x, (berthRow_of_from ha (by decide) (by decide) (by simp [commandFrom, hx])).trans ?_⟩
  rw [State.commandEffect, hx']
  rfl

theorem exec_load_of_loaded (h : (s.berth s.selected).state = .loaded ∨
    (s.berth s.selected).state = .stopped ∧ (s.berth s.selected).kind = true) :
    exec .load s = .next (s.close (s.carriedOutBy 2 fun x => { x with state := .loading, loadPtr := 0 })) :=
  berthRow_of_from ha (by decide) (by decide) (by simpa [commandFrom] using h)

theorem exec_start_of_free (hx : (s.berth s.selected).state = .loading ∨ (s.berth s.selected).state = .loaded)
    (hk : (s.berth s.selected).kind = true) (hq : s.quiesces s.selected = false) :
    exec .start s = .next (s.close (s.carriedOutBy 3 Berth.started)) := by
  refine (berthRow_of_from ha (by decide) (by decide) (by simpa [commandFrom] using hx)).trans ?_
  rw [State.commandEffect, State.startBerth, State.rest_of_resident ?_ (by exact hq), State.modBerth_modBerth]
  · rfl
  · rw [State.berth_modBerth, s.berth_commanded]
    exact hk

theorem exec_stop_of_going (h1 : (s.berth s.selected).state ≠ .empty) (h2 : (s.berth s.selected).state ≠ .unallocated)
    (h3 : (s.berth s.selected).state ≠ .stopped) :
    exec .stop s = .next (s.close (((s.commanded 4).stopCommand s.selected).answered s.selected .ok)) :=
  berthRow_of_from ha (by decide) (by decide) (by simp [commandFrom, h1, h2, h3])

/-- STOP marks an instruction in progress that can no longer be taken back (log 63). -/
theorem exec_stop_of_rests (h1 : (s.berth s.selected).state ≠ .empty) (h2 : (s.berth s.selected).state ≠ .unallocated)
    (h3 : (s.berth s.selected).state ≠ .stopped) {c : Cur} (hc : (s.berth s.selected).cur = some c)
    (ht : s.takesBack s.selected c = false) :
    exec .stop s = .next (s.close (s.carriedOutBy 4 fun x => { x with stopDue := true })) := by
  rw [exec_stop_of_going ha h1 h2 h3, State.stopCommand_of_rests (s := s.commanded 4) (by rw [s.berth_commanded]; exact hc) ht]
  rfl

theorem exec_free_of_idle (h : (s.berth s.selected).state = .unallocated ∨ (s.berth s.selected).state = .loading ∨
    (s.berth s.selected).state = .loaded ∨ (s.berth s.selected).state = .stopped ∧ (s.berth s.selected).kind = true) :
    exec .free s = .next (s.close (s.carriedOutBy 5 Berth.freed)) :=
  berthRow_of_from ha (by decide) (by decide) (by simpa [commandFrom, or_assoc] using h)

theorem exec_restart_of_stopped (h : (s.berth s.selected).state = .stopped) :
    exec .restart s = .next (s.close (s.carriedOutBy 6 Berth.restarted)) :=
  berthRow_of_from ha (by decide) (by decide) (by simp [commandFrom, h])

theorem exec_alloc_of_ready (h : (s.berth s.selected).state = .ready) :
    exec .alloc s = .next (s.close ((s.commanded 1).answered s.selected .wrongState)) :=
  berthRow_of_wrongState ha (by decide) (by decide) (by simp [commandFrom, h])

/-! ### BTH_CFG (R149) -/

/-- A berth that takes BTH_CFG before it has words or a queue. -/
def Berth.configured (x : Berth) (v : W32) : Berth :=
  { x with
    kind := bit v 0, stopErr := bit v 1, rcomp := bit v 2, scolour := v.extractLsb' 4 4
    state := if bit v 0 then .unallocated else .empty }

theorem exec_bthCfgWrite_of_open {v : W32} (hx : (s.berth s.selected).state = .empty ∨ (s.berth s.selected).state = .unallocated)
    (hc : bit (s.berth 0).session.set (v.extractLsb' 4 4).toNat = true) :
    exec (.bthCfgWrite v) s = .next (s.close (s.modBerth s.selected fun x => x.configured v)) := by
  have ho : ((s.berth s.selected).state == .empty || (s.berth s.selected).state == .unallocated) = true := by simpa using hx
  rw [exec, execBthCfgWrite, if_pos ha]
  refine congrArg (settled s) ?_
  simp only [State.writeBthCfg, ho, hc, Bool.true_or, Bool.not_true, Bool.and_false, Bool.or_self, Bool.false_eq_true, if_false,
    if_true]
  rfl

/-- A colour that is not in the session of berth 0 changes nothing (R225, R234). -/
theorem exec_bthCfgWrite_of_closed {v : W32} (hc : bit (s.berth 0).session.set (v.extractLsb' 4 4).toNat = false) :
    exec (.bthCfgWrite v) s = .next (s.close s) := by
  rw [exec, execBthCfgWrite, if_pos ha]
  refine congrArg (settled s) ?_
  simp only [State.writeBthCfg, hc, Bool.not_false, if_true]
  split_ifs <;> rfl

theorem exec_bthCfgWrite_of_ready (v : W32) (hx : (s.berth s.selected).state = .ready) :
    exec (.bthCfgWrite v) s = .next (s.close s) := by
  rw [exec, execBthCfgWrite, if_pos ha]
  refine congrArg (settled s) ?_
  simp [State.writeBthCfg, hx]

end

theorem toNat_extractLsb' (v : W32) (lo n : Nat) : (v.extractLsb' lo n).toNat = bits v lo n := BitVec.extractLsb'_toNat _ _ _

/-- Settles O57: each command that its berth's state allows does what its named operation does, and a request is answered by its
first failing check. -/
theorem berthCommands : Obligations.BerthCommands := by
  unfold Obligations.BerthCommands
  refine ⟨fun s ha => ?_, fun s ha => ?_⟩
  · refine ⟨fun p g hx h0 h1 h2 hp hg => ?_, fun hx => ?_, fun hx hk hq => ?_, fun h1 h2 h3 hc => ?_,
      fun c hc h1 h2 h3 ht => ?_, fun hx => ?_, fun hx => ?_, fun hx => ?_⟩
    · obtain ⟨y, hy⟩ := exec_alloc_of_room ha hx h0 h1 h2 hp hg
      have hb := State.berth_carriedOutBy (s.zeroed p (s.berth s.selected).win.units g (s.berth s.selected).win.pages
        (s.berth s.selected).scolour y) 1 fun x => x.allocated p g
      refine ⟨_, hy, State.carriedOut_carriedOutBy (s.zeroed _ _ _ _ _ _) 1 _, congrArg Berth.state hb,
        congrArg Berth.poolBase hb, congrArg Berth.poolUnits hb, congrArg Berth.scrBase hb, congrArg Berth.scrPages hb,
        congrArg Berth.loadPtr hb, rfl, rfl, fun i => ?_⟩
      exact Vector.getElem_ofFn i.isLt
    · have hb := s.berth_carriedOutBy 2 fun x => { x with state := .loading, loadPtr := 0 }
      exact ⟨_, exec_load_of_loaded ha hx, s.carriedOut_carriedOutBy 2 _, congrArg Berth.state hb, congrArg Berth.loadPtr hb, rfl⟩
    · have hb := s.berth_carriedOutBy 3 Berth.started
      exact ⟨_, exec_start_of_free ha hx hk hq, s.carriedOut_carriedOutBy 3 _, congrArg Berth.state hb, congrArg Berth.pc hb,
        fun i => (congrArg (fun x : Berth => x.reg i) hb).trans (Berth.reg_started ((s.berth s.selected).commanded 3) i),
        congrArg Berth.stack hb, congrArg Berth.inbox hb, congrArg Berth.e hb, congrArg Berth.lastStat hb⟩
    · obtain ⟨hst, hcur⟩ := State.berth_stopCommand (s := s.commanded 4) (b := s.selected) (by
        rw [s.berth_commanded]
        exact hc)
      have hb := State.berth_answered ((s.commanded 4).stopCommand s.selected) s.selected .ok
      exact ⟨_, exec_stop_of_going ha h1 h2 h3,
        State.carriedOut_of_sessions ((State.sessions_stopCommand _ _).trans (s.sessions_commanded 4)) _,
        (congrArg Berth.state hb).trans hst, (congrArg Berth.cur hb).trans hcur⟩
    · have hb := s.berth_carriedOutBy 4 fun x => { x with stopDue := true }
      exact ⟨_, exec_stop_of_rests ha h1 h2 h3 hc ht, s.carriedOut_carriedOutBy 4 _, congrArg Berth.stopDue hb,
        (congrArg Berth.cur hb).trans hc, (congrArg Berth.state hb :)⟩
    · have hb := s.berth_carriedOutBy 5 Berth.freed
      exact ⟨_, exec_free_of_idle ha hx, s.carriedOut_carriedOutBy 5 _, congrArg Berth.state hb, congrArg Berth.kind hb,
        congrArg Berth.poolUnits hb, congrArg Berth.scrPages hb, congrArg (fun x : Berth => x.session.set) hb⟩
    · have hb := s.berth_carriedOutBy 6 Berth.restarted
      exact ⟨_, exec_restart_of_stopped ha hx, s.carriedOut_carriedOutBy 6 _, congrArg (fun x : Berth => x.session.set) hb,
        congrArg Berth.state hb⟩
    · refine ⟨_, exec_alloc_of_ready ha hx, State.cmdSt_answered _ _ _, ?_, rfl⟩
      rw [State.berth_answered, State.berth_commanded]
      exact hx
  · refine ⟨fun v hx hc => ?_, fun v hc => exec_bthCfgWrite_of_closed ha (by rwa [toNat_extractLsb']),
      fun v hx => exec_bthCfgWrite_of_ready ha v hx, fun v h0 => ?_, fun v h0 hr => ?_, fun v h0 hr hn => ?_, ?_⟩
    · have hb := s.berth_modBerth s.selected fun x => x.configured v
      exact ⟨_, exec_bthCfgWrite_of_open ha hx (by rwa [toNat_extractLsb']), congrArg Berth.kind hb, congrArg Berth.stopErr hb,
        congrArg Berth.rcomp hb, (congrArg (fun x : Berth => x.scolour.toNat) hb).trans (toNat_extractLsb' v 4 4),
        congrArg Berth.state hb⟩
    · rw [exec_bthResvRequest ha, if_pos ((setWidth_eq_zero_iff v 16).2 h0)]
      exact ⟨_, rfl, State.resv_setResv _ _ _ _, rfl⟩
    · rw [exec_bthResvRequest ha, if_neg (mt (setWidth_eq_zero_iff v 16).1 h0), if_pos (.inl hr)]
      exact ⟨_, rfl, s.resv_resvAsked v _, rfl⟩
    · have hnamed : ¬((s.asksFor v).regions = 0 ∨
          ((List.range 64).any fun n => bit (s.asksFor v).regions n && !s.reservable n) = true) := by
        refine not_or.2 ⟨hr, ?_⟩
        simpa [State.asksFor] using hn
      rw [exec_bthResvRequest ha, if_neg (mt (setWidth_eq_zero_iff v 16).1 h0), if_neg hnamed]
      refine ⟨_, rfl, fun ⟨hl, hh⟩ => ?_, fun ho => ?_⟩
      · have hfits : ¬(64 ≤ (s.otherResvs s.selected).length ∨
            ¬s.limitsHold s.lnk.agreed.val (s.otherResvs s.selected ++ [s.asksFor v]) = true) :=
          not_or.2 ⟨hl.not_ge, not_not.2 hh⟩
        rw [if_neg hfits]
        exact ⟨State.resv_setResv _ _ _ _, rfl⟩
      · have hover : 64 ≤ (s.otherResvs s.selected).length ∨
            ¬s.limitsHold s.lnk.agreed.val (s.otherResvs s.selected ++ [s.asksFor v]) = true :=
          ho.imp_right Bool.eq_false_iff.1
        rw [if_pos hover]
        exact ⟨s.resv_resvAsked v _, rfl⟩
    · refine ⟨_, if_pos ha, rfl, fun b => ?_⟩
      simp [State.clearUnrep, State.berth]

end Sys2Proof.Machine
end

section
/-! PROOFS. The results and flags of the arithmetic family (O27). -/

namespace Sys2Proof.Machine

theorem bit_last (v : W64) : bit v 63 = v.msb := rfl

theorem Berth.setFlags_eq (x : Berth) (r : Alu) :
    x.setFlags r = { x with z := r.val == 0, n := r.val.msb, c := r.carry.getD x.c } := by
  rw [Berth.setFlags, bit_last]

theorem aluShl_of_wide {n : Nat} (a : W64) (h : 64 ≤ n) : aluShl a n = ⟨0, some false⟩ := by
  simp [aluShl, h, h.not_gt]

theorem aluShl_of_narrow {n : Nat} (a : W64) (h : ¬64 ≤ n) :
    aluShl a n = ⟨a <<< n, some (decide (0 < n) && a.getLsbD (64 - n))⟩ := by
  simp [aluShl, h, not_le.1 h, bit]

theorem aluShr_of_wide {n : Nat} (a : W64) (h : 64 ≤ n) : aluShr a n = ⟨0, some false⟩ := by
  simp [aluShr, h, h.not_gt]

theorem aluShr_of_narrow {n : Nat} (a : W64) (h : ¬64 ≤ n) :
    aluShr a n = ⟨a >>> n, some (decide (0 < n) && a.getLsbD (n - 1))⟩ := by
  simp [aluShr, h, not_le.1 h, bit]

/-- The outcome of an instruction of the family on the state with its turn taken. -/
def State.arithOut (s : State) (b : BerthId) (q : QInstr) (v : W64) (c : Bool) (w : Bool) : Out :=
  .next ((((s.takeTurn b q).modBerth b fun x => { x with z := v == 0, n := v.msb, c := c }).finish b q .ok 0 none
    (if w then some v else none)).wakeAll 512)

theorem answer_arith (s : State) (b : BerthId) (q : QInstr) (r : Alu) (w : Bool) :
    (.next (((s.takeTurn b q).arith b q r w).wakeAll 512) : Out) =
      s.arithOut b q r.val (r.carry.getD (s.berth b).c) w := by
  simp only [State.arith, State.modBerth, Berth.setFlags_eq, State.arithOut, State.berth_takeTurn]

section
variable {s : State} {b : BerthId} {q : QInstr} (h : s.mayRun b q)
include h

/-- The turn of a two-operand instruction whose fields are right. -/
theorem runTurn_binary {op : Byte} (ho : q.op = op) (hk : knownOp op = true) {w : Bool} (hf : q.bFieldsOk w = true) (e : BExt)
    (f : W64 → W64 → Alu) : (runTurn b op s fun q s => s.binary b q e f w) =
      let r := f ((s.berth b).reg q.srcA) (operandB (s.berth b) q e)
      s.arithOut b q r.val (r.carry.getD (s.berth b).c) w := by
  subst ho
  rw [runTurn_of_mayRun h hk, State.binary, State.checked_of_ok hf, answer_arith]
  rfl

/-- The turn of a shift whose fields are right. -/
theorem runTurn_shift {op : Byte} (ho : q.op = op) (hk : knownOp op = true) (hf : q.bFieldsOk true = true) (f : W64 → Nat → Alu) :
    (runTurn b op s fun q s => s.shift b q f) =
      let r := f ((s.berth b).reg q.srcA) (shiftCount (s.berth b) q)
      s.arithOut b q r.val (r.carry.getD (s.berth b).c) true := by
  subst ho
  rw [runTurn_of_mayRun h hk, State.shift, State.checked_of_ok hf, answer_arith]
  rfl

theorem exec_ldi_of_mayRun (ho : q.op = 0x10) (hm : q.mode ≤ 2)
    (hf : q.only [fDst, fSrcB, (0, if q.mode = 2 then 24 else 40)] = true) :
    exec (.ldi b) s = s.arithOut b q (ldiValue (s.berth b) q) (s.berth b).c true := by
  have hk : knownOp q.op = true := by rw [ho]; rfl
  rw [exec, execLdi, ← ho, runTurn_of_mayRun h hk, State.checked_of_ok (by simp [hm, hf]), answer_arith]
  rfl

theorem exec_mov_of_mayRun (ho : q.op = 0x11) (hf : q.only [fDst, fSrcA] = true) :
    exec (.mov b) s = s.arithOut b q ((s.berth b).reg q.srcA) (s.berth b).c true := by
  rw [exec, execMov, runTurn_checked h ho rfl hf fun q s => s.arith b q (aluMove ((s.berth b).reg q.srcA)) true, answer_arith]
  rfl

theorem exec_shl_of_mayRun (ho : q.op = 0x17) (hf : q.bFieldsOk true = true) :
    exec (.shl b) s =
      let a := (s.berth b).reg q.srcA
      let n := shiftCount (s.berth b) q
      if 64 ≤ n then s.arithOut b q 0 false true
      else s.arithOut b q (a <<< n) (decide (0 < n) && a.getLsbD (64 - n)) true := by
  rw [exec, execShl, runTurn_shift h ho rfl hf]
  dsimp only
  split_ifs with hn
  · rw [aluShl_of_wide _ hn]
    rfl
  · rw [aluShl_of_narrow _ hn]
    rfl

theorem exec_shr_of_mayRun (ho : q.op = 0x18) (hf : q.bFieldsOk true = true) :
    exec (.shr b) s =
      let a := (s.berth b).reg q.srcA
      let n := shiftCount (s.berth b) q
      if 64 ≤ n then s.arithOut b q 0 false true
      else s.arithOut b q (a >>> n) (decide (0 < n) && a.getLsbD (n - 1)) true := by
  rw [exec, execShr, runTurn_shift h ho rfl hf]
  dsimp only
  split_ifs with hn
  · rw [aluShr_of_wide _ hn]
    rfl
  · rw [aluShr_of_narrow _ hn]
    rfl

end

theorem ldiValue_of_le {q : QInstr} (x : Berth) (h : q.mode ≤ 1) : ldiValue x q =
    if q.mode = 0 then (q.word.setWidth 40).setWidth 64 else (q.word.setWidth 40).signExtend 64 := by
  obtain h0 | h1 : q.mode = 0 ∨ q.mode = 1 := by omega
  · simp [ldiValue, h0]
  · simp [ldiValue, h1]

/-- Settles O27: an instruction of the family ends with the flags of what its unit yields, and that is the result named. -/
theorem arithmeticResults : Obligations.ArithmeticResults := by
  unfold Obligations.ArithmeticResults
  refine ⟨fun s b q h => ⟨fun hf => ⟨fun ho => ?_, fun ho => ?_, fun ho => ?_, fun ho => ?_, fun ho => ?_⟩, fun hf ho => ?_⟩,
    fun s b q h => ⟨fun ho hm hf => ?_, fun ho hm hf => ?_, exec_mov_of_mayRun h, exec_shl_of_mayRun h, exec_shr_of_mayRun h⟩⟩
  · exact runTurn_binary h ho rfl hf .signed aluAdd
  · exact runTurn_binary h ho rfl hf .signed aluSub
  · exact runTurn_binary h ho rfl hf .zero fun x y => aluLogic (x &&& y)
  · exact runTurn_binary h ho rfl hf .zero fun x y => aluLogic (x ||| y)
  · exact runTurn_binary h ho rfl hf .zero fun x y => aluLogic (x ^^^ y)
  · exact runTurn_binary h ho rfl hf .signed aluSub
  · have h2 : q.mode ≠ 2 := by omega
    rw [exec_ldi_of_mayRun h ho (by omega) (by rwa [if_neg h2]), ldiValue_of_le _ hm]
    rfl
  · rw [exec_ldi_of_mayRun h ho hm.le (by rwa [if_pos hm]), ldiValue, hm]
    rfl

end Sys2Proof.Machine
end

section
/-! PROOFS. SIGNAL (O58). -/

namespace Sys2Proof.Machine

/-- An event stands in every berth's pending set (R163). -/
theorem State.pend_raiseEvent (s : State) {code : Nat} (hc : code < 16) (arg : W32) (src : Option BerthId) (b : BerthId) :
    bit ((s.raiseEvent code arg src).berth b).pend code = true := by
  obtain ⟨w, n, l, h⟩ := s.raiseEvent_spec code arg src
  have hp : ((s.raiseEvent code arg src).berth b).pend = setBit (s.berth b).pend code := by
    rw [h]
    simp [State.berth, Berth.pendEvent, setBit, Nat.shiftLeft_eq]
  rw [hp]
  exact bit_setBit hc _

/-- In narrow mode the parcel of a berth event waits in the queue for GET (R83, R163). -/
theorem State.nar_raiseEvent_of_narrow {s : State} (h : s.lnk.mode = .narrow) (code : Nat) (arg : W32) (b : BerthId) :
    (s.raiseEvent code arg (some b)).nar.up = s.nar.up ++ [⟨BitVec.ofNat 16 b.val, 0,
      .event { code := BitVec.ofNat 8 code, arg := arg, time := s.elapse.now, qual := s.elapse.tim.qual }⟩] := by
  unfold State.raiseEvent
  rw [if_pos (by rfl), State.sendUp_of_narrow (by exact h)]
  rfl

/-- Settles O58: the event of SIGNAL goes up with its berth's number, and every berth's pending set takes it. -/
theorem signalReachesAll : Obligations.SignalReachesAll := by
  unfold Obligations.SignalReachesAll
  intro s b q h _ ho hf hn
  exact ⟨_, _, exec_signal_of_mayRun h ho hf, State.nar_raiseEvent_of_narrow hn 1 _ b, rfl,
    State.pend_raiseEvent _ (by decide) _ _⟩

end Sys2Proof.Machine
end

section
/-! SUPPORT. The turn of an instruction whose effects may end any wait, and what the end of an instruction leaves in its berth
whether the berth goes on or stops (R150, R151, R157, R176). -/

namespace Sys2Proof.Machine

/-! ### The turn -/

section
variable {s : State} {b : BerthId} {q : QInstr} (h : s.mayRun b q)
include h

/-- The turn of an instruction with a known opcode runs its body on the state with the turn taken. -/
theorem turn_of_op {op : Byte} (ho : q.op = op) (hk : knownOp op = true) (body : QInstr → State → State) :
    turn b op s body = .next (s.close (body q (s.takeTurn b q))) := by
  subst ho
  exact turn_of_mayRun h hk body

/-- The turn of an instruction whose fields are checked, and are right. -/
theorem turn_checked {op : Byte} (ho : q.op = op) (hk : knownOp op = true) {ok : QInstr → State → Bool}
    (hf : ok q (s.takeTurn b q) = true) (body : QInstr → State → State) :
    (turn b op s fun q s => s.checked b q (ok q s) (body q)) = .next (s.close (body q (s.takeTurn b q))) := by
  rw [turn_of_op h ho hk, State.checked_of_ok hf]

end

/-! ### The end of an instruction -/

/-- What an instruction leaves for its program to see: the registers, LASTSTAT and the session. -/
def Berth.results (x : Berth) : Vector W64 16 × Status × Session := (x.v, x.lastStat, x.session)

theorem Berth.results_of_movedTo {x y : Berth} (h : x.movedTo y) : y.results = x.results := by
  rw [h]
  rfl

theorem Berth.cur_of_movedTo {x y : Berth} (h : x.movedTo y) : y.cur = x.cur := by rw [h]

theorem State.results_of_movesOn {s t : State} {b : BerthId} (h : s.movesOn t b) :
    (t.berth b).results = (s.berth b).results := Berth.results_of_movedTo h.2

@[simp] theorem State.results_sendCompletion (s : State) (b : BerthId) (tag : W16) (op : Byte) (st : Status) (done : Nat)
    (first : Option Nat) (res : W64) : ((s.sendCompletion b tag op st done first res).berth b).results = (s.berth b).results :=
  State.results_of_movesOn (s.movesOn_sendCompletion b tag op st done first res)

@[simp] theorem State.results_flushQueue (s : State) (b : BerthId) (l : List QInstr) :
    ((s.flushQueue b l).berth b).results = (s.berth b).results := by
  induction l generalizing s with
  | nil => rfl
  | cons q r ih =>
    rw [State.flushQueue, ih, State.results_sendCompletion, State.berth_modBerth]
    rfl

@[simp] theorem State.results_raiseEvent (s : State) (code : Nat) (arg : W32) (src : Option BerthId) (b : BerthId) :
    ((s.raiseEvent code arg src).berth b).results = (s.berth b).results := by
  obtain ⟨w, n, l, h⟩ := s.raiseEvent_spec code arg src
  rw [h]
  simp [State.berth, Berth.results, Berth.pendEvent]

/-- A berth that stops keeps its registers, LASTSTAT and session. -/
@[simp] theorem State.results_stopBerth (s : State) (b : BerthId) (st : Status) :
    ((s.stopBerth b st).berth b).results = (s.berth b).results := by
  have hs : ((s.modBerth b fun x => { x with state := .stopped, why := .none, cur := none, stopDue := false }).berth b).results =
      (s.berth b).results := by
    rw [State.berth_modBerth]
    rfl
  unfold State.stopBerth
  rw [State.results_of_movesOn (State.movesOn_dropChunks _ b _)]
  split_ifs
  · exact hs
  · rw [State.results_raiseEvent, State.results_flushQueue, hs]

@[simp] theorem State.results_stopHere (s : State) (b : BerthId) : ((s.stopHere b).berth b).results = (s.berth b).results := by
  simp only [State.stopHere, State.results_stopBerth]
  split_ifs
  · rw [State.results_sendCompletion, State.berth_modBerth]
    rfl
  · rfl

/-- An instruction's end leaves its berth's registers, LASTSTAT and session as the instruction left them. -/
theorem State.results_finishAt (s : State) (b : BerthId) (q : QInstr) (st : Status) (done : Nat) (first : Option Nat)
    (res : Option W64) (pc : Nat) : ((s.finishAt b q st done first res pc).berth b).results =
      ((s.berth b).passed q st res pc).results := by
  have hm := Berth.results_of_movedTo (s.movedTo_reportsEnd b q st done first res pc (s.berth b).tookLast)
  rw [State.finishAt_eq, State.concludes, ← State.reportsEnd]
  generalize (s.leaves b q st res pc (s.berth b).tookLast).reportsEnd b q st done first res = u at *
  refine Eq.trans ?_ hm
  split_ifs
  · exact u.results_stopBerth b st
  · rw [State.results_stopBerth, State.results_sendCompletion, State.berth_modBerth]
    rfl
  · exact u.results_stopHere b
  · exact State.results_of_movesOn (u.movesOn_rest b)

theorem State.cur_stopHere (s : State) (b : BerthId) : ((s.stopHere b).berth b).cur = none := State.cur_stopBerth _ _ _

/-- An instruction that has ended is no longer in progress. -/
theorem State.cur_finishAt (s : State) (b : BerthId) (q : QInstr) (st : Status) (done : Nat) (first : Option Nat)
    (res : Option W64) (pc : Nat) : ((s.finishAt b q st done first res pc).berth b).cur = none := by
  have hm := Berth.cur_of_movedTo (s.movedTo_reportsEnd b q st done first res pc (s.berth b).tookLast)
  rw [State.finishAt_eq, State.concludes, ← State.reportsEnd]
  generalize (s.leaves b q st res pc (s.berth b).tookLast).reportsEnd b q st done first res = u at *
  split_ifs
  · exact u.cur_stopBerth b st
  · exact State.cur_stopBerth _ b _
  · exact u.cur_stopHere b
  · exact (Berth.cur_of_movedTo (u.movesOn_rest b).2).trans hm

theorem State.cur_finish (s : State) (b : BerthId) (q : QInstr) (st : Status) (done : Nat) (first : Option Nat)
    (res : Option W64) : ((s.finish b q st done first res).berth b).cur = none := s.cur_finishAt b q st done first res _

/-- LASTSTAT takes the status of every instruction outside the control and arithmetic families (R184). -/
theorem State.lastStat_finish (s : State) (b : BerthId) {q : QInstr} (hq : setsLastStat q.op = true) (st : Status) (done : Nat)
    (first : Option Nat) (res : Option W64) : ((s.finish b q st done first res).berth b).lastStat = st :=
  (congrArg (fun p => p.2.1) (s.results_finishAt b q st done first res _)).trans (if_pos hq)

theorem State.session_finish (s : State) (b : BerthId) (q : QInstr) (st : Status) (done : Nat) (first : Option Nat)
    (res : Option W64) : ((s.finish b q st done first res).berth b).session = (s.berth b).session :=
  congrArg (fun p => p.2.2) (s.results_finishAt b q st done first res _)

/-- The result stands in V[DST]. -/
theorem Berth.reg_passed (x : Berth) (q : QInstr) (st : Status) (r : W64) (pc : Nat) :
    (x.passed q st (some r) pc).reg q.dst = r := by
  have hd : q.dst < 16 := Nat.mod_lt _ (by decide)
  have hs : (x.v.setIfInBounds q.dst r)[q.dst] = r := Vector.getElem_setIfInBounds_self hd
  rw [Berth.reg, Nat.mod_eq_of_lt hd, Vector.getD, Array.getD, dif_pos (by simpa using hd)]
  exact hs

theorem State.reg_finish (s : State) (b : BerthId) (q : QInstr) (st : Status) (done : Nat) (first : Option Nat) (r : W64) :
    ((s.finish b q st done first (some r)).berth b).reg q.dst = r :=
  (Berth.reg_of_v (congrArg Prod.fst (s.results_finishAt b q st done first (some r) _)) q.dst).trans
    (Berth.reg_passed _ q st r _)

end Sys2Proof.Machine
end

section
/-! PROOFS. CTRREAD, TIMERD, ALARM, LDC and STC (O29, O36). -/

namespace Sys2Proof.Machine

/-! ### Counters and time (R205, R206) -/

theorem Berth.setFlags_move (x : Berth) (v : W64) : x.setFlags (aluMove v) = { x with z := v == 0, n := v.msb } := by
  rw [Berth.setFlags_eq]
  rfl

section
variable {s : State} {b : BerthId} {q : QInstr} (h : s.mayRun b q)
include h

theorem exec_ctrread_of_mayRun (ho : q.op = 0x49) (hf : q.only [fDst, (0, 5)] = true) {v : W64}
    (hfence : bit (s.takeTurn b q).ctr.fence q.counter = false)
    (hv : ((s.takeTurn b q).counter q.counter).value = some v)
    (ha : badPair ((s.takeTurn b q).counter q.counter).a = false)
    (hb : badPair ((s.takeTurn b q).counter q.counter).b = false) :
    exec (.ctrread b) s = .next (s.close (((s.takeTurn b q).modBerth b fun x => { x with z := v == 0, n := v.msb }).finish b q .ok
      0 none (some v))) := by
  have hc : (s.takeTurn b q).ctrFenced q.counter = false := by rw [State.ctrFenced, hfence, hv]; rfl
  refine (turn_of_op h ho rfl fun q s => s.ctrreadBody b q).trans ?_
  rw [State.ctrreadBody, State.checked_of_ok hf, State.checkCounter_of_good hv ha hb]
  simp only [hv, hc, Bool.false_eq_true, if_false, Berth.setFlags_move]

theorem exec_timerd_of_mayRun (ho : q.op = 0x50) (hf : q.only [fDst, fSrcA] = true) :
    let t := (s.takeTurn b q).elapse
    exec (.timerd b) s = .next (s.close ((t.modBerth b fun x => { x with
        z := t.tim.counter == 0, n := t.tim.counter.msb, v := x.v.setIfInBounds q.srcA (t.tim.qual.setWidth 64) }).finish
          b q .ok 0 none (some t.tim.counter))) := by
  refine (turn_of_op h ho rfl fun q s => s.timerdBody b q).trans ?_
  rw [State.timerdBody, State.checked_of_ok hf]
  simp only [Berth.setFlags_move, State.now]

theorem exec_alarm_of_mayRun (ho : q.op = 0x51) (hf : q.only [fSrcA] = true) :
    exec (.alarm b) s = .next (s.close (((s.takeTurn b q).armAlarm ((s.berth b).reg q.srcA)).finish b q .ok)) :=
  turn_checked h ho rfl hf fun q s => (s.armAlarm ((s.berth b).reg q.srcA)).finish b q .ok

end

/-- Settles O36: a counter that holds is read as it stands, the time is observed first, and the alarm takes the register. -/
theorem figuresComplete : Obligations.FiguresComplete := by
  unfold Obligations.FiguresComplete
  intro s b q h
  refine ⟨fun v ho hf hfence hv ha hb => exec_ctrread_of_mayRun h ho hf hfence hv ha hb, exec_timerd_of_mayRun h, fun ho hf => ?_⟩
  exact ⟨_, exec_alarm_of_mayRun h ho hf, rfl, Bool.eq_iff_iff.2 (bne_iff_ne.trans decide_eq_true_iff.symm), rfl⟩

/-! ### Control space (R189, R211) -/

section
variable {s : State} {b : BerthId} {q : QInstr} (h : s.mayRun b q)
include h

theorem exec_ldc_of_aligned (ho : q.op = 0x1A) (hf : q.only [fDst, (0, 16)] = true) (hi : q.imm 0 2 = 0) :
    let r := (s.takeTurn b q).ctlRead (some b) (q.imm 0 16)
    let v : W64 := r.1.setWidth 64
    exec (.ldc b) s = .next (s.close
      ((r.2.modBerth b fun x => { x with z := v == 0, n := v.msb }).finish b q .ok 0 none (some v))) := by
  refine (turn_of_op h ho rfl fun q s => s.ldcBody b q).trans ?_
  rw [State.ldcBody, State.checked_of_ok (by simp [hf, hi])]
  simp only [State.arith, Berth.setFlags_move]
  rfl

theorem exec_ldc_of_unaligned (ho : q.op = 0x1A) (hi : q.imm 0 2 ≠ 0) :
    exec (.ldc b) s = .next (s.close ((s.takeTurn b q).finish b q .badField)) := by
  refine (turn_of_op h ho rfl fun q s => s.ldcBody b q).trans ?_
  rw [State.ldcBody, State.checked_of_bad (by simp [hi])]

/-- STC that stops no berth of its own: a register that APPLY alone changes refuses it, any other takes the low half (R15, R211). -/
theorem exec_stc_of_other (ho : q.op = 0x69) (hf : q.only [fSrcA, (0, 16)] = true)
    (hs : s.stopsItself b (q.imm 0 16) (((s.berth b).reg q.srcA).setWidth 32) = false) :
    exec (.stc b) s = .next (s.close (
      let v : W32 := ((s.berth b).reg q.srcA).setWidth 32
      match settingAt (q.imm 0 16) with
      | some x => if ((s.berth b).reg q.srcA).extractLsb' 32 32 = ~~~v then (s.takeTurn b q).finish b q .wrongState
        else (x.mismatch (s.takeTurn b q)).finish b q .badField
      | none => ((s.takeTurn b q).ctlWrite b (q.imm 0 16) v).2.finish b q ((s.takeTurn b q).ctlWrite b (q.imm 0 16) v).1)) := by
  refine (turn_of_op h ho rfl fun q s => s.stcBody b q).trans ?_
  have hs' : (s.takeTurn b q).stopsItself b (q.imm 0 16) ((((s.takeTurn b q).berth b).reg q.srcA).setWidth 32) = false := hs
  rw [State.stcBody, State.checked_of_ok hf]
  simp only [hs', Bool.false_eq_true, if_false]
  rfl

theorem exec_stc_of_own (ho : q.op = 0x69) (hf : q.only [fSrcA, (0, 16)] = true)
    (hs : s.stopsItself b (q.imm 0 16) (((s.berth b).reg q.srcA).setWidth 32) = true) :
    exec (.stc b) s = .next (s.close
      ((((s.takeTurn b q).modWindow fun w => { w with op := 4, cmdSt := .ok }).finish b q .ok).stopCommand b)) := by
  refine (turn_of_op h ho rfl fun q s => s.stcBody b q).trans ?_
  rw [State.stcBody, State.checked_of_ok hf]
  exact congrArg (fun t => Host.Outcome.next (s.close t)) (if_pos hs)

theorem exec_unknownOp_of_mayRun (hk : knownOp q.op = false) :
    exec (.unknownOp b) s = .next (((s.takeTurn b q).finish b q .unknownOp).wakeAll 512) := by
  obtain ⟨ht, hh, hbusy, -, -, hw, -⟩ := h
  have hr : (s.takeTurn b q).readsWhole b q := fun hkind => (hw hkind).1
  have hh' : (s.takeTurn b q).flt.halted = false := hh
  have hb' : (s.takeTurn b q).refusesBusy b = false := hbusy
  rw [exec, execUnknownOp, ht]
  simp only [hk, State.begin_of_readsWhole hr, hh', hb', Bool.not_false, Bool.false_eq_true, if_false, if_true, answer]

end

/-- Settles O29: each case of LDC and STC is a branch of its meaning, and an STC that stops its own berth has ended by the time
the STOP comes, so that nothing is in progress. -/
theorem controlSpaceInstructions : Obligations.ControlSpaceInstructions := by
  unfold Obligations.ControlSpaceInstructions
  intro s b q h
  refine ⟨exec_ldc_of_aligned h, fun ho _ hi => exec_ldc_of_unaligned h ho hi, fun ho hf hs => ⟨fun hn => ?_, fun x hx hc => ?_,
    fun x hx hc => ?_⟩, fun ho hf hs => ⟨_, exec_stc_of_own h ho hf hs, ?_⟩, exec_unknownOp_of_mayRun h⟩
  · rw [exec_stc_of_other h ho hf hs, hn]
  · rw [exec_stc_of_other h ho hf hs, hx]
    exact congrArg (fun t => Host.Outcome.next (s.close t)) (if_pos hc)
  · rw [exec_stc_of_other h ho hf hs, hx]
    exact congrArg (fun t => Host.Outcome.next (s.close t)) (if_neg hc)
  · exact (State.berth_stopCommand fun c hc => by rw [State.cur_finish] at hc; cases hc).1

end Sys2Proof.Machine
end

section
/-! SUPPORT. What an instruction passes on its way to the ledger, and how it waits for its durability (R181, R357, R390, R421). -/

namespace Sys2Proof.Machine

/-! ### Checks that are passed -/

theorem State.coloured_of_has {s : State} {b : BerthId} {cs : List Nat} (h : cs.all (s.berth b).has = true) (q : QInstr)
    (body : State → State) : s.coloured b q cs body = body s := by
  have hm : (cs.dedup.filter fun c => !(s.berth b).has c) = [] := by
    rw [List.filter_eq_nil_iff]
    intro c hc
    simp [List.all_eq_true.1 h c (List.mem_dedup.1 hc)]
  simp only [State.coloured, hm, List.length_nil, if_true]

theorem State.coloured_of_has_one {s : State} {b : BerthId} {c : Nat} (h : (s.berth b).has c = true) (q : QInstr)
    (body : State → State) : s.coloured b q [c] body = body s := State.coloured_of_has (by simp [h]) q body

theorem State.onFlash_of_ready {s : State} (h : s.flashReady) (b : BerthId) (q : QInstr) (body : State → State) :
    s.onFlash b q body = body s := by
  simp [State.onFlash, h.1, h.2]

theorem State.onRecords_of_ready {s : State} (h : s.recordsReady) (b : BerthId) (q : QInstr) (body : State → State) :
    s.onRecords b q body = body s := by
  simp [State.onRecords, h.1, h.2]

/-! ### The ledger -/

/-- An item of instruction `c` is admitted: it is in progress, and the ledger holds its cost (R357). -/
def State.charged (s : State) (b : BerthId) (c : Cur) (k : ItemKind) (cost : Nat) : State :=
  { s with hup := s.hup.take k cost }.withCur b c

@[simp] theorem State.berth_charged (s : State) (b : BerthId) (c : Cur) (k : ItemKind) (cost : Nat) :
    (s.charged b c k cost).berth b = { s.berth b with cur := some c } := State.berth_withCur _ b c

theorem State.mem_berths_withCur {s : State} {b : BerthId} {c : Cur} {x : Berth} (h : x ∈ (s.withCur b c).berths.toList) :
    x ∈ s.berths.toList ∨ x.cur = some c := by
  rw [State.withCur, State.modBerth, State.setBerth, Vector.toList_set] at h
  exact (List.mem_or_eq_of_mem_set h).imp_right fun hx => by rw [hx]

theorem State.askCommit_of_admitted {s : State} (h : s.hup.answerItem commitCost = .admitted) (b : BerthId) (c : Cur)
    (go : Bool → State → State) : s.askCommit b c go = go true (s.charged b c .commit commitCost) := by
  have h' : (s.modBerth b fun x => { x with cur := some c }).hup.answerItem commitCost = .admitted := h
  simp only [State.askCommit, h']
  rfl

theorem State.askSeal_of_admitted {s : State} (h : s.hup.answerItem sealCost = .admitted) (b : BerthId) (c : Cur)
    (go : Bool → State → State) : s.askSeal b c go = go true (s.charged b c .sealed sealCost) := by
  have h' : (s.modBerth b fun x => { x with cur := some c }).hup.answerItem sealCost = .admitted := h
  simp only [State.askSeal, h']
  rfl

/-! ### Waiting for durability -/

@[simp] theorem State.berth_untilDurable (s : State) (b : BerthId) (c : Cur) (n : Nat) :
    (s.untilDurable b c n).berth b =
      { s.berth b with state := .waiting, why := .die, cur := some { c with phase := .durable, open_ := n } } :=
  State.berth_modBerth _ _ _

theorem State.waitsDurable_of_berth {s u : State} {b : BerthId} {c : Cur} {n : Nat}
    (hu : u.berth b = (s.untilDurable b c n).berth b) (hc : c.status = .ok) : u.waitsDurable b n c.result := by
  rw [State.waitsDurable, hu, State.berth_untilDurable]
  exact ⟨rfl, _, rfl, rfl, rfl, rfl, hc⟩

theorem State.waitsDurable_untilDurable (s : State) (b : BerthId) {c : Cur} (n : Nat) (hc : c.status = .ok) :
    (s.untilDurable b c n).waitsDurable b n c.result := State.waitsDurable_of_berth rfl hc

end Sys2Proof.Machine
end

section
/-! PROOFS. HOLD, RELEASE, HARVEST and RINGPOS (O33). -/

namespace Sys2Proof.Machine

/-- What an instruction of region `r` of a ring asks of the guard. -/
abbrev ringAsk (r : Nat) : Ask := { region := r, types := [.ring], write := false, start := 0, len := 0, ranged := false }

/-! ### HOLD (R198, R253 to R255) -/

/-- A hold is named, and its change waits for the journal. -/
def State.holdAdded (s : State) (b : BerthId) (h : Hold) : State :=
  { s with holds := s.holds ++ [h], rng := { s.rng with stamp := s.rng.stamp + 1 } }.retag.addChange
    (commitOf (some b) true [] [.hold h.id])

/-- The hold that an admitted HOLD makes. -/
def State.newHold (s : State) (q : QInstr) (r : Nat) (segs : List Nat) : Hold :=
  { id := s.freeHold, region := r, first := (segs.min?).getD 0, segs := segs, colour := q.holdColour, time := 0
    stamp := s.rng.stamp, leaving := false }

theorem State.holdGo_charged {s : State} {b : BerthId} {c : Cur} {segs : List Nat}
    (hs : s.holdSegs c.region (c.ins.modeBit 0) c.start (c.ins.imm 0 32) c.target = some segs)
    (hr : s.holdRefusal c.region segs = none) : (s.charged b c .commit commitCost).holdGo b true =
      ((s.charged b c .commit commitCost).holdAdded b (s.newHold c.ins c.region segs)).untilDurable b
        { c with result := some (BitVec.ofNat 64 s.freeHold) } 1 := by
  have hs' : (s.charged b c .commit commitCost).holdSegs c.region (c.ins.modeBit 0) c.start (c.ins.imm 0 32) c.target = some segs :=
    hs
  have hr' : (s.charged b c .commit commitCost).holdRefusal c.region segs = none := hr
  simp only [State.holdGo, State.berth_charged, hs', hr']
  rfl

/-- A HOLD in progress. -/
def holdCur (q : QInstr) (t : Nat) : Cur :=
  { Cur.init q .ledger with region := bits (q.extWord 0) 0 6, start := bits (q.extWord 0) 8 56, target := t }

theorem State.holdBody_of_named {s : State} {b : BerthId} {q : QInstr} {segs : List Nat}
    (hf : q.only [fDst, fSrcA, (40, 1), fXc, (0, 37)] = true) (hx : q.xc = 1) (hw : bits (q.extWord 0) 6 2 = 0)
    (hm : ¬(q.modeBit 0 = true ∧ (bits (q.extWord 0) 8 56 % segSize ≠ 0 ∨ q.imm 0 32 = 0)))
    (ho : s.opensFor (ringAsk (bits (q.extWord 0) 0 6)))
    (hs : s.holdSegs (bits (q.extWord 0) 0 6) (q.modeBit 0) (bits (q.extWord 0) 8 56) (q.imm 0 32) ((s.berth b).reg q.srcA).toNat =
      some segs)
    (hcol : (((s.region (bits (q.extWord 0) 0 6)).colour :: (q.holdColour.map BitVec.toNat).toList).all (s.berth b).has) = true)
    (hr : s.holdRefusal (bits (q.extWord 0) 0 6) segs = none) (hfl : s.flashReady)
    (ha : s.hup.answerItem commitCost = .admitted) :
    s.holdBody b q = (s.charged b (holdCur q ((s.berth b).reg q.srcA).toNat) .commit commitCost).holdGo b true := by
  rw [not_and_or, not_or, not_ne_iff] at hm
  have hok : (q.only [fDst, fSrcA, (40, 1), fXc, (0, 37)] && q.xc == 1 && bits (q.extWord 0) 6 2 == 0 &&
      !(q.modeBit 0 && bits (q.extWord 0) 8 56 % segSize != 0)) = true := by
    simpa [hf, hx, hw, imp_iff_not_or] using hm.imp_right And.left
  have hn : (q.modeBit 0 && q.imm 0 32 == 0) = false := by
    simpa [imp_iff_not_or] using hm.imp_right And.right
  unfold State.holdBody
  simp only [State.checked_of_ok hok, State.opened_of_opensFor ho, hn, hs, State.coloured_of_has hcol, hr,
    State.onFlash_of_ready hfl, State.askCommit_of_admitted ha, Bool.false_eq_true, if_false]
  rfl

/-! ### RELEASE and HARVEST (R200, R256, R257) -/

theorem State.releaseBody_of_none {s : State} {b : BerthId} {q : QInstr} (h : s.findHold (q.imm 0 8) = none) :
    s.releaseBody b q = s.finish b q .badField := by
  simp only [State.releaseBody, h]

theorem State.harvestBody_of_none {s : State} {b : BerthId} {q : QInstr} (h : s.findHold (q.imm 0 8) = none) :
    s.harvestBody b q = s.finish b q .badField := by
  simp only [State.harvestBody, h]

/-- A RELEASE in progress. -/
def releaseCur (q : QInstr) (r : Nat) : Cur := { Cur.init q .ledger with region := r }

theorem State.releaseGo_charged {s : State} {b : BerthId} {c : Cur} {h : Hold} (hh : s.findHold (c.ins.imm 0 8) = some h) :
    (s.charged b c .commit commitCost).releaseGo b true = (((s.charged b c .commit commitCost).markLeaving
      (c.ins.imm 0 8)).addChange (commitOf (some b) true [] [.release (c.ins.imm 0 8)])).untilDurable b c 1 := by
  have hh' : (s.charged b c .commit commitCost).findHold (c.ins.imm 0 8) = some h := hh
  simp only [State.releaseGo, State.berth_charged, hh']

theorem State.releaseBody_of_found {s : State} {b : BerthId} {q : QInstr} {h : Hold} (hf : q.only [(0, 8)] = true)
    (hh : s.holdsFor b (q.imm 0 8) h) (ho : s.opensFor (ringAsk h.region)) (hfl : s.flashReady)
    (ha : s.hup.answerItem commitCost = .admitted) :
    s.releaseBody b q = (s.charged b (releaseCur q h.region) .commit commitCost).releaseGo b true := by
  simp only [State.releaseBody, hh.1, State.checked_of_ok hf, State.opened_of_opensFor ho, State.coloured_of_has_one hh.2,
    State.onFlash_of_ready hfl, State.askCommit_of_admitted ha]
  rfl

/-- A HARVEST in progress. -/
def harvestCur (q : QInstr) (r new : Nat) : Cur := { Cur.init q .ledger with region := r, region2 := new }

/-- An instruction other than an APPEND awaits no data for a ring (R193). -/
theorem State.appendWaits_charged {s : State} {b : BerthId} {c : Cur} {r : Nat} (hc : c.ins.op ≠ 0x22)
    (h : s.appendWaits r = false) (k : ItemKind) (cost : Nat) : (s.charged b c k cost).appendWaits r = false := by
  unfold State.appendWaits at *
  rw [List.any_eq_false] at *
  intro x hx
  obtain hx | hx := State.mem_berths_withCur hx
  · exact h x hx
  · simp only [hx, beq_eq_false_iff_ne.2 hc, Bool.false_and, Bool.false_eq_true, not_false_eq_true]

theorem State.harvestBlocked_charged {s : State} {b : BerthId} {c : Cur} {h : Hold} (hc : c.ins.op ≠ 0x22)
    (hb : s.harvestBlocked h = false) (k : ItemKind) (cost : Nat) : (s.charged b c k cost).harvestBlocked h = false := by
  rw [State.harvestBlocked, Bool.and_eq_false_iff] at *
  exact hb.imp id fun hw => State.appendWaits_charged hc hw k cost

theorem State.harvestGo_charged {s : State} {b : BerthId} {c : Cur} {h : Hold} (hc : c.ins.op ≠ 0x22)
    (hh : s.findHold (c.ins.imm 0 8) = some h) (ht : s.rtype c.region2 = .undefined) (hi : s.harvestInto c.region2 = false)
    (hb : s.harvestBlocked h = false) : (s.charged b c .commit commitCost).harvestGo b true =
      (((s.charged b c .commit commitCost).markLeaving (c.ins.imm 0 8)).addChange
        (commitOf (some b) true [] [.harvest b (c.ins.imm 0 8) c.region2])).untilDurable b
        { c with result := some (BitVec.ofNat 64 (h.segs.length * segSize)) } 1 := by
  have hh' : (s.charged b c .commit commitCost).findHold (c.ins.imm 0 8) = some h := hh
  have ht' : (s.charged b c .commit commitCost).rtype c.region2 = .undefined := ht
  have hi' : (s.charged b c .commit commitCost).harvestInto c.region2 = false := hi
  simp only [State.harvestGo, State.berth_charged, hh', ht', hi', State.harvestBlocked_charged hc hb, ne_eq, not_true_eq_false,
    Bool.false_eq_true, or_self, if_false]

theorem State.harvestBody_of_found {s : State} {b : BerthId} {q : QInstr} {h : Hold}
    (hf : q.only [fDst, fXc, (0, 8)] = true) (hx : q.xc = 1) (hw : bits (q.extWord 0) 6 58 = 0)
    (hh : s.findHold (q.imm 0 8) = some h) (hg : s.gated (bits (q.extWord 0) 0 6) = false)
    (ht : s.rtype (bits (q.extWord 0) 0 6) = .undefined) (ho : s.opensFor (ringAsk h.region))
    (hcol : (s.harvestColours h).all (s.berth b).has = true) (hb : s.harvestBlocked h = false) (hfl : s.flashReady)
    (ha : s.hup.answerItem commitCost = .admitted) :
    s.harvestBody b q =
      (s.charged b (harvestCur q h.region (bits (q.extWord 0) 0 6)) .commit commitCost).harvestGo b true := by
  have hok : (q.only [fDst, fXc, (0, 8)] && q.xc == 1 && bits (q.extWord 0) 6 58 == 0) = true := by simp [hf, hx, hw]
  simp only [State.harvestBody, hh, State.checked_of_ok hok, hg, ht, State.opened_of_opensFor ho, State.coloured_of_has hcol, hb,
    State.onFlash_of_ready hfl, State.askCommit_of_admitted ha, Bool.false_eq_true, if_false, if_true]
  rfl

/-! ### RINGPOS (R201) -/

section
variable {s : State} {b : BerthId} {q : QInstr} (hf : q.only [fDst, fSrcA, (40, 2), fXc] = true) (hx : q.xc = 1)
  (hw : bits (q.extWord 0) 6 58 = 0) (ho : s.opensFor (ringAsk (bits (q.extWord 0) 0 6)))
include hf hx hw ho

theorem State.ringposBody_of_position {p : Nat}
    (hp : s.ringPosition (bits (q.extWord 0) 0 6) (q.mode % 4) ((s.berth b).reg q.srcA).toNat = some p)
    (hc : (s.berth b).has (s.region (bits (q.extWord 0) 0 6)).colour = true) :
    s.ringposBody b q = s.finish b q .ok 0 none (some (BitVec.ofNat 64 p)) := by
  have hok : (q.only [fDst, fSrcA, (40, 2), fXc] && q.xc == 1 && bits (q.extWord 0) 6 58 == 0) = true := by simp [hf, hx, hw]
  simp only [State.ringposBody, State.checked_of_ok hok, State.opened_of_opensFor ho, hp, State.coloured_of_has_one hc]

theorem State.ringposBody_of_none
    (hp : s.ringPosition (bits (q.extWord 0) 0 6) (q.mode % 4) ((s.berth b).reg q.srcA).toNat = none) :
    s.ringposBody b q = s.finish b q .range := by
  have hok : (q.only [fDst, fSrcA, (40, 2), fXc] && q.xc == 1 && bits (q.extWord 0) 6 58 == 0) = true := by simp [hf, hx, hw]
  simp only [State.ringposBody, State.checked_of_ok hok, State.opened_of_opensFor ho, hp]

end

theorem exec_next_congr {s u v : State} {o : Out} (h : o = .next (s.close u)) (hu : u = v) : o = .next (s.close v) := hu ▸ h

/-- Settles O33: each instruction passes its checks, its commit is admitted, and what it names is decided on the state as it
stands; the wait for durability keeps the holds. -/
theorem holdsComplete : Obligations.HoldsComplete := by
  unfold Obligations.HoldsComplete
  intro s b q hrun
  refine ⟨fun ha hfl => ⟨fun segs hq hf hx hw hm ho hs hcol hr => ?_, fun h hq hf hh ho => ?_,
    fun h hq hf hx hw hh hg ht hi ho hcol hb => ?_⟩, fun hq hn => ?_, fun hq hn => ?_,
    fun hq hf hx hw ho => ⟨fun p hp hcol => ?_, fun hp => ?_⟩⟩
  · have hbody := State.holdBody_of_named hf hx hw hm ho hs hcol hr hfl ha
    rw [State.holdGo_charged (c := holdCur q _) (by exact hs) (by exact hr)] at hbody
    exact ⟨_, _, exec_next_congr (turn_of_op hrun hq rfl fun q s => s.holdBody b q) hbody, rfl, rfl, rfl, rfl, rfl, rfl,
      State.waitsDurable_untilDurable _ b 1 rfl⟩
  · have hbody := State.releaseBody_of_found hf hh ho hfl ha
    rw [State.releaseGo_charged (c := releaseCur q h.region) (by exact hh.1)] at hbody
    exact ⟨_, exec_next_congr (turn_of_op hrun hq rfl fun q s => s.releaseBody b q) hbody, rfl,
      State.waitsDurable_untilDurable _ b 1 rfl⟩
  · have hbody := State.harvestBody_of_found hf hx hw hh hg ht ho hcol hb hfl ha
    have hop : q.op ≠ 0x22 := by
      rw [hq]
      decide
    rw [State.harvestGo_charged (c := harvestCur q h.region (bits (q.extWord 0) 0 6)) hop (by exact hh) (by exact ht) (by exact hi) hb] at hbody
    exact ⟨_, exec_next_congr (turn_of_op hrun hq rfl fun q s => s.harvestBody b q) hbody, rfl,
      State.waitsDurable_untilDurable _ b 1 rfl⟩
  · exact exec_next_congr (turn_of_op hrun hq rfl fun q s => s.releaseBody b q) (State.releaseBody_of_none hn)
  · exact exec_next_congr (turn_of_op hrun hq rfl fun q s => s.harvestBody b q) (State.harvestBody_of_none hn)
  · exact exec_next_congr (turn_of_op hrun hq rfl fun q s => s.ringposBody b q) (State.ringposBody_of_position hf hx hw ho hp hcol)
  · exact exec_next_congr (turn_of_op hrun hq rfl fun q s => s.ringposBody b q) (State.ringposBody_of_none hf hx hw ho hp)

end Sys2Proof.Machine
end

section
/-! SUPPORT. An unmap of a range: every block of it reads zeros, and no unit outside it changes (R197, R303). -/

namespace Sys2Proof.Machine

/-! ### Flags as bits -/

theorem flagBits_succ (n : Nat) (f : Nat → Bool) :
    flagBits (n + 1) f = if f n then flagBits n f + 2 ^ n else flagBits n f := by
  rw [flagBits, List.range_succ, List.foldl_append]
  rfl

theorem flagBits_lt (n : Nat) (f : Nat → Bool) : flagBits n f < 2 ^ n := by
  induction n with
  | zero => exact Nat.one_pos
  | succ n ih =>
    rw [flagBits_succ, Nat.pow_succ]
    split_ifs <;> omega

theorem testBit_flagBits {n j : Nat} (h : j < n) (f : Nat → Bool) : Nat.testBit (flagBits n f) j = f j := by
  induction n with
  | zero => omega
  | succ n ih =>
    have hlt := flagBits_lt n f
    rw [flagBits_succ]
    obtain hj | rfl : j < n ∨ j = n := by omega
    · split_ifs
      · rw [Nat.add_comm, Nat.testBit_two_pow_add_gt hj, ih hj]
      · exact ih hj
    · have htop : Nat.testBit (flagBits j f) j = false := Nat.testBit_lt_two_pow hlt
      split_ifs with hf
      · rw [Nat.add_comm, Nat.testBit_two_pow_add_eq, htop, hf]
        rfl
      · rw [htop, Bool.eq_false_iff.2 hf]

/-! ### What a block reads of its unit -/

/-- A block's share of its unit's content. -/
def State.sectorOf (s : State) (r x : Nat) (d : List Byte) : List Byte :=
  if s.rtype r = .compat then slice d (x % 8 * 512) 512 else d

theorem State.blockData_eq (s : State) (r x : Nat) : s.blockData r x = s.sectorOf r x (s.unitData (s.blockKey r x)) := rfl

theorem slice_zeros {m off n : Nat} : slice (zeros m) off n = zeros n := by
  refine List.ext_getElem? fun i => ?_
  rw [getElem?_slice]
  by_cases h : i < n
  · rw [if_pos h]
    simp only [zeros, List.getElem?_replicate, h, if_true]
    split_ifs <;> rfl
  · rw [if_neg h]
    simp [zeros, h]

theorem State.sectorOf_zeros (s : State) (r x : Nat) : s.sectorOf r x (zeros 4096) = zeros (s.blockSize r) := by
  unfold State.sectorOf State.blockSize
  split_ifs
  · exact slice_zeros
  · rfl

theorem Version.isSome_over (v : Version) (old : Option (List Byte)) : (v.over old).isSome = v.maps old.isSome := by
  cases hd : v.data with
  | some d => simp [Version.over, Version.maps, hd]
  | none =>
    by_cases hc : v.cover = wholeUnit
    · simp [Version.over, Version.maps, hd, hc]
    · simp [Version.over, Version.maps, hd, hc]

/-- A unit has content exactly if it is mapped. -/
theorem MUnit.isSome_content (u : MUnit) : u.content.isSome = u.mapped := by
  unfold MUnit.content MUnit.mapped
  induction u.fresh with
  | nil => simp
  | cons v r ih => rw [List.foldr_cons, List.foldr_cons, Version.isSome_over, ih]

theorem State.unitData_of_not_mapped {s : State} {k : Nat} (h : s.mapped k = false) : s.unitData k = zeros 4096 := by
  have hc : (s.unitOf k).content = none := by
    rw [← Option.not_isSome_iff_eq_none, MUnit.isSome_content]
    exact Bool.eq_false_iff.1 h
  rw [State.unitData, hc]
  rfl

theorem mem_of_tabGet {α : Type} {l : List (Nat × α)} {k : Nat} {v : α} (h : tabGet l k = some v) : k ∈ l.map (·.1) := by
  induction l with
  | nil => cases h
  | cons p r ih =>
    obtain ⟨a, w⟩ := p
    rw [tabGet] at h
    split_ifs at h with h1 h2
    · simp [h1]
    · exact List.mem_cons_of_mem _ (ih h)

/-- A unit that is mapped stands in the table. -/
theorem State.mem_store_of_mapped {s : State} {k : Nat} (h : s.mapped k = true) : k ∈ s.store.map (·.1) := by
  cases hu : s.unit k with
  | some u => exact mem_of_tabGet hu
  | none => simp [State.mapped, State.unitOf, hu, MUnit.mapped] at h

/-! ### The version that unmaps -/

/-- A version of admission `n` that leaves the blocks of a run from `start` to `stop` of unit `u` of region `r` at zero. -/
structure State.Wipes (s : State) (r start stop n u : Nat) (v : Version) : Prop where
  stamp : v.stamp = n
  zero : ∀ x old, x / s.unitBlocks r = u → start ≤ x → x < stop →
    s.sectorOf r x ((v.over old).getD (zeros 4096)) = zeros (s.blockSize r)

theorem State.wipes_unmap (s : State) (r start stop n u : Nat) (a : W64) (thru : Bool) :
    s.Wipes r start stop n u (Version.unmap n a thru) :=
  ⟨rfl, fun x _ _ _ _ => s.sectorOf_zeros r x⟩

/-- The sectors of a run in a unit of eight (R303). -/
def sectorCover (start stop u : Nat) : Byte := BitVec.ofNat 8 (flagBits 8 fun i => decide (start ≤ u * 8 + i ∧ u * 8 + i < stop))

theorem bit_sectorCover {start stop x : Nat} (h1 : start ≤ x) (h2 : x < stop) :
    bit (sectorCover start stop (x / 8)) (x % 8) = true := by
  have hx : x % 8 < 8 := Nat.mod_lt _ (by decide)
  have he : x / 8 * 8 + x % 8 = x := by omega
  rw [bit, sectorCover, BitVec.getLsbD_ofNat, testBit_flagBits hx, he]
  simp [hx, h1, h2]

theorem State.wipes_part {s : State} {r : Nat} (ht : s.rtype r = .compat) (hr : r < 64) {start stop n u : Nat} {v : Version}
    (hn : v.stamp = n) (hc : v.cover = sectorCover start stop u) (hd : v.data = some (zeros 4096)) :
    s.Wipes r start stop n u v := by
  refine ⟨hn, fun x old hu h1 h2 => ?_⟩
  have hb : s.unitBlocks r = 8 := by simp [State.unitBlocks, ht, hr]
  rw [hb] at hu
  subst hu
  rw [Version.over, hd]
  simp only [Option.getD_some]
  split_ifs
  · exact s.sectorOf_zeros r x
  · have hx : x % 8 < 8 := Nat.mod_lt _ (by decide)
    rw [State.sectorOf, if_pos ht, Nat.mul_comm, slice_patch hx, hc, bit_sectorCover h1 h2, if_pos rfl, slice_zeros]
    simp [State.blockSize, ht]

end Sys2Proof.Machine
end

section
/-! SUPPORT. The units of a range take their unmapping versions one after the other (R197). -/

namespace Sys2Proof.Machine

/-- One unit of the range, of `per` blocks, is unmapped. -/
def State.unmapUnit (s : State) (per r start len n : Nat) (thru : Bool) (k : Nat) : State :=
  let u := k % 2 ^ 60
  if start ≤ u * per ∧ (u + 1) * per ≤ start + len then s.newVersion k (Version.unmap n s.ftl.jSeq thru)
  else
    let cover := BitVec.ofNat 8 (flagBits 8 fun i => decide (start ≤ u * per + i ∧ u * per + i < start + len))
    let (place, s) := match s.givePlaces .tlc .tlc (s.codeOf r) 1 false with
      | some (p, t) => (p.head?, t)
      | none => (none, s)
    s.newVersion k { Version.unmap n s.ftl.jSeq thru with cover := cover, data := some (zeros 4096), place := place }

/-- The table of units and their rows alone move on. -/
def State.onlyUnits (s t : State) : Prop := t = { s with store := t.store, ftl := t.ftl, freeCtr := t.freeCtr }

theorem State.onlyUnits_trans {s t u : State} (h : s.onlyUnits t) (g : t.onlyUnits u) : s.onlyUnits u := by
  unfold State.onlyUnits at *
  rw [h] at g
  exact g

theorem State.onlyUnits_newVersion (s : State) (k : Nat) (v : Version) : s.onlyUnits (s.newVersion k v) := by
  rw [State.onlyUnits, State.newVersion_eq]

/-- A unit that lies whole in the range is unmapped whole. -/
theorem State.covered_of_general {s : State} {r start len x : Nat} (ht : s.rtype r ≠ .compat) (h1 : start ≤ x)
    (h2 : x < start + len) : start ≤ x * s.unitBlocks r ∧ (x + 1) * s.unitBlocks r ≤ start + len := by
  have hb : s.unitBlocks r = 1 := by simp [State.unitBlocks, ht]
  rw [hb]
  omega

/-- A unit of the range takes a version that leaves its blocks of the range at zero. -/
theorem State.unmapUnit_spec (s : State) {r : Nat} (hr : r < 64) (start len n : Nat) (thru : Bool) (k : Nat) :
    (s.rtype r ≠ .compat → start ≤ k % 2 ^ 60 ∧ k % 2 ^ 60 < start + len) →
    ∃ t v, s.onlyUnits t ∧ t.store = s.store ∧ s.Wipes r start (start + len) n (k % 2 ^ 60) v ∧
      s.unmapUnit (s.unitBlocks r) r start len n thru k = t.newVersion k v := by
  intro hin
  unfold State.unmapUnit
  extract_lets u cover
  split_ifs with hw
  · exact ⟨s, _, rfl, rfl, s.wipes_unmap _ _ _ _ _ _ _, rfl⟩
  · have ht : s.rtype r = .compat := by
      by_contra ht
      exact hw (State.covered_of_general ht (hin ht).1 (hin ht).2)
    have hc : cover = sectorCover start (start + len) u := by simp [cover, sectorCover, State.unitBlocks, ht, hr]
    cases hg : s.givePlaces .tlc .tlc (s.codeOf r) 1 false with
    | none => exact ⟨s, _, rfl, rfl, State.wipes_part ht hr rfl hc rfl, rfl⟩
    | some p =>
      have hf := State.givePlaces_frame hg
      refine ⟨p.2, _, ?_, ?_, State.wipes_part ht hr rfl hc rfl, rfl⟩
      · rw [State.onlyUnits, hf]
      · rw [hf]

theorem State.unitOf_of_store {s t : State} (h : t.store = s.store) (k : Nat) : t.unitOf k = s.unitOf k := by
  rw [State.unitOf, State.unitOf, State.unit, State.unit, h]

/-- Every version of a unit was admitted no later than `n`. -/
def State.upTo (s : State) (n k : Nat) : Prop := ∀ v ∈ (s.unitOf k).fresh, v.stamp ≤ n

theorem insertVersion_latest {v : Version} {vs : List Version} (h : ∀ x ∈ vs, x.stamp ≤ v.stamp) :
    insertVersion v vs = v :: vs := by
  have h1 : vs.filter (fun x => v.stamp < x.stamp) = [] := List.filter_eq_nil_iff.2 fun x hx => by simpa using h x hx
  have h2 : vs.filter (fun x => !decide (v.stamp < x.stamp)) = vs := List.filter_eq_self.2 fun x hx => by simpa using h x hx
  rw [insertVersion, h1, h2]
  rfl

/-- A unit that holds a block of the run. -/
def State.unitIn (s : State) (r start len k : Nat) : Prop :=
  ∃ x, k = s.blockKey r x ∧ x < 2 ^ 60 ∧ start ≤ x ∧ x < start + len

theorem unitKey_mod {r u : Nat} (h : u < 2 ^ 60) : unitKey r u % 2 ^ 60 = u := by
  rw [unitKey, Nat.mul_comm, Nat.mul_add_mod, Nat.mod_eq_of_lt h]

theorem State.run_of_unitIn {s : State} {r start len k : Nat} (h : s.unitIn r start len k) :
    s.rtype r ≠ .compat → start ≤ k % 2 ^ 60 ∧ k % 2 ^ 60 < start + len := by
  obtain ⟨x, rfl, hx, h1, h2⟩ := h
  intro ht
  rw [State.blockKey_general ht, unitKey_mod hx]
  exact ⟨h1, h2⟩

theorem State.unit_of_blockKey {s : State} {r start len k x : Nat} (h : s.unitIn r start len k) (hx : s.blockKey r x = k) :
    x / s.unitBlocks r = k % 2 ^ 60 := by
  obtain ⟨y, rfl, hy, -⟩ := h
  rw [State.blockKey, State.blockKey] at hx
  rw [unitKey_inj hx, State.blockKey, unitKey_mod ((Nat.div_le_self _ _).trans_lt hy)]

theorem State.blockKey_of_onlyUnits {s t : State} (h : s.onlyUnits t) (r x : Nat) : t.blockKey r x = s.blockKey r x := by
  rw [h]
  rfl

theorem State.blockData_of_onlyUnits {s t : State} (h : s.onlyUnits t) {r x : Nat} :
    t.blockData r x = s.sectorOf r x (t.unitData (s.blockKey r x)) := by
  have hs : t.sectorOf r x = s.sectorOf r x := by
    rw [h]
    rfl
  rw [State.blockData_eq, State.blockKey_of_onlyUnits h, hs]

section
variable {s : State} {r start len n : Nat} {thru : Bool}

theorem State.onlyUnits_unmapUnit (hr : r < 64) {k : Nat}
    (hk : s.rtype r ≠ .compat → start ≤ k % 2 ^ 60 ∧ k % 2 ^ 60 < start + len) :
    s.onlyUnits (s.unmapUnit (s.unitBlocks r) r start len n thru k) := by
  obtain ⟨t, v, ht, -, -, he⟩ := s.unmapUnit_spec hr start len n thru k hk
  rw [he]
  exact State.onlyUnits_trans ht (t.onlyUnits_newVersion k v)

theorem State.unitOf_unmapUnit_other (hr : r < 64) {k x : Nat}
    (hk : s.rtype r ≠ .compat → start ≤ k % 2 ^ 60 ∧ k % 2 ^ 60 < start + len) (h : x ≠ k) :
    (s.unmapUnit (s.unitBlocks r) r start len n thru k).unitOf x = s.unitOf x := by
  obtain ⟨t, v, -, hst, -, he⟩ := s.unmapUnit_spec hr start len n thru k hk
  rw [he, State.unitOf_newVersion_other _ _ h, State.unitOf_of_store hst]

/-- The unit that is unmapped reads zeros in the run, and its newest version is the unmap's. -/
theorem State.clear_unmapUnit (hr : r < 64) {k : Nat} (hk : s.unitIn r start len k) (hn : s.upTo n k) :
    (∀ x, s.blockKey r x = k → start ≤ x → x < start + len →
      (s.unmapUnit (s.unitBlocks r) r start len n thru k).blockData r x = zeros (s.blockSize r)) ∧
      (s.unmapUnit (s.unitBlocks r) r start len n thru k).upTo n k := by
  obtain ⟨t, v, ht, hst, hv, he⟩ := s.unmapUnit_spec hr start len n thru k (State.run_of_unitIn hk)
  have hfresh : (t.newVersion k v).unitOf k = { s.unitOf k with fresh := v :: (s.unitOf k).fresh } := by
    rw [State.unitOf_newVersion, State.unitOf_of_store hst, insertVersion_latest]
    rw [hv.stamp]
    exact hn
  have hsame : s.onlyUnits (t.newVersion k v) := State.onlyUnits_trans ht (t.onlyUnits_newVersion k v)
  rw [he]
  refine ⟨fun x hx h1 h2 => ?_, fun w hw => ?_⟩
  · have hd : (t.newVersion k v).unitData k = (v.over (s.unitOf k).content).getD (zeros 4096) := by
      rw [State.unitData, hfresh]
      rfl
    rw [State.blockData_of_onlyUnits hsame, hx, hd]
    exact hv.zero x _ (State.unit_of_blockKey hk hx) h1 h2
  · rw [hfresh] at hw
    rcases List.mem_cons.1 hw with rfl | hw
    · exact hv.stamp.le
    · exact hn w hw

end

/-! ### The whole range -/

theorem State.unmapUnits_spec {r start len n : Nat} {thru : Bool} (hr : r < 64) (l : List Nat) (s : State)
    (hl : ∀ k ∈ l, s.unitIn r start len k) (hn : ∀ k ∈ l, s.upTo n k) :
    let t := l.foldl (fun t k => t.unmapUnit (s.unitBlocks r) r start len n thru k) s
    s.onlyUnits t ∧ (∀ k, k ∉ l → t.unitOf k = s.unitOf k) ∧
      ∀ x, s.blockKey r x ∈ l → start ≤ x → x < start + len → t.blockData r x = zeros (s.blockSize r) := by
  induction l generalizing s with
  | nil => exact ⟨rfl, fun _ _ => rfl, fun _ h => absurd h List.not_mem_nil⟩
  | cons k l ih =>
    have hk := State.run_of_unitIn (hl k (by simp))
    obtain ⟨v, hv⟩ : ∃ v, s.unmapUnit (s.unitBlocks r) r start len n thru k = v := ⟨_, rfl⟩
    have hsv : s.onlyUnits v := hv ▸ State.onlyUnits_unmapUnit hr hk
    have hother : ∀ x, x ≠ k → v.unitOf x = s.unitOf x := fun x hx => hv ▸ State.unitOf_unmapUnit_other hr hk hx
    obtain ⟨hclear, hnew⟩ := hv ▸ State.clear_unmapUnit (thru := thru) hr (hl k (by simp)) (hn k (by simp))
    have hper : v.unitBlocks r = s.unitBlocks r := by
      rw [hsv]
      rfl
    have hsize : v.blockSize r = s.blockSize r := by
      rw [hsv]
      rfl
    have hkey := State.blockKey_of_onlyUnits hsv r
    obtain ⟨ht, hto, htc⟩ := ih v (fun x hx => by
        obtain ⟨y, hy, hrun⟩ := hl x (by simp [hx])
        exact ⟨y, hy.trans (hkey y).symm, hrun⟩) fun x hx => by
      by_cases he : x = k
      · exact he ▸ hnew
      · rw [State.upTo, hother x he]
        exact hn x (by simp [hx])
    rw [hper] at ht hto htc
    dsimp only
    rw [List.foldl_cons, hv]
    refine ⟨State.onlyUnits_trans hsv ht, fun x hx => ?_, fun x hx h1 h2 => ?_⟩
    · rw [List.mem_cons, not_or] at hx
      rw [hto x hx.2, hother x hx.1]
    · by_cases hin : s.blockKey r x ∈ l
      · rw [htc x (by rwa [hkey]) h1 h2, hsize]
      · have he : s.blockKey r x = k := (List.mem_cons.1 hx).resolve_right hin
        rw [State.blockData_of_onlyUnits (State.onlyUnits_trans hsv ht), State.unitData, hto _ hin]
        rw [← hclear x he h1 h2, State.blockData_of_onlyUnits hsv]
        rfl

/-- The mapped units of a range. -/
def State.unmapKeys (s : State) (r start len : Nat) : List Nat :=
  (s.rangeKeys r (start / s.unitBlocks r) ((start + len + s.unitBlocks r - 1) / s.unitBlocks r)).filter s.mapped

theorem State.unmapRange_eq (s : State) (r start len : Nat) (thru : Bool) : s.unmapRange r start len thru =
    (s.ftl.stamp, s.unmapKeys r start len, (s.unmapKeys r start len).foldl
      (fun t k => t.unmapUnit (s.unitBlocks r) r start len s.ftl.stamp thru k) s.nextStamp.2) := rfl

theorem State.unitBlocks_pos (s : State) (r : Nat) : 0 < s.unitBlocks r := by
  unfold State.unitBlocks
  split_ifs <;> decide

theorem State.unitIn_of_mem_unmapKeys {s : State} {r start len k : Nat} (hl : 0 < len) (hb : start + len ≤ 2 ^ 60)
    (h : k ∈ s.unmapKeys r start len) : s.unitIn r start len k := by
  have hk := (List.mem_filter.1 (List.mem_filter.1 h).1).2
  simp only [Bool.and_eq_true, decide_eq_true_eq] at hk
  obtain ⟨h1, h2⟩ := hk
  unfold unitKey at h1 h2
  have hp := s.unitBlocks_pos r
  generalize hper : s.unitBlocks r = per at *
  obtain ⟨u, rfl⟩ : ∃ u, k = r * 2 ^ 60 + u :=
    ⟨k - r * 2 ^ 60, (Nat.add_sub_cancel' ((Nat.le_add_right _ _).trans h1)).symm⟩
  have hlo : start < (u + 1) * per := by
    have := Nat.lt_succ_of_le (Nat.le_of_add_le_add_left h1)
    exact (Nat.div_lt_iff_lt_mul hp).1 this
  have hhi : u * per < start + len := by
    have hu := (Nat.le_div_iff_mul_le hp).1 (Nat.succ_le_of_lt (Nat.lt_of_add_lt_add_left h2))
    rw [Nat.succ_mul] at hu
    omega
  rw [Nat.succ_mul] at hlo
  refine ⟨max start (u * per), ?_, by omega, by omega, by omega⟩
  rw [State.blockKey, hper, unitKey, Nat.add_left_cancel_iff, eq_comm, Nat.div_eq_iff hp]
  omega

theorem State.mem_unmapKeys {s : State} {r start len x : Nat} (h1 : start ≤ x) (h2 : x < start + len)
    (hm : s.mapped (s.blockKey r x) = true) : s.blockKey r x ∈ s.unmapKeys r start len := by
  refine List.mem_filter.2 ⟨List.mem_filter.2 ⟨State.mem_store_of_mapped hm, ?_⟩, hm⟩
  have hp := s.unitBlocks_pos r
  generalize hper : s.unitBlocks r = per at *
  have hlo : start / per ≤ x / per := Nat.div_le_div_right h1
  have hhi : x / per < (start + len + per - 1) / per := by
    rw [Nat.lt_iff_add_one_le, Nat.le_div_iff_mul_le hp, Nat.succ_mul]
    have := Nat.div_mul_le_self x per
    omega
  simp only [State.blockKey, hper, Bool.and_eq_true, decide_eq_true_eq]
  unfold unitKey
  omega

/-- After an unmap its run reads zeros, and no unit outside it has changed (R197). -/
theorem State.unmapRange_spec {s : State} {r start len : Nat} (hr : r < 64) (hl : 0 < len) (hb : start + len ≤ 2 ^ 60)
    (hn : s.newest r start len) (thru : Bool) :
    let t := (s.unmapRange r start len thru).2.2
    s.onlyUnits t ∧ (∀ i, i < len → t.blockData r (start + i) = zeros (s.blockSize r)) ∧
      ∀ k, (∀ i, i < len → s.blockKey r (start + i) ≠ k) → t.unitOf k = s.unitOf k := by
  have hin : ∀ k ∈ s.unmapKeys r start len, s.unitIn r start len k := fun k => State.unitIn_of_mem_unmapKeys hl hb
  have hup : ∀ k ∈ s.unmapKeys r start len, s.nextStamp.2.upTo s.ftl.stamp k := fun k hk v hv => by
    obtain ⟨x, rfl, -, h1, h2⟩ := hin k hk
    have := hn (x - start) (by omega)
    rw [Nat.add_sub_cancel' h1] at this
    exact (this v hv).le
  obtain ⟨ht, hto, htc⟩ := State.unmapUnits_spec (thru := thru) hr (s.unmapKeys r start len) s.nextStamp.2 hin hup
  rw [State.unmapRange_eq]
  refine ⟨ht, fun i hi => ?_, fun k hk => ?_⟩
  · by_cases hm : s.mapped (s.blockKey r (start + i)) = true
    · exact htc (start + i) (State.mem_unmapKeys (by omega) (by omega) hm) (by omega) (by omega)
    · have hnot : s.blockKey r (start + i) ∉ s.unmapKeys r start len := fun h => hm (List.mem_filter.1 h).2
      refine (State.blockData_of_onlyUnits ht).trans ?_
      refine (congrArg (fun u : MUnit => s.sectorOf r (start + i) (u.content.getD (zeros 4096))) (hto _ hnot)).trans ?_
      exact (congrArg (s.sectorOf r (start + i)) (State.unitData_of_not_mapped (Bool.eq_false_iff.2 hm))).trans
        (s.sectorOf_zeros r _)
  · refine hto k fun hmem => ?_
    obtain ⟨x, hx, -, h1, h2⟩ := hin k hmem
    have := hk (x - start) (by omega)
    rw [Nat.add_sub_cancel' h1] at this
    exact this hx.symm

end Sys2Proof.Machine
end

section
/-! PROOFS. TRIM and WEED (O32). -/

namespace Sys2Proof.Machine

/-- What TRIM and WEED of a range that is not empty ask of the guard. -/
abbrev trimAsk (weed ring : Bool) (f : Form) : Ask :=
  { region := f.region, types := if weed then [.general, .compat, .ring] else [.general, .compat], write := true
    start := f.start, len := f.len, ranged := !ring, misfit := ring && (f.start % segSize != 0 || f.len % segSize != 0) }

/-- A TRIM or WEED in progress. -/
def trimCur (q : QInstr) (f : Form) : Cur :=
  { Cur.init q .ledger with region := f.region, start := f.start, len := f.len }

section
variable {s : State} {b : BerthId} {q : QInstr} {f : Form}

theorem State.trimBody_of_open (hf : q.form (s.berth b) 1 false = some f) (hs : s.single) (hl : 0 < f.len)
    (hc : (s.berth b).has (s.region f.region).colour = true) (ha : s.hup.answerItem commitCost = .admitted)
    (hp : s.later { region := f.region, write := false, lost := false, media := false, doms := commitDomains } = .go)
    (ho : s.opensFor (trimAsk (q.op == 0x31) (q.op == 0x31 && s.rtype f.region == .ring) f))
    (ht : q.op = 0x31 → s.rtype f.region = .ring → f.start + f.len ≤ ((s.ring f.region).tailPos / segSize + 1) * segSize) :
    s.trimBody b q = if q.op == 0x31 then (s.charged b (trimCur q f) .commit commitCost).weedGo b true
      else (s.charged b (trimCur q f) .commit commitCost).trimGo b true := by
  have hlen : (f.len == 0) = false := by simp [hl.ne']
  have htail : (q.op == 0x31 && s.rtype f.region == .ring && f.len != 0 &&
      ((s.ring f.region).tailPos / segSize + 1) * segSize < f.start + f.len) = false := by
    simpa [hl.ne'] using ht
  simp only [State.trimBody, hf, hlen, Bool.or_false, State.opened_of_opensFor ho, htail, hl.ne', hc,
    State.touchesLost_of_single hs, Bool.not_true, Bool.false_eq_true, if_false]
  rw [State.onPath_of_go hp rfl]
  exact State.askCommit_of_admitted ha b _ _

/-- A range that the guard allows lies below 2^60 (R28, R178). -/
theorem State.end_le_of_refusal {a : Ask} (h : s.refusal a = none) (hr : a.ranged = true) (hl : 0 < a.len)
    (ht : s.rtype a.region ≠ .ring) : a.start + a.len ≤ 2 ^ 60 := by
  rw [State.refusal, Option.map_eq_none_iff, List.find?_eq_none] at h
  have hin := h (a.ranged && a.len != 0 && !s.inRange a, .range) (by simp [State.refusalRows])
  have hle : a.start + a.len ≤ s.regionBlocks a.region := by simpa [hr, hl.ne', State.inRange, ht] using hin
  have hmib : (s.region a.region).mib < 2 ^ 32 := (s.region a.region).siz.val.isLt
  have hdiv : s.regionBlocks a.region ≤ (s.region a.region).mib * 1048576 := Nat.div_le_self _ _
  omega

end

/-! ### What the admission of a TRIM or WEED does -/

section
variable {s : State} {b : BerthId} {c : Cur}

/-- The state after the unmap of a range, where the commit of the units waits for the journal. -/
def State.unmapAdded (s : State) (b : BerthId) (c : Cur) (after : List After) : State :=
  let p := s.unmapRange c.region c.start c.len false
  p.2.2.addChange { commitOf (some b) true p.2.1 after with stamp := p.1 }

/-- A TRIM or WEED that has passed `n` blocks. -/
def Cur.passed (c : Cur) (n : Nat) : Cur := { c with done := n, result := some (BitVec.ofNat 64 n) }

theorem State.trimGo_charged (hs : s.single) : (s.charged b c .commit commitCost).trimGo b true =
    ((s.charged b c .commit commitCost).unmapAdded b c []).untilDurable b (c.passed c.len) 1 := by
  have hs' : (s.charged b c .commit commitCost).single := hs
  simp only [State.trimGo, State.berth_charged, State.remotes_of_single hs']
  rfl

theorem State.weedGo_charged_units (hs : s.single) (ht : s.rtype c.region ≠ .ring) :
    (s.charged b c .commit commitCost).weedGo b true =
      ((s.charged b c .commit commitCost).unmapAdded b c
        [.weed (some b) c.region c.start c.len c.len []]).untilDurable b (c.passed c.len) 2 := by
  have hs' : (s.charged b c .commit commitCost).single := hs
  have ht' : ((s.charged b c .commit commitCost).rtype c.region == .ring) = false := beq_eq_false_iff_ne.2 ht
  simp only [State.weedGo, State.berth_charged, State.remotes_of_single hs', ht', Bool.false_eq_true, if_false]
  rfl

/-- The segments that leave take their slots away, and the record of the WEED waits for the journal. -/
def State.slotsLeft (s : State) (b : BerthId) (c : Cur) (segs : List Nat) : State :=
  (segs.foldl (fun t g => t.leaveSlot c.region g) s).addChange
    { commitOf (some b) true [] [.weed (some b) c.region c.start c.len (segs.length * segSize) segs] with stamp := 0 }

theorem State.weedGo_charged_ring (hs : s.single) (ht : s.rtype c.region = .ring) :
    (s.charged b c .commit commitCost).weedGo b true =
      let segs := (s.charged b c .commit commitCost).weedSegs c.region c.start c.len
      ((s.charged b c .commit commitCost).slotsLeft b c segs).untilDurable b (c.passed (segs.length * segSize)) 2 := by
  have hs' : (s.charged b c .commit commitCost).single := hs
  have ht' : ((s.charged b c .commit commitCost).rtype c.region == .ring) = true := beq_iff_eq.2 ht
  simp only [State.weedGo, State.berth_charged, State.remotes_of_single hs', ht', if_true]
  rfl

theorem State.unmapAdded_spec (hr : c.region < 64) (hl : 0 < c.len) (hb : c.start + c.len ≤ 2 ^ 60)
    (hn : s.newest c.region c.start c.len) (ha : s.hup.answerItem commitCost = .admitted) (after : List After)
    (c' : Cur) (n : Nat) :
    let u := ((s.charged b c .commit commitCost).unmapAdded b c after).untilDurable b c' n
    (∀ i, i < c.len → u.blockData c.region (c.start + i) = zeros (s.blockSize c.region)) ∧
      (∀ k, (∀ i, i < c.len → s.blockKey c.region (c.start + i) ≠ k) → u.unitOf k = s.unitOf k) ∧
      u.hup.d = s.hup.d + commitCost := by
  have hn' : (s.charged b c .commit commitCost).newest c.region c.start c.len := hn
  obtain ⟨ht, hz, ho⟩ := State.unmapRange_spec hr hl hb hn' false
  refine ⟨hz, ho, ?_⟩
  have hd := congrArg (fun u : State => u.hup.d) ht
  exact hd.trans (Hup.d_take ha (by decide) _)

/-! ### The slots of a ring -/

theorem State.segs_foldl_leaveSlot (r : Nat) (segs : List Nat) (s : State) :
    ((segs.foldl (fun t g => t.leaveSlot r g) s).ring r).segs = (s.ring r).segs.filter fun g => !segs.contains g := by
  induction segs generalizing s with
  | nil => exact (List.filter_eq_self.2 fun _ _ => rfl).symm
  | cons g l ih =>
    rw [List.foldl_cons, ih, State.leaveSlot, State.ring_setRing, List.filter_filter]
    refine List.filter_congr fun x _ => ?_
    rw [List.contains_cons, Bool.not_or, bne, Bool.and_comm]

/-- A berth pins the segment (R192). -/
def Berth.pins (r seg : Nat) (x : Berth) : Bool := match x.cur with
  | some c => readsRing c.ins.op && c.phase != .gate && c.region == r &&
      (c.start + c.pos) / segSize ≤ seg && seg ≤ (c.start + c.len - 1) / segSize && c.pos < c.len
  | none => false

theorem State.pinnedSeg_eq (s : State) (r seg : Nat) : s.pinnedSeg r seg = (s.berths.map (Berth.pins r seg)).toList.any id := by
  rw [Vector.toList_map, List.any_map]
  rfl

theorem State.pinnedSeg_charged (hc : readsRing c.ins.op = false) (k : ItemKind) (cost r seg : Nat) :
    (s.charged b c k cost).pinnedSeg r seg = (s.modBerth b fun x => { x with cur := none }).pinnedSeg r seg := by
  have hset : (s.charged b c k cost).berths.map (Berth.pins r seg) =
      ((s.modBerth b fun x => { x with cur := none }).modBerth b fun x => { x with cur := some c }).berths.map
        (Berth.pins r seg) := by
    rw [State.modBerth_modBerth]
    rfl
  rw [State.pinnedSeg_eq, hset, State.map_berths_modBerth, ← State.pinnedSeg_eq]
  simp [Berth.pins, hc]

theorem State.weedSegs_charged (hc : readsRing c.ins.op = false) (k : ItemKind) (cost r start len : Nat) :
    (s.charged b c k cost).weedSegs r start len =
      (s.modBerth b fun x => { x with cur := none }).weedSegs r start len := by
  unfold State.weedSegs
  simp only [State.pinnedSeg_charged hc]
  rfl

end

/-- Settles O32: the admitted instruction unmaps the units of its range one after the other, each with the newest version of
its unit, or takes its segments out of their slots. -/
theorem unmapCompletes : Obligations.UnmapCompletes := by
  unfold Obligations.UnmapCompletes
  intro s b q f hrun hop s' hf hs hl hcol ha hp ring ho unmapped
  have hr : f.region < 64 := (QInstr.form_inv hf).1
  refine ⟨fun hring hn _ => ?_, fun hring htail => ?_⟩
  · have hnot : q.op = 0x31 → s'.rtype f.region ≠ .ring := by simpa [ring] using hring
    have hbody := State.trimBody_of_open hf hs hl hcol ha hp ho fun h ht => absurd ht (hnot h)
    have hnr : s'.rtype f.region ≠ .ring := by
      rcases hop with h | h
      · obtain ⟨-, -, hrf⟩ := ho
        rw [State.refusal, Option.map_eq_none_iff, List.find?_eq_none] at hrf
        intro ht
        have := hrf _ List.mem_cons_self
        simp [ht, h] at this
      · exact hnot h
    have hbound : f.start + f.len ≤ 2 ^ 60 := State.end_le_of_refusal ho.2.2 (by simpa using hring) hl hnr
    have hun := State.unmapAdded_spec (b := b) (c := trimCur q f) hr hl hbound hn ha
    refine ⟨fun h => ?_, fun h => ?_⟩
    · rw [if_neg (by simp [h]), State.trimGo_charged hs] at hbody
      refine ⟨_, exec_next_congr (turn_of_op hrun h rfl fun q s => s.trimBody b q) hbody, ?_,
        State.waitsDurable_untilDurable _ b 1 rfl⟩
      exact hun _ _ _
    · rw [if_pos (by simp [h]), State.weedGo_charged_units (c := trimCur q f) hs hnr] at hbody
      refine ⟨_, exec_next_congr (turn_of_op hrun h rfl fun q s => s.trimBody b q) hbody, ?_,
        State.waitsDurable_untilDurable _ b 2 rfl⟩
      exact hun _ _ _
  · obtain ⟨h, ht⟩ : q.op = 0x31 ∧ s'.rtype f.region = .ring := by simpa [ring] using hring
    have hbody := State.trimBody_of_open hf hs hl hcol ha hp ho fun _ _ => htail
    rw [if_pos (by simp [h]), State.weedGo_charged_ring (c := trimCur q f) hs ht,
      State.weedSegs_charged (c := trimCur q f) (by rw [trimCur, Cur.init, h]; rfl)] at hbody
    exact ⟨_, exec_next_congr (turn_of_op hrun h rfl fun q s => s.trimBody b q) hbody, State.segs_foldl_leaveSlot f.region _ _,
      State.waitsDurable_untilDurable _ b 2 rfl⟩

end Sys2Proof.Machine
end

section
/-! SUPPORT. What the seal of a record does to the state (R273, R277, R279). -/

namespace Sys2Proof.Machine

/-- The copies of a record that are to be written go to the dies. -/
def State.addCopies (s : State) (seq : W64) (toA toB : Bool) : State :=
  let t := if toA then s.addDie (.logCopy seq false) else s
  if toB then t.addDie (.logCopy seq true) else t

/-- The states that a new logbook, the time and the free values make of `s`. -/
def State.withLog (s : State) (t : Tim) (n : Nat) (l : Logbook) : State := { s with tim := t, freeCtr := n, log := l }

/-- A record that the safety pair seals over a logbook. -/
structure LogRec.seals (x : LogRec) (s : State) (r : ToSeal) (l : Logbook) : Prop where
  recs : l.recs = s.log.recs ++ [x]
  next : l.next = s.log.next + 1
  typ : x.typ = r.typ
  colour : x.colour = r.colour
  payload : x.payload = r.payload
  card : x.card = r.card
  seq : x.seq = s.ownSeq s.log.next
  prev : x.prev = s.log.prevHash
  toA : (∃ g : Fin 8, s.dieUsable s.log.copyA.opens[g].die = true) → 0 < s.log.copyA.free → x.durA = false
  toB : (∃ g : Fin 8, s.dieUsable s.log.copyB.opens[g].die = true) → 0 < s.log.copyB.free → x.durB = false

/-! ### A copy finds room while it has a block and a die -/

theorem State.logGroups_ne_nil {s : State} {c : LogCopy} (h : ∃ g : Fin 8, s.dieUsable c.opens[g].die = true) (size : Nat) :
    s.logGroups c size ≠ [] := by
  obtain ⟨g, hg⟩ := h
  have hall : ((List.range 8).filter fun g => s.dieUsable c.opens[Fin.ofNat 8 g].die) ≠ [] :=
    List.ne_nil_of_mem (List.mem_filter.2 ⟨List.mem_range.2 g.isLt, by simpa using hg⟩)
  unfold State.logGroups
  extract_lets all room l idle
  have hl : l ≠ [] := by
    simp only [l]
    split_ifs with hr
    · exact hall
    · exact fun h => hr (by simp [h])
  split_ifs with hi
  · exact hl
  · exact fun h => hi (by simp [h])

theorem State.isSome_placeLog {s : State} {c : LogCopy} (h : 0 < c.free) (g : Fin 8) (spare lent size : Nat) :
    (s.placeLog c g spare lent size).isSome = true := by
  rw [State.placeLog, Option.isSome_map]
  split_ifs
  · rfl
  · rw [State.freshLogBlk, if_pos h]
    rfl

theorem State.isSome_putLog {s : State} {c : LogCopy} (h : ∃ g : Fin 8, s.dieUsable c.opens[g].die = true) (hf : 0 < c.free)
    (n spare lent size : Nat) : (s.putLog c n spare lent size).isSome = true := by
  have hpos : 0 < (s.logGroups c size).length := List.length_pos_iff.2 (State.logGroups_ne_nil h size)
  have hlt : Config.freeChoice n % max 1 (s.logGroups c size).length < (s.logGroups c size).length := by
    rw [max_eq_right hpos]
    exact Nat.mod_lt _ hpos
  simp only [State.putLog, List.getElem?_eq_getElem hlt, Option.bind_some]
  exact State.isSome_placeLog hf _ _ _ _

/-! ### The seal -/

/-- The bytes that the image of a record takes. -/
def ToSeal.size (r : ToSeal) : Nat := (80 + r.payload.length + 15) / 16 * 16

/-- The state in which a record is sealed: its time has passed, and its copies' free values are drawn. -/
def State.sealing (s : State) : State := s.elapse.draw.2.draw.2

/-- Where copy A of the record goes, if it is written. -/
def State.placedA (s : State) (r : ToSeal) : Option (LogCopy × Nat × Nat × Nat) :=
  s.sealing.putLog s.sealing.log.copyA s.elapse.draw.1 s.sealing.log.spare s.sealing.log.lent r.size

/-- Copy A with the spare pool, the lent count and the block's number. -/
def State.afterA (s : State) (r : ToSeal) : LogCopy × Nat × Nat × Nat :=
  (s.placedA r).getD (s.sealing.log.copyA, s.sealing.log.spare, s.sealing.log.lent, noBlk)

/-- Where copy B of the record goes, if it is written. -/
def State.placedB (s : State) (r : ToSeal) : Option (LogCopy × Nat × Nat × Nat) :=
  s.sealing.putLog s.sealing.log.copyB s.elapse.draw.2.draw.1 (s.afterA r).2.1 (s.afterA r).2.2.1 r.size

/-- Copy B with the spare pool, the lent count and the block's number. -/
def State.afterB (s : State) (r : ToSeal) : LogCopy × Nat × Nat × Nat :=
  (s.placedB r).getD (s.sealing.log.copyB, (s.afterA r).2.1, (s.afterA r).2.2.1, noBlk)

/-- The record that is sealed. -/
def State.sealedAs (s : State) (r : ToSeal) : LogRec :=
  { typ := r.typ, qual := s.sealing.tim.qual, colour := r.colour, card := r.card, seq := s.sealing.ownSeq s.sealing.log.next
    time := s.sealing.now, prev := s.sealing.log.prevHash, payload := r.payload, durA := (s.placedA r).isNone
    durB := (s.placedB r).isNone, owner := r.owner, cost := r.cost, blkA := (s.afterA r).2.2.2, blkB := (s.afterB r).2.2.2 }

/-- The logbook with it. -/
def State.logSealed (s : State) (r : ToSeal) : Logbook :=
  { s.sealing.log.withSpare (s.afterB r).2.1 with
    recs := s.sealing.log.recs ++ [s.sealedAs r], next := s.sealing.log.next + 1, copyA := (s.afterA r).1, copyB := (s.afterB r).1
    lent := (s.afterB r).2.2.1
    oneCopy := s.sealing.log.oneCopy || (s.placedA r).isNone || (s.placedB r).isNone }

theorem State.sealRec_eq (s : State) (r : ToSeal) : s.sealRec r =
    ({ s.sealing with log := s.logSealed r } : State).addCopies (s.sealedAs r).seq (s.placedA r).isSome
      (s.placedB r).isSome := by
  simp only [State.sealRec, State.addCopies, State.logSealed, State.sealedAs, State.afterB, State.placedB,
    State.afterA, State.placedA, State.sealing, ToSeal.size]
  rfl

theorem State.sealRec_spec (s : State) (r : ToSeal) : ∃ (x : LogRec) (l : Logbook) (t : Tim) (n : Nat),
    s.sealRec r = (s.withLog t n l).addCopies x.seq (!x.durA) (!x.durB) ∧ x.seals s r l := by
  refine ⟨s.sealedAs r, s.logSealed r, s.sealing.tim, s.sealing.freeCtr, ?_, rfl, rfl, rfl, rfl, rfl, rfl, rfl, rfl,
    fun h hf => ?_, fun h hf => ?_⟩
  · rw [State.sealRec_eq]
    simp only [State.sealedAs, Option.not_isNone]
    rfl
  · exact Option.isNone_eq_false_iff.2 (State.isSome_putLog (s := s.sealing) h hf _ _ _ _)
  · exact Option.isNone_eq_false_iff.2 (State.isSome_putLog (s := s.sealing) h hf _ _ _ _)

theorem State.kinds_addDie (s : State) (k : DieKind) : (s.addDie k).dies.map (·.kind) = s.dies.map (·.kind) ++ [k] := by
  simp [State.addDie]

theorem State.kinds_addCopies (s : State) (seq : W64) (toA toB : Bool) : (s.addCopies seq toA toB).dies.map (·.kind) =
    s.dies.map (·.kind) ++ ((if toA then [.logCopy seq false] else []) ++ if toB then [.logCopy seq true] else []) := by
  cases toA <;> cases toB <;> simp [State.addCopies, State.kinds_addDie]

/-- Beyond the dies nothing but the operations' numbers changes. -/
theorem State.addCopies_frame (s : State) (seq : W64) (toA toB : Bool) :
    s.addCopies seq toA toB = { s with dies := (s.addCopies seq toA toB).dies, nextOp := (s.addCopies seq toA toB).nextOp } := by
  cases toA <;> cases toB <;> rfl

/-- A record of the OC9640's own leaves everything but the time, the free values, the logbook and the dies as it is. -/
theorem State.sealCard_frame (s : State) (typ : W16) (payload : List Byte) : s.sealCard typ payload =
    { s with
      tim := (s.sealCard typ payload).tim
      freeCtr := (s.sealCard typ payload).freeCtr
      log := (s.sealCard typ payload).log
      dies := (s.sealCard typ payload).dies
      nextOp := (s.sealCard typ payload).nextOp } := by
  unfold State.sealCard
  split_ifs
  · rfl
  · obtain ⟨x, l, t, n, hu, -⟩ := s.sealRec_spec
      { typ := typ, colour := 0, card := true, payload := payload, owner := none, cost := 0 }
    rw [hu, State.addCopies_frame]
    rfl

/-- The kinds of the operations that were added are those after the first. -/
theorem kinds_drop {ds es : List DieOp} {ks : List DieKind} (h : es.map (·.kind) = ds.map (·.kind) ++ ks) :
    (es.drop ds.length).map (·.kind) = ks := by
  rw [List.map_drop, h, List.drop_left' (by simp)]

end Sys2Proof.Machine
end

section
/-! SUPPORT. An instruction whose parcels are all there takes them at once (R155). -/

namespace Sys2Proof.Machine

/-- An instruction that has its data; `t` says whether its last parcel is taken. -/
def Cur.withData (c : Cur) (d : List Byte) (t : Bool) : Cur := { c with acc := d, tookLast := t }

theorem State.gather_dataFor {s : State} {b : BerthId} {c : Cur} {d : List Byte} (ha : c.acc = []) {n : Nat}
    (hn : (s.berth b).chunks.length < n) (hd : s.dataFor b c.ins none d) : ∃ ch t,
      State.gather n b d.length d.length (s.withCur b c) = (.got d, (s.withChunks b ch).withCur b (c.withData d t)) := by
  obtain ⟨hb, -, hlast⟩ := hd
  exact State.gather_all n s c (((s.berth b).myChunks_length_le c.ins).trans_lt hn) (by rw [ha, List.nil_append, hb]) hlast

end Sys2Proof.Machine
end

section
/-! PROOFS. SEAL, CHECKPT, CTRINC and LOGREAD (O35). -/

namespace Sys2Proof.Machine

/-! ### SEAL (R203, R277 to R279) -/

/-- A record is sealed over the logbook of `s`, and its two copies go to the dies while blocks are left. -/
structure State.sealsRec (s u : State) (r : ToSeal) (x : LogRec) : Prop where
  sealed : x.seals s r u.log
  dies : (u.dies.drop s.dies.length).map (·.kind) =
    (if x.durA then [] else [.logCopy x.seq false]) ++ (if x.durB then [] else [.logCopy x.seq true])
  berths : u.berths = s.berths
  hup : u.hup = s.hup

theorem State.sealRec_seals (s : State) (r : ToSeal) : ∃ x, s.sealsRec (s.sealRec r) r x := by
  obtain ⟨x, l, t, n, hu, hx⟩ := s.sealRec_spec r
  rw [hu]
  refine ⟨x, ?_, ?_, ?_, ?_⟩
  · rw [State.addCopies_frame]
    exact hx
  · refine (kinds_drop (State.kinds_addCopies (s.withLog t n l) x.seq _ _)).trans ?_
    cases x.durA <;> cases x.durB <;> rfl
  · rw [State.addCopies_frame]
    rfl
  · rw [State.addCopies_frame]
    rfl

/-- The record that a SEAL asks for. -/
def Cur.toSeal (c : Cur) (b : BerthId) : ToSeal :=
  { typ := c.ins.sealType, colour := c.ins.sealColour, card := false, payload := c.acc, owner := some b, cost := sealCost }

/-- A SEAL that has its number. -/
def Cur.numbered (c : Cur) (seq : W64) : Cur := { c with phase := .ledger, done := 1, result := some seq }

theorem State.sealAsk_of_admitted {s : State} (b : BerthId) {c : Cur} (hf : s.log.full = false)
    (ha : s.hup.answerItem sealCost = .admitted) : s.sealAsk b c =
      ((s.charged b { c with phase := .ledger } .sealed sealCost).untilDurable b (c.numbered (s.ownSeq s.log.next)) 1).sealRec
        (c.toSeal b) := by
  have hf' : (s.charged b { c with phase := .ledger } .sealed sealCost).log.full = false := hf
  rw [State.sealAsk, State.askSeal_of_admitted ha]
  simp only [State.sealGo, State.berth_charged, hf', Bool.false_eq_true, if_false]
  rfl

/-- What the seal reads of the state: the logbook, the position and the dies that take programs. -/
theorem LogRec.seals.of_same {x : LogRec} {s t : State} {r : ToSeal} {l : Logbook} (h : x.seals t r l) (hl : t.log = s.log)
    (hp : t.position = s.position) (hd : t.dieUsable = s.dieUsable) : x.seals s r l := by
  have hseq := h.seq
  rw [State.ownSeq, hp, hl] at hseq
  exact ⟨hl ▸ h.recs, hl ▸ h.next, h.typ, h.colour, h.payload, h.card, hseq, hl ▸ h.prev, hl ▸ hd ▸ h.toA, hl ▸ hd ▸ h.toB⟩

theorem State.sealAsk_spec {s : State} (b : BerthId) {c : Cur} (hf : s.log.full = false)
    (ha : s.hup.answerItem sealCost = .admitted) (hc : c.status = .ok) : ∃ x : LogRec, x.seals s (c.toSeal b) (s.sealAsk b c).log ∧
      ((s.sealAsk b c).dies.drop s.dies.length).map (·.kind) =
        (if x.durA then [] else [.logCopy x.seq false]) ++ (if x.durB then [] else [.logCopy x.seq true]) ∧
      (s.sealAsk b c).hup.d = s.hup.d + sealCost ∧ (s.sealAsk b c).waitsDurable b 1 (some x.seq) := by
  obtain ⟨x, hx⟩ := ((s.charged b { c with phase := .ledger } .sealed sealCost).untilDurable b
    (c.numbered (s.ownSeq s.log.next)) 1).sealRec_seals (c.toSeal b)
  rw [← State.sealAsk_of_admitted b hf ha] at hx
  have hseal : x.seals s (c.toSeal b) (s.sealAsk b c).log := hx.sealed.of_same rfl rfl rfl
  refine ⟨x, hseal, hx.dies, ?_, ?_⟩
  · rw [hx.hup]
    exact Hup.d_take ha (by decide) _
  · rw [hseal.seq]
    refine State.waitsDurable_of_berth (s := s.charged b { c with phase := .ledger } .sealed sealCost)
      (c := c.numbered (s.ownSeq s.log.next)) ?_ hc
    exact congrArg (fun v : Vector Berth _ => v[b]) hx.berths

/-- A SEAL whose payload is not there yet. -/
def sealCur (q : QInstr) (d : List Byte) : Cur := { Cur.init q .data with len := q.sealLen, acc := d }

section
variable {s : State} {b : BerthId} {q : QInstr}

/-- Where a SEAL or a LOGREAD names scratch. -/
def QInstr.scratchOff (q : QInstr) : Option Nat := if q.xc = 1 then some (bits (q.extWord 0) 0 18) else none

/-- A SEAL that takes its payload from scratch. -/
def State.sealScratch (s : State) (b : BerthId) (q : QInstr) : State :=
  match s.scratchData b (some (bits (q.extWord 0) 0 18)) q.sealLen with
  | (none, s) => s.finish b q .memUncorrectable
  | (some d, s) => s.sealAsk b (sealCur q d)

/-- A SEAL that passes its checks takes its payload. -/
theorem State.sealBody_of_passed (hf : q.only [fDst, fSrcA, (42, 1), fXc, (18, 20), (0, 12)] = true) (hl : q.sealLen ≤ 2048)
    (ht : bit q.sealType 15 = true) (hx : q.xc ≤ 1) (hg : q.modeBit 2 = true → q.xc = 0 ∧ q.sealLen ≤ 8 * (16 - q.srcA))
    (hw : q.xc = 1 → scratchWordOk (q.extWord 0) = true ∧ (s.berth b).misfit (some (bits (q.extWord 0) 0 18)) q.sealLen = false)
    (hp : ∀ o, q.scratchOff = some o → (s.scratchPlace b o q.sealLen).1 = .ok)
    (hfn : s.log.fenced = false) (hfu : s.log.full = false) (hc : (s.berth b).has q.sealColour.toNat = true)
    (hr : s.recordsReady) : s.sealBody b q =
      if q.modeBit 2 then s.sealAsk b (sealCur q (regsPayload (s.berth b) q))
      else if q.xc = 1 then s.sealScratch b q
      else (s.withCur b (sealCur q [])).sealData b := by
  have hregs : (q.modeBit 2 && (q.xc == 1 || decide (8 * (16 - q.srcA) < q.sealLen))) = false := by
    rw [Bool.and_eq_false_imp]
    intro h
    obtain ⟨h0, h1⟩ := hg h
    simp [h0, h1]
  have hscr : (!(q.xc == 1) || (scratchWordOk (q.extWord 0) &&
      !(s.berth b).misfit (some (bits (q.extWord 0) 0 18)) q.sealLen)) = true := by
    by_cases h : q.xc = 1
    · simp [hw h]
    · simp [h]
  have hok : (q.only [fDst, fSrcA, (42, 1), fXc, (18, 20), (0, 12)] && q.xc ≤ 1 && q.sealLen ≤ 2048 && bit q.sealType 15 &&
      !(q.modeBit 2 && (q.xc == 1 || decide (8 * (16 - q.srcA) < q.sealLen))) && (!(q.xc == 1) || (scratchWordOk (q.extWord 0) &&
        !(s.berth b).misfit (some (bits (q.extWord 0) 0 18)) q.sealLen))) = true := by
    simp only [hf, hx, hl, ht, hregs, hscr, decide_true, Bool.and_self, Bool.not_false]
  simp only [State.sealBody, State.checked_of_ok hok, hfn, hfu, State.coloured_of_has_one hc, Bool.false_eq_true, if_false,
    beq_iff_eq]
  rw [State.spanned_of_fits (scratch := if q.xc = 1 then _ else none) hp, State.onRecords_of_ready hr]
  rfl

/-- With its parcels there, a SEAL comes before the ledger. -/
theorem State.sealData_of_data {d : List Byte} (hl : d.length = q.sealLen) (hd : q.sealLen = 0 ∨ s.dataFor b q none d) :
    ∃ ch t t', (s.withCur b (sealCur q [])).sealData b =
      ((s.withChunks b ch).withCur b ((sealCur q []).withData d t)).sealAsk b ((sealCur q []).withData d t') := by
  have hg : ∃ ch t, State.gather ((s.berth b).chunks.length + (sealCur q []).len + 1) b (sealCur q []).len
      (sealCur q []).len (s.withCur b (sealCur q [])) = (.got d, (s.withChunks b ch).withCur b ((sealCur q []).withData d t)) := by
    rw [show (sealCur q []).len = d.length from hl.symm]
    obtain h0 | hd := hd
    · have hnil : d = [] := List.eq_nil_of_length_eq_zero (hl.trans h0)
      refine ⟨(s.berth b).chunks, false, ?_⟩
      rw [State.gather_enough _ _ (by simp [hnil]), State.withChunks_self, hnil]
      rfl
    · exact State.gather_dataFor rfl (by omega) hd
  obtain ⟨ch, t, hg⟩ := hg
  refine ⟨ch, t, (((s.withChunks b ch).withCur b ((sealCur q []).withData d t)).berth b).tookLast, ?_⟩
  simp only [State.sealData, State.berth_withCur, hg]
  rfl

end

/-! ### CHECKPT (R204, R280) -/

/-- A CHECKPT that has its checkpoint. -/
def checkptCur (q : QInstr) : Cur := { Cur.init q .ledger with done := 1 }

section
variable {s : State} {b : BerthId} {q : QInstr}

theorem State.checkptBody_of_passed (hf : q.only [fDst] = true) (hfn : s.log.fenced = false) (hfu : s.log.full = false)
    (hr : s.recordsReady) (ha : s.hup.answerItem sealCost = .admitted) : s.checkptBody b q =
      ((s.charged b (Cur.init q .ledger) .sealed sealCost).untilDurable b (checkptCur q) 1).startCheckpoint (some b) sealCost := by
  have hfu' : (s.charged b (Cur.init q .ledger) .sealed sealCost).log.full = false := hfu
  simp only [State.checkptBody, State.checked_of_ok hf, hfn, hfu, State.onRecords_of_ready hr, State.askSeal_of_admitted ha,
    State.checkptGo, State.berth_charged, hfu', Bool.false_eq_true, if_false]
  rfl

/-- The order to the members, beside which a checkpoint starts, changes nothing but the cascade's. -/
theorem State.command_frame (s : State) (e : CartridgeEvent) : s.command e = { s with quy := (s.command e).quy } := by
  unfold State.command
  split_ifs <;> rfl

/-- The checkpoint that starts now. -/
def State.cpStarted (s : State) (owner : Option BerthId) (cost : Nat) : CpSigning :=
  { through := s.log.next - 1, head := s.log.prevHash, owner := owner, cost := cost, asked := s.now
    heads := Vector.replicate 4 none }

theorem State.startCheckpoint_eq (s : State) (owner : Option BerthId) (cost : Nat) : s.startCheckpoint owner cost =
    { s with
      quy := (s.command .checkpointFetch).quy
      log := { s.log with signing := s.log.signing ++ [s.cpStarted owner cost] } } := by
  rw [State.startCheckpoint, State.command_frame]
  rfl

end

/-! ### CTRINC (R205, R293, R294) -/

/-- A CTRINC in progress. -/
def ctrCur (q : QInstr) (amount : Nat) : Cur := { Cur.init q .ledger with target := amount }

/-- The live mirrors of a counter are programmed. -/
def State.mirrorsTo (s : State) (n : Fin 32) (v : W64) (b : BerthId) : State :=
  let t := if s.ctr.liveA then s.addDie (.ctrMirror n v false (some b) sealCost) else s
  if t.ctr.liveB then t.addDie (.ctrMirror n v true (some b) sealCost) else t

/-- The operations that program the live mirrors. -/
def State.mirrorKinds (s : State) (n : Fin 32) (v : W64) (b : BerthId) : List DieKind :=
  (if s.ctr.liveA then [.ctrMirror n v false (some b) sealCost] else []) ++
    if s.ctr.liveB then [.ctrMirror n v true (some b) sealCost] else []

theorem State.kinds_mirrorsTo (s : State) (n : Fin 32) (v : W64) (b : BerthId) :
    (s.mirrorsTo n v b).dies.map (·.kind) = s.dies.map (·.kind) ++ s.mirrorKinds n v b := by
  unfold State.mirrorsTo State.mirrorKinds
  cases s.ctr.liveA <;> cases hB : s.ctr.liveB <;> simp [hB, State.kinds_addDie]

theorem State.berths_mirrorsTo (s : State) (n : Fin 32) (v : W64) (b : BerthId) : (s.mirrorsTo n v b).berths = s.berths := by
  unfold State.mirrorsTo
  cases s.ctr.liveA <;> cases hB : s.ctr.liveB <;> simp [hB]

/-- A step of a counter is logged: sealed, counted, or neither. -/
def State.logStep (s : State) (logs sealed : Bool) (r : ToSeal) : State :=
  if !logs then s
  else if !sealed then { s with log := { s.log with unsealed := satInc s.log.unsealed } }
  else s.sealRec r

theorem State.kinds_sealRec (s : State) (r : ToSeal) : ∃ ks, (s.sealRec r).dies.map (·.kind) = s.dies.map (·.kind) ++ ks := by
  obtain ⟨x, l, t, n, hu, -⟩ := s.sealRec_spec r
  exact ⟨_, hu ▸ State.kinds_addCopies _ _ _ _⟩

theorem State.logStep_spec (s : State) (logs sealed : Bool) (r : ToSeal) : (s.logStep logs sealed r).berths = s.berths ∧
    ∃ ks, (s.logStep logs sealed r).dies.map (·.kind) = s.dies.map (·.kind) ++ ks := by
  unfold State.logStep
  split_ifs
  · exact ⟨rfl, [], (List.append_nil _).symm⟩
  · exact ⟨rfl, [], (List.append_nil _).symm⟩
  · obtain ⟨x, hx⟩ := s.sealRec_seals r
    exact ⟨hx.berths, s.kinds_sealRec r⟩

/-- The value after a step, held at 2^64 - 1. -/
def heldSum (old : W64) (amount : Nat) : W64 :=
  if 2 ^ 64 ≤ old.toNat + amount then BitVec.allOnes 64 else BitVec.ofNat 64 (old.toNat + amount)

theorem heldSum_eq (old : W64) (amount : Nat) : heldSum old amount = BitVec.ofNat 64 (min (old.toNat + amount) (2 ^ 64 - 1)) := by
  unfold heldSum
  split_ifs with h
  · rw [min_eq_right (by omega)]
    rfl
  · rw [min_eq_left (by omega)]

/-- A CTRINC whose value is programmed. -/
def Cur.stepped (c : Cur) (old : W64) : Cur :=
  { c with
    done := 1
    status := if 2 ^ 64 ≤ old.toNat + c.target then .saturated else .ok
    result := some (heldSum old c.target) }

section
variable {s : State} {b : BerthId} {q : QInstr}

theorem State.ctrincBody_of_passed (hf : q.only [fDst, fSrcA, (40, 1), (0, 5), (6, 33)] = true)
    (h0 : 0 < ctrAmount (s.berth b) q) (h32 : ctrAmount (s.berth b) q ≤ 2 ^ 32) (hfn : bit s.ctr.fence q.counter = false)
    (hv : (s.counter q.counter).value.isSome = true) (hA : badPair (s.counter q.counter).a = false)
    (hB : badPair (s.counter q.counter).b = false)
    (hc : ctrBound (s.counter q.counter).cfg.val = true → (s.berth b).has (ctrColour (s.counter q.counter).cfg.val) = true)
    (hr : s.recordsReady) (ha : s.hup.answerItem sealCost = .admitted) : s.ctrincBody b q =
      (s.charged b (ctrCur q (ctrAmount (s.berth b) q)) .sealed sealCost).ctrincGo b true := by
  have hok : (q.only [fDst, fSrcA, (40, 1), (0, 5), (6, 33)] && 0 < ctrAmount (s.berth b) q &&
      ctrAmount (s.berth b) q ≤ 2 ^ 32) = true := by
    simp only [hf, h0, h32, decide_true, Bool.and_self]
  have hfen : s.ctrFenced q.counter = false := by
    rw [State.ctrFenced, hfn, Option.isNone_eq_false_iff.2 hv]
    rfl
  obtain ⟨v, hv⟩ := Option.isSome_iff_exists.1 hv
  have hbound : (ctrBound (s.counter q.counter).cfg.val && !(s.berth b).has (ctrColour (s.counter q.counter).cfg.val)) = false := by
    rw [Bool.and_eq_false_imp]
    exact fun h => by rw [hc h, Bool.not_true]
  simp only [State.ctrincBody, State.checked_of_ok hok, State.checkCounter_of_good hv hA hB, hfen, hbound,
    State.onRecords_of_ready hr, State.askSeal_of_admitted ha, Bool.false_eq_true, if_false]
  rfl

theorem State.ctrincGo_charged_saturated {c : Cur} (h : s.steppedValue c.ins.counter = BitVec.allOnes 64) :
    (s.charged b c .sealed sealCost).ctrincGo b true = ((s.charged b c .sealed sealCost).creditItem .sealed sealCost).finish b
      c.ins .saturated 0 none (some (BitVec.allOnes 64)) := by
  have h' : (s.charged b c .sealed sealCost).steppedValue c.ins.counter = BitVec.allOnes 64 := h
  simp only [State.ctrincGo, State.berth_charged, h', if_true]

theorem State.ctrincGo_charged_step {c : Cur} (h : s.steppedValue c.ins.counter ≠ BitVec.allOnes 64) :
    let old := s.steppedValue c.ins.counter
    let logs := ctrLogs (s.counter c.ins.counter).cfg.val
    let t := s.charged b c .sealed sealCost
    let n := (if s.ctr.liveA then 1 else 0) + (if s.ctr.liveB then 1 else 0) + if logs && !s.log.exhausted then 1 else 0
    t.ctrincGo b true = (((t.untilDurable b (c.stepped old) n).mirrorsTo c.ins.counter (heldSum old c.target) b).logStep logs
      (logs && !s.log.exhausted)
      { typ := 0x33, colour := 0, card := true, owner := some b, cost := 0
        payload := [BitVec.ofNat 8 c.ins.counter.val, 0, 0, 0] ++ leBytes 8 old.toNat ++
          leBytes 8 (heldSum old c.target).toNat }) := by
  have h' : (s.charged b c .sealed sealCost).steppedValue c.ins.counter ≠ BitVec.allOnes 64 := h
  intro old logs t n
  simp only [t, State.ctrincGo, State.berth_charged, if_neg h']
  rfl

/-! ### LOGREAD (R204, R286) -/

theorem State.state_waitFor (s : State) (b : BerthId) (why : WaitWhy) (c : Cur) : ((s.waitFor b why c).berth b).state = .waiting := by
  rw [State.waitFor, State.berth_modBerth]

/-- A LOGREAD in progress. -/
def logreadCur (q : QInstr) (first : W64) : Cur :=
  { Cur.init q .die with start := first.toNat, len := q.imm 0 32, scratch := q.scratchOff }

/-- The bytes that the images of `n` records take. -/
def State.imagesSize (s : State) (first : W64) (n : Nat) : Nat :=
  ((seqRange first n).map fun x => match s.log.find x with
    | some r => (80 + r.payload.length + 15) / 16 * 16
    | none => 80).sum

/-- The first record that a LOGREAD names, and the position that holds it. -/
def Berth.logFirst (x : Berth) (q : QInstr) : W64 := x.reg q.srcA
def Berth.logPos (x : Berth) (q : QInstr) : Nat := bits (x.logFirst q) 62 2

/-- The records lie outside their logbook. -/
def State.logOutside (s : State) (b : BerthId) (q : QInstr) : Prop :=
  ((s.berth b).logPos q = s.position ∧ (((s.berth b).logFirst q).toNat < (s.ownSeq s.log.old).toNat ∨
      (s.ownSeq s.log.next).toNat < ((s.berth b).logFirst q).toNat + q.imm 0 32)) ∨
    ((s.berth b).logPos q ≠ s.position ∧
      (bit s.quy.present ((s.berth b).logPos q) = false ∨ bit s.quy.lost ((s.berth b).logPos q) = true))

section
variable (hf : q.only [fDst, fSrcA, fXc, (0, 32)] = true) (hx : q.xc ≤ 1) (hw : q.xc = 1 → scratchWordOk (q.extWord 0) = true)
  (hg : s.gated 0 = false)
include hf hx hw hg

theorem State.logreadBody_of_zero (hn : q.imm 0 32 = 0) : s.logreadBody b q = s.finish b q .ok 0 none (some 0) := by
  have hok : (q.only [fDst, fSrcA, fXc, (0, 32)] && q.xc ≤ 1 && (!(q.xc == 1) || scratchWordOk (q.extWord 0))) = true := by
    simpa [hf, hx, imp_iff_not_or] using hw
  simp only [State.logreadBody, State.checked_of_ok hok, hg, hn, Bool.false_eq_true, if_false, if_true]

theorem State.logreadBody_of_outside (hn : q.imm 0 32 ≠ 0) (ho : s.logOutside b q) : s.logreadBody b q = s.refuse b q .range := by
  have hok : (q.only [fDst, fSrcA, fXc, (0, 32)] && q.xc ≤ 1 && (!(q.xc == 1) || scratchWordOk (q.extWord 0))) = true := by
    simpa [hf, hx, imp_iff_not_or] using hw
  have hout : (!(s.berth b).logPos q == s.position && (!bit s.quy.present ((s.berth b).logPos q) ||
      bit s.quy.lost ((s.berth b).logPos q)) || (s.berth b).logPos q == s.position &&
        (decide (((s.berth b).logFirst q).toNat < (s.ownSeq s.log.old).toNat) ||
          decide ((s.ownSeq s.log.next).toNat < ((s.berth b).logFirst q).toNat + q.imm 0 32))) = true := by
    rw [State.logOutside, or_comm] at ho
    simpa using ho
  simp only [State.logreadBody, State.checked_of_ok hok, hg, if_neg hn, Bool.false_eq_true, if_false]
  exact if_pos hout

/-- A LOGREAD of records that are there reads the dies, or asks the member that holds them. -/
theorem State.logreadBody_of_inside (hn : q.imm 0 32 ≠ 0) (ho : ¬s.logOutside b q)
    (hc : (s.berth b).has (s.region 0).colour = true) (size : Nat)
    (hs : size = if (s.berth b).logPos q = s.position then s.imagesSize ((s.berth b).logFirst q) (q.imm 0 32) else 0)
    (hm : (s.berth b).misfit q.scratchOff size = false)
    (hp : ∀ o, q.scratchOff = some o → (s.scratchPlace b o size).1 = .ok) (hfl : s.flashReady) : s.logreadBody b q =
      if (s.berth b).logPos q = s.position then (s.waitFor b .die (logreadCur q ((s.berth b).logFirst q))).addDie (.read b)
      else (s.waitFor b .cascade { logreadCur q ((s.berth b).logFirst q) with phase := .cascade }).delegate b
        [Fin.ofNat 4 ((s.berth b).logPos q)] := by
  have hok : (q.only [fDst, fSrcA, fXc, (0, 32)] && q.xc ≤ 1 && (!(q.xc == 1) || scratchWordOk (q.extWord 0))) = true := by
    simpa [hf, hx, imp_iff_not_or] using hw
  have hout : (!(s.berth b).logPos q == s.position && (!bit s.quy.present ((s.berth b).logPos q) ||
      bit s.quy.lost ((s.berth b).logPos q)) || (s.berth b).logPos q == s.position &&
        (decide (((s.berth b).logFirst q).toNat < (s.ownSeq s.log.old).toNat) ||
          decide ((s.ownSeq s.log.next).toNat < ((s.berth b).logFirst q).toNat + q.imm 0 32))) ≠ true := by
    rw [State.logOutside, or_comm] at ho
    simpa using ho
  unfold Berth.logPos Berth.logFirst at *
  simp only [State.logreadBody, State.checked_of_ok hok, hg, if_neg hn, Bool.false_eq_true, if_false]
  rw [if_neg hout, State.coloured_of_has_one hc]
  simp only [beq_iff_eq]
  change (if (s.berth b).misfit q.scratchOff (if _ then s.imagesSize _ _ else 0) = true then _
    else s.spanned b q q.scratchOff (if _ then s.imagesSize _ _ else 0) _) = _
  rw [← hs, hm, if_neg Bool.false_ne_true, State.spanned_of_fits hp, State.onFlash_of_ready hfl]
  rfl

end

end

/-! ### The four instructions together -/

/-- A SEAL whose payload is there comes before the ledger in a state with the logbook, the dies and the ledger of `s`. -/
theorem State.sealBody_asks {s : State} {b : BerthId} {q : QInstr} {d : List Byte}
    (hf : q.only [fDst, fSrcA, (42, 1), fXc, (18, 20), (0, 12)] = true) (hl : q.sealLen ≤ 2048) (ht : bit q.sealType 15 = true)
    (hfn : s.log.fenced = false) (hfu : s.log.full = false) (hc : (s.berth b).has q.sealColour.toNat = true)
    (hlen : d.length = q.sealLen) (hr : s.recordsReady)
    (hd : q.modeBit 2 = true ∧ q.xc = 0 ∧ q.sealLen ≤ 8 * (16 - q.srcA) ∧ d = regsPayload (s.berth b) q ∨
      q.modeBit 2 = false ∧ q.xc = 0 ∧ (q.sealLen = 0 ∨ s.dataFor b q none d) ∨
      q.modeBit 2 = false ∧ q.xc = 1 ∧ scratchWordOk (q.extWord 0) = true ∧
        (s.berth b).misfit (some (bits (q.extWord 0) 0 18)) q.sealLen = false ∧
        s.dataFor b q (some (bits (q.extWord 0) 0 18)) d) :
    ∃ (t : State) (c : Cur), s.sealBody b q = t.sealAsk b c ∧ c.ins = q ∧ c.acc = d ∧ c.status = .ok ∧ t.log = s.log ∧ t.hup = s.hup ∧
      t.dies = s.dies ∧ t.position = s.position ∧ t.dieUsable = s.dieUsable := by
  obtain ⟨hm, hx, hfit, rfl⟩ | ⟨hm, hx, hd⟩ | ⟨hm, hx, hw, hfit, hpl, hread⟩ := hd
  · have hoff : q.scratchOff = none := if_neg (by omega)
    have hbody := State.sealBody_of_passed hf hl ht (by omega) (fun _ => ⟨hx, hfit⟩) (fun h => by omega)
      (fun o ho => by simp [hoff] at ho) hfn hfu hc hr
    rw [hm, if_pos rfl] at hbody
    exact ⟨_, _, hbody, rfl, rfl, rfl, rfl, rfl, rfl, rfl, rfl⟩
  · have hoff : q.scratchOff = none := if_neg (by omega)
    have hbody := State.sealBody_of_passed hf hl ht (by omega) (fun h => by simp [hm] at h) (fun h => by omega)
      (fun o ho => by simp [hoff] at ho) hfn hfu hc hr
    obtain ⟨ch, t, t', hdata⟩ := State.sealData_of_data hlen hd
    rw [hm, if_neg Bool.false_ne_true, if_neg (by omega), hdata] at hbody
    exact ⟨_, _, hbody, rfl, rfl, rfl, rfl, rfl, rfl, rfl, rfl⟩
  · have hoff : q.scratchOff = some (bits (q.extWord 0) 0 18) := if_pos hx
    have hbody := State.sealBody_of_passed hf hl ht (by omega) (fun h => by simp [hm] at h) (fun _ => ⟨hw, hfit⟩)
      (fun o ho => by
        rw [hoff, Option.some.injEq] at ho
        rwa [← ho, ← hlen]) hfn hfu hc hr
    rw [hlen] at hread
    rw [hm, if_neg Bool.false_ne_true, if_pos hx, State.sealScratch, State.scratchData, hread] at hbody
    exact ⟨_, _, hbody, rfl, rfl, rfl, rfl, rfl, rfl, rfl, rfl⟩

/-- What an admitted CTRINC leaves: the mirrors' operations first, and the berth waiting for them. -/
theorem State.ctrincGo_charged_spec {s : State} {b : BerthId} {c : Cur} (h : s.steppedValue c.ins.counter ≠ BitVec.allOnes 64) :
    let u := (s.charged b c .sealed sealCost).ctrincGo b true
    let new := heldSum (s.steppedValue c.ins.counter) c.target
    let ms := s.mirrorKinds c.ins.counter new b
    ((u.dies.drop s.dies.length).map (·.kind)).take ms.length = ms ∧ (u.berth b).cur = some
      { c.stepped (s.steppedValue c.ins.counter) with
        phase := .durable
        open_ := ms.length + if ctrLogs (s.counter c.ins.counter).cfg.val && !s.log.exhausted then 1 else 0 } := by
  intro u new ms
  have hlen : ms.length = (if s.ctr.liveA then 1 else 0) + if s.ctr.liveB then 1 else 0 := by
    simp only [ms, State.mirrorKinds]
    cases s.ctr.liveA <;> cases s.ctr.liveB <;> rfl
  have hu : u = _ := State.ctrincGo_charged_step h
  rw [← hlen] at hu
  generalize (ctrLogs (s.counter c.ins.counter).cfg.val && !s.log.exhausted) = sealed at hu ⊢
  generalize ht : (s.charged b c .sealed sealCost).untilDurable b (c.stepped (s.steppedValue c.ins.counter)) _ = t at hu
  obtain ⟨hb, ks, hk⟩ := (t.mirrorsTo c.ins.counter new b).logStep_spec _ _ _
  rw [← hu] at hb hk
  refine ⟨?_, ?_⟩
  · have hd : t.dies = s.dies := ht ▸ rfl
    have hms : t.mirrorKinds c.ins.counter new b = ms := ht ▸ rfl
    rw [State.kinds_mirrorsTo, hd, hms, List.append_assoc] at hk
    rw [kinds_drop hk, List.take_left' rfl]
  · have hbt : u.berth b = t.berth b := congrArg (fun v : Vector Berth _ => v[b]) (hb.trans (State.berths_mirrorsTo _ _ _ _))
    rw [hbt, ← ht, State.berth_untilDurable]

/-- Settles O35: each instruction passes its checks and is put before the ledger or the dies, and what it does there is said
once for a record, a checkpoint, a counter's mirrors and the images of records. -/
theorem recordsComplete : Obligations.RecordsComplete := by
  unfold Obligations.RecordsComplete
  intro s b q hrun s'
  refine ⟨fun hr ha => ⟨fun d hq hf hl ht hfn hfu hc hlen hd => ?_, fun hq hf hfn hfu => ?_,
    fun hq hf => ?_⟩, fun hq hf hx hw hg => ?_⟩
  · obtain ⟨t, c, hbody, rfl, rfl, hst, hlog, hhup, hdies, hpos, huse⟩ := State.sealBody_asks hf hl ht hfn hfu hc hlen hr hd
    obtain ⟨x, hx, hk, hd', hw⟩ := State.sealAsk_spec (s := t) b (c := c) (hlog ▸ hfu) (hhup ▸ ha) hst
    rw [← hbody] at hx hk hd' hw
    rw [hhup] at hd'
    rw [hdies] at hk
    have hx := hx.of_same hlog hpos huse
    exact ⟨_, x, turn_of_op hrun hq rfl fun q s => s.sealBody b q, hx.recs, hx.next, hx.typ, hx.colour, hx.payload, hx.seq,
      hx.prev, hx.card, hk, hx.toA, hx.toB, hd', hw⟩
  · have hbody := State.checkptBody_of_passed (b := b) hf hfn hfu hr ha
    rw [State.startCheckpoint_eq] at hbody
    exact ⟨_, State.cpStarted _ _ _, exec_next_congr (turn_of_op hrun hq rfl fun q s => s.checkptBody b q) hbody, rfl, rfl, rfl,
      rfl, rfl, rfl, rfl, State.waitsDurable_untilDurable _ b 1 rfl⟩
  · intro n amount old h0 h32 hfn hv hA hB hc
    have hbody := State.ctrincBody_of_passed hf h0 h32 hfn hv hA hB hc hr ha
    refine ⟨fun hold => ?_, fun hold => ?_⟩
    · rw [State.ctrincGo_charged_saturated (c := ctrCur q _) hold] at hbody
      refine ⟨_, exec_next_congr (turn_of_op hrun hq rfl fun q s => s.ctrincBody b q) hbody, ?_, ?_, ?_⟩
      · rw [State.completesTo_finish]
        rfl
      · rw [hold]
        exact State.reg_finish _ b q _ _ _ _
      · exact State.lastStat_finish _ b (by rw [ctrCur, Cur.init, hq]; rfl) _ _ _ _
    intro new ms
    obtain ⟨hk, hcur⟩ := State.ctrincGo_charged_spec (b := b) (c := ctrCur q amount) hold
    have hnew : heldSum old amount = new := heldSum_eq old amount
    rw [← hbody] at hk hcur
    rw [show heldSum (s'.steppedValue (ctrCur q amount).ins.counter) (ctrCur q amount).target = new from hnew] at hk hcur
    exact ⟨_, _, turn_of_op hrun hq rfl fun q s => s.ctrincBody b q, hk, hcur, rfl, congrArg some hnew, rfl, rfl⟩
  · have hturn := turn_of_op hrun hq rfl fun q s => s.logreadBody b q
    intro first m p off size fits
    refine ⟨fun hn => ?_, fun hn ho => ?_, fun hn hp hlo hhi hc hfit hfl => ?_, fun hn hp hpr hlo hc hfit hfl => ?_⟩
    · exact exec_next_congr hturn (State.logreadBody_of_zero hf hx hw hg hn)
    · exact exec_next_congr hturn (State.logreadBody_of_outside hf hx hw hg hn ho)
    · have hin : ¬s'.logOutside b q := fun h => by
        obtain ⟨-, h | h⟩ | ⟨h, -⟩ := h
        · exact absurd hlo (Nat.not_le.2 h)
        · exact absurd hhi (Nat.not_le.2 h)
        · exact h hp
      have hbody := State.logreadBody_of_inside hf hx hw hg hn hin hc size (if_pos hp).symm hfit.1 hfit.2 hfl
      rw [if_pos (show (s'.berth b).logPos q = s'.position from hp)] at hbody
      refine ⟨_, exec_next_congr hturn hbody, kinds_drop (State.kinds_addDie _ _), ?_, rfl⟩
      exact State.state_waitFor _ b _ _
    · have hin : ¬s'.logOutside b q := fun h => by
        obtain ⟨h, -⟩ | ⟨-, h | h⟩ := h
        · exact hp h
        · exact absurd (h.symm.trans hpr) Bool.false_ne_true
        · exact absurd (hlo.symm.trans h) Bool.false_ne_true
      have hbody := State.logreadBody_of_inside hf hx hw hg hn hin hc 0 (if_neg hp).symm hfit.1 hfit.2 hfl
      rw [if_neg (show ¬(s'.berth b).logPos q = s'.position from hp)] at hbody
      refine ⟨_, exec_next_congr hturn hbody, State.state_waitFor _ b _ _, ?_⟩
      have hp4 : p % 4 = p := Nat.mod_mod _ _
      exact (congrArg _ (List.drop_left' rfl)).trans (congrArg (fun n => [(b, n)]) hp4)

end Sys2Proof.Machine
end

section
/-! PROOFS. SESSION (O37). -/

namespace Sys2Proof.Machine

/-! ### The form of a SESSION (R171, R208) -/

/-- The extension words that a SESSION takes. -/
def QInstr.sessionXc (q : QInstr) : Bool :=
  if q.mode ≠ 0 ∨ q.imm 0 4 = 0 then q.xc == 0 else if q.imm 0 4 < 8 then q.xc == 2 else q.xc ≤ 1

section
variable {s : State} {b : BerthId} {q : QInstr}

/-- A SESSION of a colour that the berth is to hold. -/
theorem State.sessionBody_of_open (hm : q.mode = 0) (hf : q.only [fSrcB, fXc, (0, 4)] = true) (hx : q.sessionXc = true) :
    s.sessionBody b q = if q.imm 0 4 = 0 then s.finish b q .ok
      else if q.imm 0 4 < 8 then s.sessionPassword b q (q.imm 0 4) else s.sessionResponse b q (q.imm 0 4) := by
  unfold State.sessionBody
  extract_lets colour xcOk fs
  have hfs : fs = [fSrcB, fXc, (0, 4)] := by simp [fs, hm]
  have hxc : xcOk = q.sessionXc := rfl
  have hok : (q.mode ≤ 3 && q.only fs && xcOk) = true := by simp [hm, hfs, hf, hxc, hx]
  rw [State.checked_of_ok hok, hm]
  rfl

/-- A SESSION that asks for a challenge. -/
theorem State.sessionBody_of_challenge (hm : q.mode = 1) (hf : q.only ([fSrcB, fXc, (0, 4)] ++ [fDst]) = true) (hx : q.xc = 0) :
    s.sessionBody b q = if (s.berth b).session.pause = 0 then s.giveChallenge b q
      else s.waitFor b .waitt (Cur.init q .challenge) := by
  unfold State.sessionBody
  extract_lets colour xcOk fs
  have hfs : fs = [fSrcB, fXc, (0, 4)] ++ [fDst] := by simp only [fs, hm, if_true]
  have hxc : xcOk = true := by simp [xcOk, hm, hx]
  have hok : (q.mode ≤ 3 && q.only fs && xcOk) = true := by
    rw [hm, hfs, hf, hxc]
    rfl
  rw [State.checked_of_ok hok, hm]
  rfl

/-- A SESSION that closes colours. -/
theorem State.sessionBody_of_close (h2 : 2 ≤ q.mode) (h3 : q.mode ≤ 3) (hf : q.only [fSrcB, fXc, (0, 4)] = true) (hx : q.xc = 0) :
    s.sessionBody b q = (s.closeColours b (q.mode == 3) (q.imm 0 4)).finish b q .ok := by
  unfold State.sessionBody
  extract_lets colour xcOk fs
  have hfs : fs = [fSrcB, fXc, (0, 4)] := by simp [fs, show q.mode ≠ 1 by omega]
  have hok : (q.mode ≤ 3 && q.only fs && xcOk) = true := by simp [h3, hfs, hf, xcOk, hx, show q.mode ≠ 0 by omega]
  rw [State.checked_of_ok hok]
  obtain hm | hm : q.mode = 2 ∨ q.mode = 3 := by omega
  all_goals
    rw [hm]
    rfl

theorem QInstr.sessionXc_of_password (hm : q.mode = 0) (h1 : 1 ≤ q.imm 0 4) (h7 : q.imm 0 4 ≤ 7) (hx : q.xc = 2) :
    q.sessionXc = true := by
  have h : ¬(q.mode ≠ 0 ∨ q.imm 0 4 = 0) := by omega
  rw [QInstr.sessionXc, if_neg h, if_pos (by omega)]
  simp [hx]

theorem QInstr.sessionXc_of_response (hm : q.mode = 0) (h8 : 8 ≤ q.imm 0 4) (hx : q.xc ≤ 1) : q.sessionXc = true := by
  have h : ¬(q.mode ≠ 0 ∨ q.imm 0 4 = 0) := by omega
  rw [QInstr.sessionXc, if_neg h, if_neg (by omega)]
  simpa using hx

/-! ### Passwords (R221, R223) -/

theorem State.sessionBody_of_password (hm : q.mode = 0) (hf : q.only [fSrcB, fXc, (0, 4)] = true) (h1 : 1 ≤ q.imm 0 4)
    (h7 : q.imm 0 4 ≤ 7) (hx : q.xc = 2) : s.sessionBody b q = s.sessionPassword b q (q.imm 0 4) := by
  rw [State.sessionBody_of_open hm hf (QInstr.sessionXc_of_password hm h1 h7 hx), if_neg (by omega), if_pos (by omega)]

theorem State.sessionPassword_of_tries {k : Nat} {p : Password} (hp : s.grd.colourPw.getD k none = some p) (ht : s.grd.tries < 5) :
    s.sessionPassword b q k = if (s.tryPassword b p q.key).1 then ((s.tryPassword b p q.key).2.openColour b k).finish b q .ok
      else (s.tryPassword b p q.key).2.finish b q .badPassword := by
  have hb : s.entryBlocked = false := decide_eq_false (by omega)
  simp only [State.sessionPassword, hp, hb, Bool.false_eq_true, if_false]

theorem State.sessionPassword_of_none {k : Nat} (hp : s.grd.colourPw.getD k none = none) :
    s.sessionPassword b q k = s.finish b q .badPassword := by
  simp only [State.sessionPassword, hp]

theorem State.sessionPassword_of_blocked {k : Nat} (hp : s.grd.colourPw.getD k none ≠ none) (ht : 5 ≤ s.grd.tries) :
    s.sessionPassword b q k = s.finish b q .entryBlocked := by
  obtain ⟨p, hp⟩ := Option.ne_none_iff_exists'.1 hp
  have hb : s.entryBlocked = true := decide_eq_true ht
  simp only [State.sessionPassword, hp, hb, if_true]

theorem State.tryPassword_of_right {p : Password} (h : Config.passwordMac p.salt q.key = p.mac) :
    s.tryPassword b p q.key = (true, { s with grd := { s.grd with tries := 0 } }) := if_pos h

/-- A wrong password is counted. -/
def State.counted (s : State) : State := { s with grd := { s.grd with tries := s.grd.tries + 1 } }

theorem State.tryPassword_of_wrong {p : Password} (h : Config.passwordMac p.salt q.key ≠ p.mac) : s.tryPassword b p q.key =
    (false, if s.counted.entryBlocked then
      s.counted.lockRecord (bits s.grd.lock.val 0 2) (bits s.grd.lock.val 0 2) 0 b else s.counted) := if_neg h

/-! ### Responses (R222) -/

/-- What a response leaves. -/
theorem State.judgeResponse_spec {ch : W64} {k : Nat} {d : List Byte} (hc : (s.berth b).session.chal = some ch)
    (hq : setsLastStat q.op = true) : let u := s.judgeResponse b q k d
    (colourKeyed k = true → (u.berth b).session.chal = none ∧
      (d = hmac (Config.colourKey k) (responseText ch k) → (u.berth b).lastStat = .ok ∧
        (u.berth b).session.set = setBit (s.berth b).session.set k) ∧
      (d ≠ hmac (Config.colourKey k) (responseText ch k) → (u.berth b).lastStat = .badPassword ∧
        (u.berth b).session.set = (s.berth b).session.set ∧ (u.berth b).session.pause = 64 ∧
        u.grd.hmacFail = satInc s.grd.hmacFail)) ∧
    (colourKeyed k = false → (u.berth b).lastStat = .badPassword ∧
      (u.berth b).session = { (s.berth b).session with chal := none }) := by
  intro u
  have hu : u = s.judgeResponse b q k d := rfl
  simp only [State.judgeResponse, hc] at hu
  by_cases hk : colourKeyed k = true
  · simp only [hk, Bool.not_true, Bool.false_eq_true, if_false] at hu
    refine ⟨fun _ => ?_, fun h => absurd (hk.symm.trans h) (by decide)⟩
    by_cases hd : d = hmac (Config.colourKey k) (responseText ch k)
    · rw [if_pos hd] at hu
      rw [hu, State.session_finish, State.lastStat_finish _ _ hq]
      refine ⟨?_, fun _ => ⟨rfl, ?_⟩, fun h => absurd hd h⟩
      all_goals simp only [State.openColour, State.berth_modBerth]
    · rw [if_neg hd] at hu
      have hsess : (u.berth b).session = { (s.berth b).session with chal := none, pause := 64 } := by
        have hone := congrArg Berth.session (State.berth_modBerth s b fun x => { x with session := { x.session with chal := none } })
        rw [hu, State.session_finish, State.berth_modBerth]
        exact congrArg (fun x : Session => { x with pause := 64 }) hone
      have hgrd : u.grd.hmacFail = satInc s.grd.hmacFail := by
        rw [hu, State.completesTo_finish]
        rfl
      rw [hsess]
      exact ⟨rfl, fun h => absurd h hd, fun _ => ⟨hu ▸ State.lastStat_finish _ _ hq _ _ _ _, rfl, rfl, hgrd⟩⟩
  · rw [Bool.not_eq_true] at hk
    simp only [hk, Bool.not_false, if_true] at hu
    refine ⟨fun h => absurd (hk.symm.trans h) (by decide), fun _ => ?_⟩
    rw [hu, State.lastStat_finish _ _ hq, State.session_finish, State.berth_modBerth]
    exact ⟨rfl, rfl⟩

/-- A response that is given in parcels or in scratch is judged in a state with the session and the guard of `s`. -/
theorem State.sessionBody_judges {ch : W64} {d : List Byte} (hm : q.mode = 0) (hf : q.only [fSrcB, fXc, (0, 4)] = true)
    (h8 : 8 ≤ q.imm 0 4) (hc : (s.berth b).session.chal = some ch) (hl : d.length = 32)
    (hd : q.xc = 0 ∧ s.dataFor b q none d ∨ q.xc = 1 ∧ scratchWordOk (q.extWord 0) = true ∧
      (s.berth b).misfit (some (bits (q.extWord 0) 0 18)) 32 = false ∧ s.dataFor b q (some (bits (q.extWord 0) 0 18)) d) :
    ∃ t : State, s.sessionBody b q = t.judgeResponse b q (q.imm 0 4) d ∧
      (t.berth b).session = (s.berth b).session ∧ t.grd = s.grd := by
  have hx : q.xc ≤ 1 := by omega
  rw [State.sessionBody_of_open hm hf (QInstr.sessionXc_of_response hm h8 hx), if_neg (by omega), if_neg (by omega),
    State.sessionResponse, hc]
  obtain ⟨hx, hd⟩ | ⟨hx, hw, hfit, hp, hread⟩ := hd
  · obtain ⟨cs, t, hg⟩ := State.gather_dataFor (c := Cur.init q .data) (n := (s.berth b).chunks.length + 33) rfl (by omega) hd
    rw [hl] at hg
    refine ⟨(s.withChunks b cs).withCur b ((Cur.init q .data).withData d t), ?_, ?_, rfl⟩
    · simp only [hx, show ((0 : Nat) == 1) = false from rfl, Bool.false_and, Bool.false_eq_true, if_false, Option.isNone_some]
      rw [← State.withCur, State.sessionData]
      simp only [State.berth_withCur, hg]
      rfl
    · rw [State.berth_withCur, State.berth_withChunks]
  · rw [hl] at hp hread
    refine ⟨s, ?_, rfl, rfl⟩
    simp only [hx, hw, hfit, BEq.rfl, Bool.not_true, Bool.or_self, Bool.and_false, Bool.false_eq_true, if_false,
      Option.isNone_some, if_true]
    rw [State.spanned_of_fits (by simpa using hp), State.scratchData, hread]

/-- A response without a challenge is refused. -/
theorem State.sessionBody_of_noChallenge (hm : q.mode = 0) (hf : q.only [fSrcB, fXc, (0, 4)] = true) (h8 : 8 ≤ q.imm 0 4)
    (hc : (s.berth b).session.chal = none) (hd : q.xc = 0 ∧ (s.berth b).kind = false ∨ q.xc = 1 ∧
      scratchWordOk (q.extWord 0) = true ∧ (s.berth b).misfit (some (bits (q.extWord 0) 0 18)) 32 = false) :
    s.sessionBody b q = s.finish b q .wrongState := by
  have hx : q.xc ≤ 1 := by omega
  rw [State.sessionBody_of_open hm hf (QInstr.sessionXc_of_response hm h8 hx), if_neg (by omega), if_neg (by omega),
    State.sessionResponse, hc]
  obtain ⟨hx, hk⟩ | ⟨hx, hw, hfit⟩ := hd
  · simp [hx, hk, State.sessionRefuse]
  · simp [hx, hw, hfit, State.sessionRefuse]

/-- A challenge stands in the session and in the result. -/
theorem State.giveChallenge_spec (s : State) (b : BerthId) (q : QInstr) : ∃ c : W64, let u := s.giveChallenge b q
    (u.berth b).session.chal = some c ∧ (u.berth b).reg q.dst = c ∧ (u.berth b).cur = none := by
  refine ⟨Config.freeWord s.draw.1, ?_, State.reg_finish _ b q _ _ _ _, State.cur_finish _ b q _ _ _ _⟩
  rw [State.giveChallenge, State.session_finish, State.berth_modBerth]

end

/-- Settles O37: each form of SESSION ends in one of the operations above, and what a berth's end leaves of its session, its
result and its last status says the rest. -/
theorem sessionsComplete : Obligations.SessionsComplete := by
  unfold Obligations.SessionsComplete
  refine ⟨fun s b q hrun => ?_, fun s b c hc hp h0 => ?_⟩
  · intro s' hq k done fs
    have hturn := turn_of_op hrun hq rfl fun q s => s.sessionBody b q
    have hset : setsLastStat q.op = true := by
      rw [hq]
      rfl
    refine ⟨fun hm hf hk hx => ?_, fun p hm hf h1 h7 hx hp ht => ?_, fun hm hf h1 h7 hx => ⟨fun hp => ?_, fun hp ht => ?_⟩,
      fun ch d hm hf h8 hc hl hd => ?_, fun hm hf h8 hc hd => ?_, fun hm hf hx => ⟨fun h0 => ?_, fun h0 => ?_⟩,
      fun h2 h3 hf hx => ?_⟩
    · have hxc : q.sessionXc = true := by simp [QInstr.sessionXc, show q.imm 0 4 = 0 from hk, hx]
      exact exec_next_congr hturn ((State.sessionBody_of_open hm hf hxc).trans (if_pos hk))
    · have hbody : s'.sessionBody b q = _ := (State.sessionBody_of_password hm hf h1 h7 hx).trans (State.sessionPassword_of_tries hp ht)
      refine ⟨fun hright => ?_, fun hwrong hlt => ?_, fun hwrong h4 => ?_⟩
      · rw [State.tryPassword_of_right hright] at hbody
        exact exec_next_congr hturn hbody
      · have hb : ¬s'.counted.entryBlocked = true := fun h =>
          absurd (of_decide_eq_true h) (Nat.not_le.2 (Nat.succ_lt_succ hlt))
        rw [State.tryPassword_of_wrong hwrong, if_neg hb] at hbody
        exact exec_next_congr hturn hbody
      · have hb : s'.counted.entryBlocked = true := decide_eq_true (Nat.succ_le_succ h4.ge)
        rw [State.tryPassword_of_wrong hwrong, if_pos hb] at hbody
        refine ⟨_, exec_next_congr hturn hbody, ?_, State.lastStat_finish _ b hset _ _ _ _, ?_⟩
        · rw [if_neg Bool.false_ne_true, State.completesTo_finish]
          rw [State.lockRecord, State.sealCard_frame]
          exact congrArg (· + 1) h4
        · rw [if_neg Bool.false_ne_true, State.session_finish]
          rw [State.lockRecord, State.sealCard_frame]
          rfl
    · exact exec_next_congr hturn ((State.sessionBody_of_password hm hf h1 h7 hx).trans (State.sessionPassword_of_none hp))
    · exact exec_next_congr hturn ((State.sessionBody_of_password hm hf h1 h7 hx).trans (State.sessionPassword_of_blocked hp ht))
    · obtain ⟨t, hbody, hsess, hgrd⟩ := State.sessionBody_judges hm hf h8 hc hl hd
      have hspec := State.judgeResponse_spec (s := t) (k := k) (d := d) (hsess ▸ hc) hset
      rw [hsess, hgrd] at hspec
      exact ⟨_, exec_next_congr hturn hbody, hspec⟩
    · exact exec_next_congr hturn (State.sessionBody_of_noChallenge hm hf h8 hc hd)
    · obtain ⟨c, hchal, hreg, -⟩ := s'.giveChallenge_spec b q
      exact ⟨_, c, exec_next_congr hturn ((State.sessionBody_of_challenge hm hf hx).trans (if_pos h0)), hchal, hreg,
        State.lastStat_finish _ b hset _ _ _ _⟩
    · exact exec_next_congr hturn ((State.sessionBody_of_challenge hm hf hx).trans (if_neg h0))
    · have hbody := State.sessionBody_of_close (s := s') (b := b) h2 h3 hf hx
      simp only [State.closeColours, beq_iff_eq] at hbody
      exact exec_next_congr hturn hbody
  · obtain ⟨v, hchal, hreg, hcur⟩ := s.giveChallenge_spec b c.ins
    have hend : exec (.challengePauseEnd b) s = .next (s.close (s.giveChallenge b c.ins)) := by
      change execChallengePauseEnd b s = _
      rw [execChallengePauseEnd, hc]
      exact if_pos ⟨hp, h0⟩
    exact ⟨_, v, hend, hchal, hreg, hcur⟩

end Sys2Proof.Machine
end

section
/-! PROOFS. Pool, scratch and memory errors (O44). -/

namespace Sys2Proof.Machine

/-! ### A memory whose bytes are kept by address -/

/-- A byte that is kept reads as before, any other as 0. -/
theorem Memory.read_filter {lo : Nat} {m : List Host.Cell} (p : Nat → Bool) (x : Nat) (h : Memory.above lo m = true) :
    Memory.read (m.filter fun c => p c.1) x = if p x then Memory.read m x else 0 := by
  induction m generalizing lo with
  | nil => simp [Memory.read]
  | cons c r ih =>
    obtain ⟨k, v⟩ := c
    obtain ⟨-, -, hr⟩ := (Memory.above_cons lo (k, v) r).1 h
    have hlt : x < k → Memory.read r x = 0 := fun hx => Memory.read_below hr (by simp; omega)
    have heq : k = x → Memory.read r x = 0 := fun hx => Memory.read_below hr (by simp; omega)
    rw [List.filter_cons]
    by_cases hk : p k = true
    · rw [if_pos hk, Memory.read, Memory.read, ih hr]
      by_cases hx : k = x
      · subst hx
        simp [hk]
      · simp only [if_neg hx]
        split_ifs <;> rfl
    · rw [if_neg hk, Memory.read, ih hr]
      by_cases hx : k = x
      · subst hx
        simp [hk]
      · rw [if_neg hx]
        by_cases hxk : x < k
        · simp [hxk, hlt hxk]
        · simp [hxk]

theorem Memory.read_clear {m : List Host.Cell} (a n x : Nat) (h : Memory.wf m = true) :
    Memory.read (Memory.clear m a n) x = if a ≤ x ∧ x < a + n then 0 else Memory.read m x := by
  rw [Memory.clear, Memory.read_filter (fun k => decide (k < a) || decide (a + n ≤ k)) x h]
  by_cases hx : a ≤ x ∧ x < a + n
  · simp [hx]
  · have hkeep : (decide (x < a) || decide (a + n ≤ x)) = true := by
      simp only [Bool.or_eq_true, decide_eq_true_eq]
      omega
    rw [if_pos hkeep, if_neg hx]

/-! ### Errors (R342 to R346) -/

section
variable {s : State}

/-- An uncorrectable error that has been counted and raised. -/
def State.ueCounted (s : State) (m : Fin 10) (a : W32) : State :=
  (s.setMem m { s.memOf m with ue := satInc (s.memOf m).ue, lastUe := a }).raise (ueSource m).1 (ueSource m).2 (ueUnit m)

theorem State.memUe_eq (s : State) (m : Fin 10) (a : W32) : s.memUe m a =
    let t := (s.ueCounted m a).remap m a
    let u := if m.val = 9 ∧ 16 ≤ (s.memOf m).remap.length then t.draw.2.raise 50 .degrade (.dram t.dramDevice) else t
    if m.val = 8 then u.unsetPage (memPage 8 a.toNat) else u := rfl

/-- Of a memory other than the retained SRAM and DRAM, an error is counted, raised and remapped, and that is all. -/
theorem State.memUe_of_core {m : Fin 10} (h : m.val ≤ 7) (a : W32) : s.memUe m a = (s.ueCounted m a).remap m a := by
  rw [State.memUe_eq]
  dsimp only
  rw [if_neg (by omega), if_neg (by omega)]

theorem State.memUe_retained (s : State) (a : W32) :
    s.memUe 8 a = ((s.ueCounted 8 a).remap 8 a).unsetPage (memPage 8 a.toNat) := by
  have h9 : ¬((8 : Fin 10).val = 9 ∧ 16 ≤ (s.memOf 8).remap.length) := fun h => absurd h.1 (by decide)
  rw [State.memUe_eq]
  dsimp only
  rw [if_pos (show (8 : Fin 10).val = 8 from rfl), if_neg h9]

theorem State.memUe_dram (s : State) (a : W32) : s.memUe 9 a =
    let t := (s.ueCounted 9 a).remap 9 a
    if 16 ≤ (s.memOf 9).remap.length then t.draw.2.raise 50 .degrade (.dram t.dramDevice) else t := by
  have h9 : ((9 : Fin 10).val = 9 ∧ 16 ≤ (s.memOf 9).remap.length) ↔ 16 ≤ (s.memOf 9).remap.length := by simp
  rw [State.memUe_eq]
  simp only [h9]
  rfl

/-- The memories from the control cores' on have no requester. -/
theorem State.requesterLost_of_core {m : Fin 10} (h : 3 ≤ m.val) (a : W32) : s.requesterLost m a = s := by
  obtain ⟨n, hn⟩ := m
  obtain ⟨k, rfl⟩ : ∃ k, n = k + 3 := ⟨n - 3, by simp at h; omega⟩
  rfl

theorem execMemoryUncorrectable_of_alive (ha : s.alive = true) (m : Fin 10) (a : W32) :
    exec (.memoryUncorrectable m a) s = .next (s.close ((s.memUe m a).requesterLost m a)) := if_pos ha

theorem execMemoryCorrected_of_alive (ha : s.alive = true) (m : Fin 10) (a : W32) (recurs : Bool) :
    exec (.memoryCorrected m a recurs) s = .next (s.close (s.memCe m a recurs)) := if_pos ha

/-- A corrected error that has been counted and raised. -/
def State.ceCounted (s : State) (m : Fin 10) (a : W32) : State :=
  (s.setMem m { s.memOf m with ce := satInc (s.memOf m).ce, lastCe := a }).raise (ceSource m) .note

theorem State.memCe_eq (s : State) (m : Fin 10) (a : W32) (recurs : Bool) :
    s.memCe m a recurs = if recurs then (s.ceCounted m a).remap m a else s.ceCounted m a := rfl

/-- A word is remapped while an entry is free; then its page is withdrawn (R344). -/
theorem State.remap_of_new {m : Fin 10} {a : W32} (h : (s.memOf m).remap.contains a = false) :
    ((s.memOf m).remap.length < 16 → ((s.remap m a).memOf m).remap = (s.memOf m).remap ++ [a]) ∧
      (16 ≤ (s.memOf m).remap.length → (s.memOf m).withdrawn.contains (memPage m a.toNat) = false → s.remap m a =
        (s.setMem m { s.memOf m with withdrawn := (s.memOf m).withdrawn ++ [memPage m a.toNat] }).raise 38 .degrade) := by
  refine ⟨fun hl => ?_, fun hl hw => ?_⟩
  · simp only [State.remap, h, if_pos hl, Bool.false_eq_true, if_false, State.memOf_setMem]
  · simp only [State.remap, h, if_neg (Nat.not_lt.2 hl), hw, Bool.false_eq_true, if_false]

/-- What of R414 lies in the page is unset, and the rest stays. -/
theorem State.unsetPage_spec (s : State) (p : Nat) :
    (Config.retainedPage 0 = p → (s.unsetPage p).rst.cause = 0) ∧ (Config.retainedPage 1 = p → (s.unsetPage p).grd.tries = 0) ∧
      (Config.retainedPage 2 = p → (s.unsetPage p).log.unsealed = s.log.unsealedKept) ∧
      (Config.retainedPage 4 = p → (s.unsetPage p).rst.strapFaults = 0 ∧ (s.unsetPage p).rst.trimTries = 0) ∧
      (s.unsetPage p).rst.bk = s.rst.bk ∧ (s.unsetPage p).store = s.store :=
  ⟨fun h => if_pos (beq_iff_eq.2 h), fun h => if_pos (beq_iff_eq.2 h), fun h => if_pos (beq_iff_eq.2 h),
    fun h => ⟨if_pos (beq_iff_eq.2 h), if_pos (beq_iff_eq.2 h)⟩, rfl, rfl⟩

end

/-- Settles O44: the memory's rules give the bytes; an error is the model's own count, source, remap and consequence, taken
memory by memory. -/
theorem memories : Obligations.Memories := by
  unfold Obligations.Memories
  refine ⟨fun m a v hm => ⟨Memory.wf_write a v hm, Memory.read_write_same a v hm, fun x hx => Memory.read_write_other v hm hx,
    fun n x => ⟨Memory.wf_clear a n hm, Memory.read_clear a n x hm⟩⟩, fun s ha => ⟨fun m a => ?_, fun m a => ?_,
    fun m a h3 h7 => ?_, fun m a => execMemoryUncorrectable_of_alive ha m a, fun a => ?_, fun p => s.unsetPage_spec p, ?_,
    fun m a h => State.remap_of_new h, fun ps hd hl => ?_⟩⟩
  · rw [execMemoryCorrected_of_alive ha, State.memCe_eq, if_neg Bool.false_ne_true]
    rfl
  · rw [execMemoryCorrected_of_alive ha, State.memCe_eq, if_pos rfl]
    rfl
  · rw [execMemoryUncorrectable_of_alive ha, State.requesterLost_of_core h3, State.memUe_of_core h7]
    rfl
  · rw [execMemoryUncorrectable_of_alive ha, State.requesterLost_of_core (by decide), State.memUe_retained]
    rfl
  · intro a t
    rw [execMemoryUncorrectable_of_alive ha, State.requesterLost_of_core (by decide), State.memUe_dram]
    rfl
  · exact if_pos ⟨ha, hd, by simp [hl]⟩

end Sys2Proof.Machine
end

section
/-! SUPPORT. What a change set asks of the berths: their sessions, their reservations and the segments that they pin (R210,
R219). -/

namespace Sys2Proof.Machine

/-- The same state with other berths. -/
def State.withBerths (s : State) (x : Vector Berth 512) : State := { s with berths := x }

/-- Berths that pin the same segments, with the same sessions and reservations. -/
structure sameUse (x y : Vector Berth 512) : Prop where
  pins : ∀ r g, x.map (Berth.pins r g) = y.map (Berth.pins r g)
  sessions : x.map (·.session) = y.map (·.session)
  resvs : x.map (·.resv) = y.map (·.resv)

/-- An instruction that reads no ring changes nothing of that when it is in progress. -/
theorem sameUse_modBerth (s : State) (b : BerthId) {f : Berth → Berth} (hs : (f (s.berth b)).session = (s.berth b).session)
    (hr : (f (s.berth b)).resv = (s.berth b).resv) (hp : ∀ r g, (f (s.berth b)).pins r g = (s.berth b).pins r g) :
    sameUse (s.modBerth b f).berths s.berths :=
  ⟨fun r g => s.map_berths_modBerth b (hp r g), s.map_berths_modBerth b hs, s.map_berths_modBerth b hr⟩

/-! ### The parts of a set's commit beside other berths -/

section
variable (s : State) (x : Vector Berth 512)

theorem State.newVersion_withBerths (k : Nat) (v : Version) :
    (s.withBerths x).newVersion k v = (s.newVersion k v).withBerths x := by
  rw [State.newVersion_eq, State.newVersion_eq]
  rfl

theorem State.sealRec_withBerths (r : ToSeal) : (s.withBerths x).sealRec r = (s.sealRec r).withBerths x := by
  have h : (s.withBerths x).logSealed r = s.logSealed r := rfl
  have hA : (s.withBerths x).placedA r = s.placedA r := rfl
  have hB : (s.withBerths x).placedB r = s.placedB r := rfl
  rw [State.sealRec_eq, State.sealRec_eq, h, hA, hB]
  unfold State.addCopies
  split_ifs <;> rfl

theorem State.sealCard_withBerths (typ : W16) (payload : List Byte) :
    (s.withBerths x).sealCard typ payload = (s.sealCard typ payload).withBerths x := by
  unfold State.sealCard
  split_ifs with h g g
  · rfl
  · exact absurd h g
  · exact absurd g h
  · exact s.sealRec_withBerths x _

theorem State.guardRecord_withBerths (region : Nat) (old new : W32) (how : Nat) (b : BerthId) :
    (s.withBerths x).guardRecord region old new how b = (s.guardRecord region old new how b).withBerths x :=
  s.sealCard_withBerths x _ _

theorem State.newVersions_withBerths (v : State → Version) (hv : ∀ s : State, v (s.withBerths x) = v s) (ks : List Nat) :
    ks.foldl (fun s k => s.newVersion k (v s)) (s.withBerths x) =
      (ks.foldl (fun s k => s.newVersion k (v s)) s).withBerths x := by
  induction ks generalizing s with
  | nil => rfl
  | cons k ks ih => rw [List.foldl_cons, List.foldl_cons, hv, State.newVersion_withBerths, ih]

theorem State.deleteRegion_withBerths (n : Nat) (thru : Bool) : (s.withBerths x).deleteRegion n thru =
    ((s.deleteRegion n thru).1, (s.deleteRegion n thru).2.withBerths x) := by
  have h := s.newVersions_withBerths x (fun s => Version.unmap s.ftl.stamp s.ftl.jSeq thru) (fun _ => rfl)
    ((s.regionKeys n).filter s.mapped)
  refine Prod.ext rfl ?_
  simp only [State.deleteRegion]
  rw [show ((s.withBerths x).regionKeys n).filter (s.withBerths x).mapped = (s.regionKeys n).filter s.mapped from rfl, h]
  rfl

variable {s x}

theorem sameUse.pinnedSeg (h : sameUse x s.berths) (r g : Nat) : (s.withBerths x).pinnedSeg r g = s.pinnedSeg r g := by
  rw [State.pinnedSeg_eq, State.pinnedSeg_eq, ← h.pins r g]
  rfl

theorem sameUse.takable (h : sameUse x s.berths) (n : Nat) : (s.withBerths x).takable n = s.takable n := by
  unfold State.takable
  simp only [h.pinnedSeg]
  rfl

theorem State.resizeRing_withBerths (h : sameUse x s.berths) (n k : Nat) : (s.withBerths x).resizeRing n k =
    ((s.resizeRing n k).1, (s.resizeRing n k).2.withBerths x) := by
  simp only [State.resizeRing, h.takable]
  refine Prod.ext rfl ?_
  dsimp only
  split_ifs with h1 h2 h2
  · rfl
  · exact absurd h1 h2
  · exact absurd h2 h1
  · rfl

end

end Sys2Proof.Machine
end

section
/-! SUPPORT. A change set is checked and committed in the same way beside berths that are used alike (R210, R219). -/

namespace Sys2Proof.Machine

/-- A plan that looks at the same state with other berths. -/
def Plan.withBerths (p : Plan) (x : Vector Berth 512) : Plan := { p with s := p.s.withBerths x }

/-! ### The commit -/

section
variable {s : State} {x : Vector Berth 512}

theorem State.region_withBerths (s : State) (x : Vector Berth 512) (n : Nat) : (s.withBerths x).region n = s.region n := rfl

theorem State.draw_withBerths (s : State) (x : Vector Berth 512) : (s.withBerths x).draw = (s.draw.1, s.draw.2.withBerths x) := rfl

theorem State.setRegion_withBerths (s : State) (x : Vector Berth 512) (n : Nat) (r : Region) :
    (s.withBerths x).setRegion n r = (s.setRegion n r).withBerths x := rfl

theorem State.setRing_withBerths (s : State) (x : Vector Berth 512) (n : Nat) (r : Ring) :
    (s.withBerths x).setRing n r = (s.setRing n r).withBerths x := rfl

theorem State.commitRegion_withBerths (h : sameUse x s.berths) (p : Plan) (thru : Bool) (n : Nat) :
    (s.withBerths x).commitRegion p thru n =
      ((s.commitRegion p thru n).1, (s.commitRegion p thru n).2.1, (s.commitRegion p thru n).2.2.withBerths x) := by
  have hrec : ∀ (u : State) (c : Bool) (a d : W32), (if c then (u.withBerths x).guardRecord n a d 1 p.berth else u.withBerths x) =
      (if c then u.guardRecord n a d 1 p.berth else u).withBerths x := by
    intro u c a d
    split_ifs
    · exact u.guardRecord_withBerths x _ _ _ _ _
    · rfl
  unfold State.commitRegion
  simp only [State.deleteRegion_withBerths, State.resizeRing_withBerths h, State.region_withBerths, State.draw_withBerths,
    State.setRegion_withBerths, State.setRing_withBerths]
  by_cases ht : p.typ n = .undefined
  · by_cases ho : p.old n = .undefined
    · simp only [if_pos ht, if_pos ho]
    · simp only [if_pos ht, if_neg ho, hrec]
  · by_cases ho : p.old n = .undefined
    · simp only [if_neg ht, if_pos ho]
      exact congrArg (fun u => ([], [], u)) (hrec _ _ _ _)
    · by_cases hr : p.typ n = .ring
      · simp only [if_neg ht, if_neg ho, if_pos hr, State.setRegion_withBerths, hrec]
      · simp only [if_neg ht, if_neg ho, if_neg hr, State.setRegion_withBerths, hrec]

theorem sameUse.refl (x : Vector Berth 512) : sameUse x x := ⟨fun _ _ => rfl, rfl, rfl⟩

theorem State.berths_commitRegion (s : State) (p : Plan) (thru : Bool) (n : Nat) :
    (s.commitRegion p thru n).2.2.berths = s.berths := by
  have h := s.commitRegion_withBerths (sameUse.refl s.berths) p thru n
  exact congrArg (fun r : List Nat × List Nat × State => r.2.2.berths) h

/-- One region more of a set. -/
def State.regionStep (p : Plan) (thru : Bool) (acc : List Nat × List (Nat × List Nat) × State) (n : Nat) :
    List Nat × List (Nat × List Nat) × State :=
  let r := acc.2.2.commitRegion p thru n
  (acc.1 ++ r.1, acc.2.1 ++ (if r.2.1.isEmpty then [] else [(n, r.2.1)]), r.2.2)

theorem State.regionSteps_withBerths (p : Plan) (thru : Bool) (l : List Nat) (a : List Nat) (g : List (Nat × List Nat)) (s : State)
    (h : sameUse x s.berths) : l.foldl (State.regionStep p thru) (a, g, s.withBerths x) =
      ((l.foldl (State.regionStep p thru) (a, g, s)).1, (l.foldl (State.regionStep p thru) (a, g, s)).2.1,
        (l.foldl (State.regionStep p thru) (a, g, s)).2.2.withBerths x) := by
  induction l generalizing a g s with
  | nil => rfl
  | cons n l ih =>
    rw [List.foldl_cons, List.foldl_cons]
    have hstep : State.regionStep p thru (a, g, s.withBerths x) n = ((State.regionStep p thru (a, g, s) n).1,
        (State.regionStep p thru (a, g, s) n).2.1, (State.regionStep p thru (a, g, s) n).2.2.withBerths x) := by
      simp only [State.regionStep, State.commitRegion_withBerths h]
    rw [hstep]
    exact ih _ _ _ (by rw [State.regionStep, State.berths_commitRegion]; exact h)

/-- A staged counter or map takes its value. -/
def State.stagedStep (b : BerthId) (s : State) (t : Staged) : State := match t.setting with
  | .ctr n => s.commitCtr b n t.value
  | .map => s.commitMap (t.value.setWidth 4)
  | _ => s

theorem State.counter_withBerths (s : State) (x : Vector Berth 512) (n : Fin 32) : (s.withBerths x).counter n = s.counter n := rfl

theorem State.setCounter_withBerths (s : State) (x : Vector Berth 512) (n : Fin 32) (c : Counter) :
    (s.withBerths x).setCounter n c = (s.setCounter n c).withBerths x := rfl

theorem State.commitCtr_withBerths (s : State) (x : Vector Berth 512) (b : BerthId) (n : Fin 32) (v : W32) :
    (s.withBerths x).commitCtr b n v = (s.commitCtr b n v).withBerths x := by
  unfold State.commitCtr
  simp only [State.counter_withBerths, State.setCounter_withBerths, State.sealCard_withBerths]
  split_ifs <;> rfl

theorem State.stagedStep_withBerths (s : State) (x : Vector Berth 512) (b : BerthId) (t : Staged) :
    State.stagedStep b (s.withBerths x) t = (State.stagedStep b s t).withBerths x := by
  unfold State.stagedStep
  split
  · exact State.commitCtr_withBerths s x b _ _
  · rfl
  · rfl

theorem State.stagedSteps_withBerths (b : BerthId) (l : List Staged) (s : State) (x : Vector Berth 512) :
    l.foldl (State.stagedStep b) (s.withBerths x) = (l.foldl (State.stagedStep b) s).withBerths x := by
  induction l generalizing s with
  | nil => rfl
  | cons t l ih => rw [List.foldl_cons, List.foldl_cons, State.stagedStep_withBerths, ih]

theorem State.commitPw_withBerths (s : State) (x : Vector Berth 512) (p : Plan) :
    (s.withBerths x).commitPw p = (s.commitPw p).withBerths x := by
  unfold State.commitPw
  split
  · rfl
  · dsimp only
    split_ifs <;> rfl

/-- The regions of a set, then its counters and its map, then a password. -/
theorem State.commitSet_eq (s : State) (p : Plan) (thru : Bool) : s.commitSet p thru =
    let r := (regionsOf p.staged).foldl (State.regionStep p thru) ([], [], s)
    (r.1, r.2.1, (p.staged.foldl (State.stagedStep p.berth) r.2.2).commitPw p) := rfl

theorem State.commitSet_withBerths (h : sameUse x s.berths) (p : Plan) (thru : Bool) :
    ((s.withBerths x).commitSet p thru).2.2 = ((s.commitSet p thru).2.2).withBerths x := by
  rw [State.commitSet_eq, State.commitSet_eq]
  dsimp only
  rw [State.regionSteps_withBerths p thru _ _ _ s h]
  dsimp only
  rw [State.stagedSteps_withBerths, State.commitPw_withBerths]

theorem State.commitSet_plan (s : State) (p : Plan) (x : Vector Berth 512) (thru : Bool) :
    s.commitSet (p.withBerths x) thru = s.commitSet p thru := rfl

end

/-! ### The checks -/

section
variable {p : Plan} {x : Vector Berth 512}

theorem sameUse.has (h : sameUse x p.s.berths) : (p.withBerths x).has = p.has := by
  funext c
  have hs : (x[p.berth]).session = (p.s.berth p.berth).session := by
    have hv := congrArg (fun v : Vector Session 512 => v[p.berth]) h.sessions
    simpa [State.berth] using hv
  simp only [Plan.has, Berth.has]
  rw [← hs]
  rfl

theorem sameUse.resvs_eq {s : State} (h : sameUse x s.berths) : (s.withBerths x).resvs = s.resvs := by
  have hx : ∀ y : Vector Berth 512, y.toList.filterMap (·.resv) = (y.map (·.resv)).toList.filterMap id := by
    intro y
    rw [Vector.toList_map, List.filterMap_map]
    rfl
  exact (hx x).trans ((congrArg (fun v => v.toList.filterMap id) h.resvs).trans (hx s.berths).symm)

theorem sameUse.ringSize (h : sameUse x p.s.berths) (n : Nat) : (p.withBerths x).ringSize n = p.ringSize n := by
  have ht : (p.withBerths x).s.takable n = p.s.takable n := h.takable n
  unfold Plan.ringSize
  rw [ht]
  rfl

theorem sameUse.sizeCheck (h : sameUse x p.s.berths) (n : Nat) : (p.withBerths x).sizeCheck n = p.sizeCheck n := by
  unfold Plan.sizeCheck
  rw [h.ringSize]
  rfl

theorem sameUse.deleteCheck (h : sameUse x p.s.berths) (n : Nat) : (p.withBerths x).deleteCheck n = p.deleteCheck n := by
  have hr : (p.withBerths x).s.resvs = p.s.resvs := h.resvs_eq
  unfold Plan.deleteCheck
  rw [h.has, hr]
  rfl

theorem sameUse.cfgCheck (h : sameUse x p.s.berths) (n : Nat) : (p.withBerths x).cfgCheck n = p.cfgCheck n := by
  unfold Plan.cfgCheck
  rw [h.has, h.sizeCheck, h.deleteCheck]
  rfl

theorem sameUse.sizCheck (h : sameUse x p.s.berths) (n : Nat) : (p.withBerths x).sizCheck n = p.sizCheck n := by
  unfold Plan.sizCheck
  rw [h.sizeCheck]
  rfl

theorem sameUse.pwCheck (h : sameUse x p.s.berths) (sel : Bool) : (p.withBerths x).pwCheck sel = p.pwCheck sel := by
  unfold Plan.pwCheck
  rw [h.has]
  rfl

theorem sameUse.ctrCheck (h : sameUse x p.s.berths) (n : Fin 32) : (p.withBerths x).ctrCheck n = p.ctrCheck n := by
  unfold Plan.ctrCheck
  rw [h.has]
  rfl

theorem sameUse.check (h : sameUse x p.s.berths) (t : Setting) : (p.withBerths x).check t = p.check t := by
  cases t with
  | cfg n => exact h.cfgCheck n
  | siz n => exact h.sizCheck n
  | ringCfg n => rfl
  | pwSel => exact h.pwCheck true
  | pwd i => exact h.pwCheck false
  | ctr n => exact h.ctrCheck n
  | map => rfl

theorem sameUse.failing (h : sameUse x p.s.berths) (es : List Entry) : (p.withBerths x).failing es = p.failing es := by
  have he : (p.withBerths x).entryCheck = p.entryCheck := by
    funext e i
    unfold Plan.entryCheck
    rw [show (p.withBerths x).check = p.check from funext h.check]
    rfl
  unfold Plan.failing
  rw [he]

end

theorem State.planOf_withBerths (s : State) (x : Vector Berth 512) (b : BerthId) (c : Cur) :
    (s.withBerths x).planOf b c = (s.planOf b c).withBerths x := rfl

/-- A set is refused alike, or by neither. -/
theorem sameUse.applyRefusal {s : State} {x : Vector Berth 512} (h : sameUse x s.berths) (b : BerthId) (c : Cur) :
    (s.withBerths x).applyRefusal b c = s.applyRefusal b c := by
  have hb : (s.commitSet (s.planOf b c) c.writeThrough).2.2.berths = s.berths := by
    have h0 : (s.commitSet (s.planOf b c) c.writeThrough).2.2 = (s.commitSet (s.planOf b c) c.writeThrough).2.2.withBerths
        s.berths := State.commitSet_withBerths (sameUse.refl s.berths) _ _
    rw [h0]
    rfl
  have hf : ((s.planOf b c).withBerths x).failing c.entries = (s.planOf b c).failing c.entries := sameUse.failing h _
  have hl : ∀ t : State, t.berths = s.berths → (t.withBerths x).limitsHold (t.withBerths x).lnk.agreed.val
      (t.withBerths x).resvs = t.limitsHold t.lnk.agreed.val t.resvs := by
    intro t ht
    rw [sameUse.resvs_eq (ht ▸ h)]
    rfl
  unfold State.applyRefusal
  rw [State.planOf_withBerths]
  dsimp only
  rw [hf, State.commitSet_plan, State.commitSet_withBerths h, h.resvs_eq, hl _ hb]
  rfl

end Sys2Proof.Machine
end

section
/-! SUPPORT. What the end of an instruction leaves of the release sequence and of the path up (R141, R157, R161). -/

namespace Sys2Proof.Machine

/-- The release sequence stands where it stood, and in narrow mode the path up holds what it held, with more behind it. -/
def State.reportsTo (s t : State) : Prop :=
  t.hup.release = s.hup.release ∧ (s.lnk.mode = .narrow → t.lnk.mode = .narrow ∧ ∃ r, t.nar.up = s.nar.up ++ r)

theorem State.reportsTo.trans {s t u : State} (h : s.reportsTo t) (g : t.reportsTo u) : s.reportsTo u := by
  refine ⟨g.1.trans h.1, fun hm => ?_⟩
  obtain ⟨ht, r, hr⟩ := h.2 hm
  obtain ⟨hu, r', hr'⟩ := g.2 ht
  exact ⟨hu, r ++ r', by rw [hr', hr, List.append_assoc]⟩

theorem State.reportsTo_of_same {s t : State} (hh : t.hup.release = s.hup.release) (hl : t.lnk.mode = s.lnk.mode)
    (hn : t.nar.up = s.nar.up) : s.reportsTo t := ⟨hh, fun hm => ⟨hl.trans hm, [], by rw [hn, List.append_nil]⟩⟩

theorem State.reportsTo_modBerth (s : State) (b : BerthId) (f : Berth → Berth) : s.reportsTo (s.modBerth b f) :=
  State.reportsTo_of_same rfl rfl rfl

theorem State.reportsTo_sendUp (s : State) (p : UpParcel) : s.reportsTo (s.sendUp p) := by
  refine ⟨?_, fun hm => ?_⟩
  · obtain ⟨x, y, h, -⟩ := s.sendUp_spec p
    rw [h]
  · rw [State.sendUp_of_narrow hm]
    exact ⟨hm, [p], rfl⟩

theorem State.reportsTo_sendCompletion (s : State) (b : BerthId) (tag : W16) (op : Byte) (st : Status) (done : Nat)
    (first : Option Nat) (res : W64) : s.reportsTo (s.sendCompletion b tag op st done first res) :=
  ((s.reportsTo_modBerth b _).trans (State.reportsTo_modBerth _ b _)).trans (State.reportsTo_sendUp _ _)

theorem State.reportsTo_raiseEvent (s : State) (code : Nat) (arg : W32) (src : Option BerthId) :
    s.reportsTo (s.raiseEvent code arg src) := by
  unfold State.raiseEvent
  extract_lets u n v
  have hv : s.reportsTo v := State.reportsTo_of_same rfl rfl rfl
  split_ifs
  · exact hv.trans (v.reportsTo_sendUp _)
  · exact hv

theorem State.reportsTo_flushQueue (b : BerthId) (l : List QInstr) (s : State) : s.reportsTo (s.flushQueue b l) := by
  induction l generalizing s with
  | nil => exact State.reportsTo_of_same rfl rfl rfl
  | cons q l ih => exact ((s.reportsTo_modBerth b _).trans (State.reportsTo_sendCompletion _ b _ _ _ _ _ _)).trans (ih _)

theorem State.reportsTo_dropChunks (s : State) (b : BerthId) (p : Chunk → Bool) : s.reportsTo (s.dropChunks b p) :=
  State.reportsTo_of_same rfl rfl rfl

theorem State.reportsTo_stopBerth (s : State) (b : BerthId) (st : Status) : s.reportsTo (s.stopBerth b st) := by
  unfold State.stopBerth
  extract_lets u v
  have hu : s.reportsTo u := s.reportsTo_modBerth b _
  have hv : s.reportsTo v := by
    simp only [v]
    split_ifs
    · exact hu
    · exact hu.trans ((State.reportsTo_flushQueue b _ u).trans (State.reportsTo_raiseEvent _ _ _ _))
  exact hv.trans (v.reportsTo_dropChunks b _)

theorem State.reportsTo_stopHere (s : State) (b : BerthId) : s.reportsTo (s.stopHere b) := by
  unfold State.stopHere
  extract_lets x
  split_ifs
  · exact ((s.reportsTo_modBerth b _).trans (State.reportsTo_sendCompletion _ b _ _ _ _ _ _)).trans
      (State.reportsTo_stopBerth _ b _)
  · exact s.reportsTo_stopBerth b _

theorem State.reportsTo_rest (s : State) (b : BerthId) : s.reportsTo (s.rest b) := by
  unfold State.rest
  extract_lets u
  have hu : s.reportsTo u := s.reportsTo_modBerth b _
  split_ifs
  · exact hu.trans (u.reportsTo_dropChunks b _)
  · exact hu

theorem State.reportsTo_leaves (s : State) (b : BerthId) (q : QInstr) (st : Status) (res : Option W64) (pc : Nat) (took : Bool) :
    s.reportsTo (s.leaves b q st res pc took) := by
  refine State.reportsTo_of_same ?_ rfl rfl
  change (s.countThru st).hup.release = s.hup.release
  unfold State.countThru
  split_ifs <;> rfl

theorem State.reportsTo_concludes (s : State) (b : BerthId) (q : QInstr) (st : Status) (done : Nat) (first : Option Nat)
    (res : Option W64) (pc : Nat) : s.reportsTo (s.concludes b q st done first res pc) := by
  unfold State.concludes
  extract_lets u x
  have hu : s.reportsTo u := by
    simp only [u]
    split_ifs
    · exact s.reportsTo_sendCompletion b _ _ _ _ _ _
    · exact State.reportsTo_of_same rfl rfl rfl
  refine hu.trans ?_
  split_ifs
  · exact u.reportsTo_stopBerth b _
  · exact ((u.reportsTo_modBerth b _).trans (State.reportsTo_sendCompletion _ b _ _ _ _ _ _)).trans
      (State.reportsTo_stopBerth _ b _)
  · exact u.reportsTo_stopHere b
  · exact u.reportsTo_rest b

theorem State.reportsTo_finish (s : State) (b : BerthId) (q : QInstr) (st : Status) (done : Nat) (first : Option Nat)
    (res : Option W64) : s.reportsTo (s.finish b q st done first res) := by
  rw [State.finish, State.finishAt_eq]
  exact (s.reportsTo_leaves b q st res _ _).trans (State.reportsTo_concludes _ b q st done first res _)

end Sys2Proof.Machine
end

section
/-! SUPPORT. QUIESCE, RESUME and HALTCTL on the state as a whole (R209, R419, R466). -/

namespace Sys2Proof.Machine

/-! ### Berths that are held or freed -/

/-- A berth that comes to rest changes the berth, the path up and a count, and no other berth. -/
theorem State.rest_frame (s : State) (a : BerthId) : (s.rest a).scr = s.scr ∧ (s.rest a).hup = s.hup ∧
    ∀ b, b ≠ a → (s.rest a).berth b = s.berth b := by
  obtain ⟨⟨n, l, d, y, h⟩, -⟩ := s.movesOn_rest a
  refine ⟨?_, ?_, fun b hb => State.berth_movesOn_other (s.movesOn_rest a) hb⟩
  · rw [h]
    rfl
  · rw [h]
    rfl

/-- QUIESCE holds READY berths, so one that runs goes on. -/
theorem State.holdBerths_spec (s : State) {b : BerthId} (hb : (s.berth b).state = .running) :
    s.holdBerths.scr = s.scr ∧ (s.holdBerths.berth b).state = .running := by
  unfold State.holdBerths
  generalize allBerths = l
  induction l generalizing s with
  | nil => exact ⟨rfl, hb⟩
  | cons a l ih =>
    rw [List.foldl_cons]
    split_ifs with ha
    · obtain ⟨hscr, -, hother⟩ := s.rest_frame a
      have hne : b ≠ a := by
        rintro rfl
        exact absurd (hb.symm.trans ha.1) (by decide)
      obtain ⟨h1, h2⟩ := ih (s.rest a) (by rw [hother b hne, hb])
      exact ⟨h1.trans hscr, h2⟩
    · exact ih s hb

theorem State.freeBerths_frame (s : State) : s.freeBerths.scr = s.scr ∧ s.freeBerths.hup = s.hup := by
  unfold State.freeBerths
  generalize allBerths = l
  induction l generalizing s with
  | nil => exact ⟨rfl, rfl⟩
  | cons a l ih =>
    rw [List.foldl_cons]
    split_ifs
    · obtain ⟨hscr, hhup, -⟩ := s.rest_frame a
      obtain ⟨h1, h2⟩ := ih (s.rest a)
      exact ⟨h1.trans hscr, h2.trans hhup⟩
    · exact ih s

theorem State.startRelease_spec (s : State) : s.startRelease.scr = s.scr ∧ s.startRelease.hup.release = .pending := by
  have hscr : (s.refuseReq 7).scr = s.scr := by
    unfold State.refuseReq
    split_ifs <;> rfl
  unfold State.startRelease
  generalize s.refuseReq 7 = t at hscr ⊢
  obtain ⟨w, n, l, h⟩ := State.raiseEvent_spec { t with hup := { s.hup with release := .pending, pressLatched := false } } 2 0 none
  rw [h]
  exact ⟨hscr, rfl⟩

theorem State.leaveQuiesce_of_freed {s t : State} (h : ({ s with scr := Scr.init } : State).freeBerths = t) :
    s.leaveQuiesce = if t.hup.pressLatched then t.startRelease else t := by
  rw [State.leaveQuiesce, h]

/-- RESUME ends the stop, and a press that counted meanwhile starts its release (R466, R467). -/
theorem State.leaveQuiesce_spec (s : State) : s.leaveQuiesce.scr = Scr.init ∧
    (s.hup.pressLatched = true → s.leaveQuiesce.hup.release = .pending) := by
  obtain ⟨t, ht⟩ : ∃ t, ({ s with scr := Scr.init } : State).freeBerths = t := ⟨_, rfl⟩
  obtain ⟨hscr, hhup⟩ : t.scr = Scr.init ∧ t.hup = s.hup := ht ▸ State.freeBerths_frame _
  rw [State.leaveQuiesce_of_freed ht]
  rw [hhup]
  split_ifs with hp
  · obtain ⟨h1, h2⟩ := t.startRelease_spec
    exact ⟨h1.trans hscr, fun _ => h2⟩
  · exact ⟨hscr, fun h => absurd h hp⟩

/-! ### HALT (R419) -/

theorem State.flt_finish (s : State) (b : BerthId) (q : QInstr) (st : Status) (done : Nat) (first : Option Nat)
    (res : Option W64) : (s.finish b q st done first res).flt = s.flt := by
  rw [State.completesTo_finish]

theorem State.flt_haltBerth (s : State) (b : BerthId) : (s.haltBerth b).flt = s.flt := by
  unfold State.haltBerth
  split
  · exact State.flt_finish _ _ _ _ _ _ _
  · rfl

theorem State.halted_reportClass (s : State) (src : Nat) : (s.reportClass src).flt.halted = s.flt.halted := by
  unfold State.reportClass
  extract_lets h old u t v
  split_ifs
  · rfl
  · have hv : v.flt.halted = s.flt.halted := by
      simp only [v]
      rw [State.sealCard_frame]
    obtain ⟨w, n, l, he⟩ := v.raiseEvent_spec 4 (BitVec.ofNat 32 (clsByte h)) none
    rw [he]
    exact hv

/-- HALT leaves the controller halted. -/
theorem State.halted_haltEntry (s : State) (src : Nat) : (s.haltEntry src).flt.halted = true := by
  have hfold : ∀ (l : List BerthId) (t : State), (l.foldl State.haltBerth t).flt = t.flt := by
    intro l
    induction l with
    | nil => exact fun _ => rfl
    | cons b l ih => exact fun t => (ih _).trans (t.flt_haltBerth b)
  by_cases h : s.flt.halted = true
  · rw [State.haltEntry, if_pos h, h]
  · rw [State.haltEntry, if_neg h]
    extract_lets
    rw [hfold, State.halted_reportClass]
    rfl

end Sys2Proof.Machine
end

section
/-! SUPPORT. HEALTH of a card that stands alone (R211, R327): its block, and the one parcel that carries it. -/

namespace Sys2Proof.Machine

/-! ### The block of 256 bytes -/

theorem State.length_wearOf (s : State) (cs : List RowClass) : (s.wearOf cs).length = 8 := by
  simp only [State.wearOf, List.length_append, length_leSat]

theorem length_flatMap_const {α : Type} {l : List α} {f : α → List Byte} {k : Nat} (h : ∀ x ∈ l, (f x).length = k) :
    (l.flatMap f).length = l.length * k := by
  rw [List.length_flatMap, List.map_congr_left h, List.map_const', List.sum_replicate, smul_eq_mul]

theorem State.length_healthBody (s : State) (n : Nat) : (s.healthBody n).length = 254 := by
  unfold State.healthBody
  extract_lets h sp low
  have hsp : sp.length = 8 := length_flatMap_const fun _ _ => length_leSat 2 _
  have hbins : (h.tempBins.toList.flatMap fun t => leSat 4 (t / 60)).length = 64 := by
    rw [length_flatMap_const (k := 4) fun _ _ => length_leSat 4 _, Vector.length_toList]
  clear_value h sp low
  simp only [List.length_append, hsp, hbins, State.length_wearOf, length_leSat, length_leBytes, List.length_cons,
    List.length_nil, zeros_length]

/-- The state in which a HEALTH reads its figures: its time has passed, and its free values are drawn. -/
def State.healthState (s : State) : State := { s.elapse.draw.2 with freeCtr := s.elapse.draw.2.freeCtr + 8 }

/-- The 16 bytes before the blocks, of one block. -/
def State.healthHead (s : State) : List Byte :=
  [1, 1] ++ leBytes 2 272 ++ leBytes 8 s.healthState.now.toNat ++ leBytes 2 s.healthState.tim.qual.toNat ++ [0, 0]

/-- What a HEALTH delivers. -/
def State.healthData (s : State) : List Byte := s.healthHead ++ healthBlock (s.healthState.healthBody s.elapse.draw.1)

theorem State.length_healthHead (s : State) : s.healthHead.length = 16 := by
  simp only [State.healthHead, List.length_append, length_leBytes, List.length_cons, List.length_nil]

theorem State.length_healthData (s : State) : s.healthData.length = 272 := by
  simp only [State.healthData, healthBlock, List.length_append, State.length_healthHead, State.length_healthBody, length_leBytes]

theorem State.drop_healthData (s : State) : s.healthData.drop 16 = healthBlock (s.healthState.healthBody s.elapse.draw.1) :=
  List.drop_left' s.length_healthHead

/-- The block ends with the CRC of what stands before it. -/
theorem State.crc_healthData (s : State) :
    s.healthData.drop 270 = leBytes 2 (crc16 ((s.healthData.drop 16).take 254)).toNat := by
  have hlen := s.healthState.length_healthBody s.elapse.draw.1
  rw [show 270 = 16 + 254 from rfl, ← List.drop_drop, State.drop_healthData, healthBlock, List.drop_left' hlen,
    List.take_left' hlen]

theorem State.take_healthData (s : State) : s.healthData.take 4 = [1, 1, 0x10, 0x01] := by
  have hlen : leBytes 2 272 = [0x10, 0x01] := by decide
  simp [State.healthData, State.healthHead, hlen]

/-! ### The instruction -/

/-- A HEALTH that has its data. -/
def State.healthCur (s : State) (q : QInstr) : Cur :=
  { Cur.init q .cascade with acc := s.healthData, result := some (BitVec.ofNat 64 272) }

section
variable {s : State} {b : BerthId} {q : QInstr}

/-- The members of these positions that are to be asked for their block. -/
def State.remotesOf (s : State) (ps : List Nat) : List (Fin 4) :=
  (ps.filter fun p => p != s.position && !bit s.quy.lost p).map (Fin.ofNat 4)

/-- The blocks of these positions, as they stand before the members answer. -/
def State.healthBlocks (s : State) (ps : List Nat) : List Byte :=
  ps.flatMap fun p => if p = s.position then healthBlock (s.healthState.healthBody s.elapse.draw.1)
    else if bit s.quy.lost p then fencedBlock p else zeros 256

theorem State.healthTurn_of_alone (hf : q.only [fDst, fXc] = true) (hx : q.xc = 0) (hp : s.healthPositions = [s.position]) :
    s.healthTurn b q = s.healthState.deliver b (s.healthCur q) := by
  have hok : (q.only [fDst, fXc] && q.xc ≤ 1 && (!(q.xc == 1) || scratchWordOk (q.extWord 0)) &&
      !(s.berth b).misfit (if (q.xc == 1) = true then some (bits (q.extWord 0) 0 18) else none) (16 + 256 * 1)) = true := by
    simp [hf, hx, Berth.misfit]
  simp only [State.healthTurn, hp, List.length_singleton]
  rw [State.checked_of_ok hok]
  simp only [hx, show ((0 : Nat) == 1) = false from rfl, Bool.false_eq_true, if_false]
  have hout : (s.remotesOf [s.position]) = [] := by simp [State.remotesOf]
  have hblk : s.healthBlocks [s.position] = healthBlock (s.healthState.healthBody s.elapse.draw.1) := by
    simp [State.healthBlocks]
  change (if (s.remotesOf [s.position]).isEmpty then s.healthState.deliver b { Cur.init q .cascade with
    acc := s.healthHead ++ s.healthBlocks [s.position], open_ := (s.remotesOf [s.position]).length
    result := some (BitVec.ofNat 64 272) } else _) = _
  rw [hout, hblk]
  rfl

/-- Data that fit in one parcel go up at once, and the instruction completes (R156, R162). -/
theorem State.deliver_one {c : Cur} (hs : c.scratch = none) (hc : c.len ≤ c.pos) (h0 : c.acc ≠ []) (hl : c.acc.length ≤ s.lnk.pay)
    (hr : s.stagingRoom = true) (hm : s.lnk.mode = .narrow) : ∃ u : State, u.nar.up = s.nar.up ++
      [⟨BitVec.ofNat 16 b.val, c.ins.tag, .data c.acc true⟩] ∧ u.lnk.mode = .narrow ∧
      s.deliver b c = u.finish b c.ins c.status c.done c.first c.result := by
  have hroom : (s.withCur b c).stagingRoom = true := by
    rw [State.stagingRoom, Bool.or_eq_true, decide_eq_true_eq] at hr
    obtain hz | hr := hr
    · rw [State.stagingRoom, Bool.or_eq_true]
      exact Or.inl hz
    · exact State.stagingRoom_withCur hc hr
  have hdrop : c.acc.drop s.lnk.pay = [] := List.drop_eq_nil_of_le hl
  obtain ⟨n, hn⟩ : ∃ n, c.acc.length = n + 1 := ⟨c.acc.length - 1, by have := List.length_pos_iff.2 h0; omega⟩
  refine ⟨(s.sendUp (dataUp b c.ins.tag c.acc true)).withCur b { c with acc := [] }, ?_, ?_, ?_⟩
  · rw [State.sendUp_of_narrow hm]
    rfl
  · rw [State.sendUp_of_narrow hm]
    exact hm
  · have hd : s.deliver b c = State.pushData (c.acc.length + 1) b (s.withCur b c) := by
      rw [State.deliver, hs]
      rfl
    rw [hd, hn, State.pushData_step h0 hroom, hdrop, List.take_of_length_le hl, State.pushData_done rfl]
    rfl

end

end Sys2Proof.Machine
end

section
/-! PROOFS. APPLY and PATCH: what each does with its data (O40). -/

namespace Sys2Proof.Machine

/-! ### APPLY (R210, R219) -/

/-- An APPLY whose set is `d`. -/
def applyCur (q : QInstr) (d : List Byte) : Cur := { Cur.init q .data with len := 12 * q.imm 0 9, acc := d }

/-- An APPLY that takes its set from scratch. -/
def State.applyScratch (s : State) (b : BerthId) (q : QInstr) : State :=
  match s.scratchData b (some (bits (q.extWord 0) 0 18)) (12 * q.imm 0 9) with
  | (none, s) => s.finish b q .memUncorrectable
  | (some d, s) => s.applyAsk b (applyCur q d)

/-- The regions that the entries of a set name. -/
def Cur.setRegions (c : Cur) : List Nat := ((c.entries.filterMap fun e => settingAt e.addr).filterMap Setting.region).dedup

section
variable {s : State} {b : BerthId} {q : QInstr}

theorem State.applyBody_of_form (hf : q.only [fDst, fXc, (0, 9)] = true) (h1 : 1 ≤ q.imm 0 9) (h256 : q.imm 0 9 ≤ 256)
    (hx : q.xc ≤ 1) (hw : q.xc = 1 → scratchWordOk (q.extWord 0) = true ∧
      (s.berth b).misfit (some (bits (q.extWord 0) 0 18)) (12 * q.imm 0 9) = false) :
    s.applyBody b q = if s.scr.active = false then s.finish b q .wrongState
      else s.spanned b q q.scratchOff (12 * q.imm 0 9) fun s =>
        if q.xc = 1 then s.applyScratch b q else (s.withCur b (applyCur q [])).applyData b := by
  have hscr : (!(q.xc == 1) || (scratchWordOk (q.extWord 0) &&
      !(s.berth b).misfit (some (bits (q.extWord 0) 0 18)) (12 * q.imm 0 9))) = true := by
    by_cases h : q.xc = 1
    · simp [hw h]
    · simp [h]
  have hok : (q.only [fDst, fXc, (0, 9)] && q.xc ≤ 1 && 1 ≤ q.imm 0 9 && q.imm 0 9 ≤ 256 && (!(q.xc == 1) ||
      (scratchWordOk (q.extWord 0) && !(s.berth b).misfit (some (bits (q.extWord 0) 0 18)) (12 * q.imm 0 9)))) = true := by
    simp only [hf, hx, h1, h256, hscr, decide_true, Bool.and_self]
  simp only [State.applyBody, State.checked_of_ok hok, Bool.not_eq_true', beq_iff_eq]
  rfl

/-- A set that nothing refuses, and whose commit is admitted, closes the gate for the regions that it names. -/
theorem State.applyAsk_of_passed {c : Cur} (hr : s.applyRefusal b c = none) (hfl : s.flashReady)
    (ha : s.hup.answerItem commitCost = .admitted) (hrs : c.setRegions ≠ []) (hg : s.grd.gate = none) : s.applyAsk b c =
      (s.charged b { c with phase := .ledger } .commit commitCost).closeGate b { c with phase := .ledger, writeThrough := false }
        (BitVec.ofNat 64 (c.setRegions.map fun r => 2 ^ r).sum) := by
  have hg' : (s.charged b { c with phase := .ledger } .commit commitCost).grd.gate = none := hg
  have hne : c.setRegions.isEmpty = false := by simpa using hrs
  simp only [State.applyAsk, hr, State.onFlash_of_ready hfl, State.askCommit_of_admitted ha]
  simp only [State.applyGo, State.berth_charged]
  change (if c.setRegions.isEmpty && _ then _ else State.takeGate _ b _ _) = _
  rw [hne, Bool.false_and, if_neg Bool.false_ne_true, State.takeGate, hg']
  rfl

theorem State.closeGate_spec (s : State) (b : BerthId) (c : Cur) (rs : W64) :
    (s.closeGate b c rs).grd.gate = some { regions := rs, owner := b, tidesLeft := 1 } ∧
      ((s.closeGate b c rs).berth b).state = .running ∧ (s.closeGate b c rs).rgn = s.rgn := by
  refine ⟨rfl, ?_, rfl⟩
  rw [State.closeGate, State.berth_modBerth]

/-- The parcels that an APPLY has taken are used by no other rule. -/
theorem State.sameUse_taken (hc : (s.berth b).cur = none) {c : Cur} (hop : readsRing c.ins.op = false) (ch : List Chunk) :
    sameUse ((s.withChunks b ch).withCur b c).berths s.berths := by
  rw [State.withCur, State.withChunks, State.modBerth_modBerth]
  refine sameUse_modBerth s b rfl rfl fun r g => ?_
  simp [Berth.pins, hop, hc]

/-- With its parcels there, an APPLY asks in a state that only its own berth tells from `s`. -/
theorem State.applyData_of_data {d : List Byte} (hl : d.length = 12 * q.imm 0 9) (hd : s.dataFor b q none d) :
    ∃ ch t t', (s.withCur b (applyCur q [])).applyData b =
      ((s.withChunks b ch).withCur b ((applyCur q []).withData d t)).applyAsk b ((applyCur q []).withData d t') := by
  have hlen : (applyCur q []).len = d.length := hl.symm
  obtain ⟨ch, t, hg⟩ := State.gather_dataFor (c := applyCur q []) (n := (s.berth b).chunks.length + (applyCur q []).len + 1)
    rfl (by omega) hd
  rw [← hlen] at hg
  refine ⟨ch, t, (((s.withChunks b ch).withCur b ((applyCur q []).withData d t)).berth b).tookLast, ?_⟩
  simp only [State.applyData, State.berth_withCur, hg]
  rfl

end

/-- The whole set is committed, and the instruction waits for it (R210). -/
theorem State.applyInstall_waits {s : State} {b : BerthId} {c : Cur} (hr : s.applyRefusal b c = none) (hc : c.status = .ok) :
    (s.applyInstall b c).waitsDurable b 1 (some (BitVec.ofNat 64 c.entries.length)) := by
  simp only [State.applyInstall, hr, State.gateCommit, Bool.true_or, if_true]
  exact State.waitsDurable_untilDurable _ b 1 hc

/-! ### PATCH (R437) -/

/-- A PATCH whose blob is still to come. -/
def patchCur (q : QInstr) : Cur := { Cur.init q .data with len := q.imm 0 20 }

/-- A PATCH that takes its blob from scratch. -/
def State.patchScratch (s : State) (b : BerthId) (q : QInstr) : State :=
  match s.scratchData b (some (bits (q.extWord 0) 0 18)) (q.imm 0 20) with
  | (none, s) => s.finish b q .memUncorrectable
  | (some d, s) => s.patchWith b q d

section
variable {s : State} {b : BerthId} {q : QInstr}

theorem State.patchBody_of_form (hf : q.only [fXc, (0, 20)] = true) (h1 : 0 < q.imm 0 20) (h8192 : q.imm 0 20 ≤ 8192)
    (hx : q.xc ≤ 1) (hw : q.xc = 1 → scratchWordOk (q.extWord 0) = true ∧
      (s.berth b).misfit (some (bits (q.extWord 0) 0 18)) (q.imm 0 20) = false) :
    s.patchBody b q = if (s.scr.active && bit s.scr.bits 1) = false then s.finish b q .wrongState
      else s.spanned b q q.scratchOff (q.imm 0 20) fun s =>
        if q.xc = 1 then s.patchScratch b q else (s.withCur b (patchCur q)).patchData b := by
  have hscr : (!(q.xc == 1) || (scratchWordOk (q.extWord 0) &&
      !(s.berth b).misfit (some (bits (q.extWord 0) 0 18)) (q.imm 0 20))) = true := by
    by_cases h : q.xc = 1
    · simp [hw h]
    · simp [h]
  have hok : (q.only [fXc, (0, 20)] && q.xc ≤ 1 && 0 < q.imm 0 20 && q.imm 0 20 ≤ 8192 && (!(q.xc == 1) ||
      (scratchWordOk (q.extWord 0) && !(s.berth b).misfit (some (bits (q.extWord 0) 0 18)) (q.imm 0 20)))) = true := by
    simp only [hf, hx, h1, h8192, hscr, decide_true, Bool.and_self]
  simp only [State.patchBody, State.checked_of_ok hok, Bool.not_eq_true', beq_iff_eq]
  rfl

/-- What a PATCH whose blob is there leaves. -/
theorem State.patchWith_spec (hq : setsLastStat q.op = true) (d : List Byte) :
    (patchOk d = true → (s.patchWith b q d).ucs.patchState = 1 ∧ (s.patchWith b q d).ucs.patchId = Config.patchIdentity d ∧
      (s.patchWith b q d).ucs.stored = some d ∧
      (s.patchWith b q d).ucs.patchRam = ((Config.patchWords d).take 256).map MicroWord.of ∧
      ((s.patchWith b q d).berth b).lastStat = .ok) ∧
    (patchOk d = false → (s.patchWith b q d).ucs = s.ucs ∧ ((s.patchWith b q d).berth b).lastStat = .badSignature) := by
  unfold State.patchWith
  refine ⟨fun h => ?_, fun h => ?_⟩
  · have hu : ((s.applyPatch d).finish b q .ok).ucs = (s.applyPatch d).ucs := by rw [State.completesTo_finish]
    rw [if_pos h, hu, State.lastStat_finish _ b hq, State.applyPatch, State.sealCard_frame]
    exact ⟨rfl, rfl, rfl, rfl, rfl⟩
  · rw [if_neg (by simp [h]), State.lastStat_finish _ b hq, State.completesTo_finish]
    exact ⟨rfl, rfl⟩

theorem State.patchData_of_data {d : List Byte} (hl : d.length = q.imm 0 20) (hd : s.dataFor b q none d) :
    ∃ ch t, (s.withCur b (patchCur q)).patchData b =
      ((s.withChunks b ch).withCur b ((patchCur q).withData d t)).patchWith b q d := by
  have hlen : (patchCur q).len = d.length := hl.symm
  obtain ⟨ch, t, hg⟩ := State.gather_dataFor (c := patchCur q) (n := (s.berth b).chunks.length + (patchCur q).len + 1)
    rfl (by omega) hd
  rw [← hlen] at hg
  refine ⟨ch, t, ?_⟩
  simp only [State.patchData, State.berth_withCur, hg]
  rfl

end

end Sys2Proof.Machine
end

section
/-! PROOFS. The statement on stopping, changing and restarting (O40), clause by clause, and O40 from its clauses. -/

namespace Sys2Proof.Machine

section
variable {s : State} {b : BerthId} {q : QInstr}

/-! ### QUIESCE and RESUME (R209, R466) -/

/-- The stop that a QUIESCE of berth `b` sets going. -/
def QInstr.drain (q : QInstr) (b : BerthId) : Scr :=
  { bits := BitVec.ofNat 8 (q.imm 0 4), active := false, draining := true, owner := b,
    tidesLeft := if q.imm 8 16 = 0 then 64 else q.imm 8 16 }

/-- The state in which a QUIESCE of berth `b` has begun, and no other berth is held yet. -/
def State.beginDrain (s : State) (b : BerthId) (q : QInstr) : State :=
  ({ s with scr := q.drain b } : State).modBerth b fun x => { x with state := .running, cur := some (Cur.init q .drain) }

theorem State.quiesceBody_of_free (hf : q.only [(0, 4), (8, 16)] = true) (ha : s.scr.active = false)
    (hd : s.scr.draining = false) : s.quiesceBody b q = (s.beginDrain b q).holdBerths := by
  rw [State.quiesceBody, State.checked_of_ok hf, ha, hd, Bool.or_self, if_neg Bool.false_ne_true]
  rfl

theorem State.holdBerths_beginDrain (s : State) (b : BerthId) (q : QInstr) :
    (s.beginDrain b q).holdBerths.scr = q.drain b ∧ ((s.beginDrain b q).holdBerths.berth b).state = .running := by
  have hrun : ((s.beginDrain b q).berth b).state = .running := by rw [State.beginDrain, State.berth_modBerth]
  exact State.holdBerths_spec _ hrun

theorem State.quiesceBody_of_stopped (hf : q.only [(0, 4), (8, 16)] = true) (h : s.scr.active = true ∨ s.scr.draining = true) :
    s.quiesceBody b q = s.finish b q .wrongState := by
  rw [State.quiesceBody, State.checked_of_ok hf, if_pos (by simpa using h)]

theorem State.resumeBody_of_running (hf : q.only [] = true) (ha : s.scr.active = false) :
    s.resumeBody b q = s.finish b q .wrongState := by
  rw [State.resumeBody, State.checked_of_ok hf, ha, Bool.not_false, if_pos rfl]

theorem State.resumeBody_of_stopped (hf : q.only [] = true) (ha : s.scr.active = true) :
    s.resumeBody b q = s.leaveQuiesce.finish b q .ok := by
  rw [State.resumeBody, State.checked_of_ok hf, ha, Bool.not_true, if_neg Bool.false_ne_true]

theorem State.scr_finish (s : State) (b : BerthId) (q : QInstr) (st : Status) (done : Nat) (first : Option Nat)
    (res : Option W64) : (s.finish b q st done first res).scr = s.scr := by
  rw [State.completesTo_finish]

/-- The functions that a QUIESCE drained are stopped, and the stop is in force. -/
theorem State.quiesceDone_spec (s : State) : s.quiesceDone.scr.active = true ∧ s.quiesceDone.scr.draining = false := by
  have hcur : ∀ (t : State) (a : BerthId), (t.finishCur a .ok 0 none none).scr = t.scr := by
    intro t a
    unfold State.finishCur
    split
    · exact t.scr_finish a _ _ _ _ _
    · rfl
  unfold State.quiesceDone
  extract_lets a scr t u
  have hu : u.scr = t.scr := by
    simp only [u]
    split_ifs <;> rfl
  rw [hcur, hu]
  exact ⟨rfl, rfl⟩

/-! ### The data of an APPLY or a PATCH -/

/-- The bytes `d` that an APPLY or a PATCH names, in parcels or in scratch. -/
def State.givenBytes (s : State) (b : BerthId) (q : QInstr) (d : List Byte) : Prop :=
  q.xc = 0 ∧ s.dataFor b q none d ∨ q.xc = 1 ∧ scratchWordOk (q.extWord 0) = true ∧
    (s.berth b).misfit (some (bits (q.extWord 0) 0 18)) d.length = false ∧
    s.dataFor b q (some (bits (q.extWord 0) 0 18)) d

theorem State.givenBytes.form {d : List Byte} (h : s.givenBytes b q d) : q.xc ≤ 1 ∧ (q.xc = 1 →
    scratchWordOk (q.extWord 0) = true ∧ (s.berth b).misfit (some (bits (q.extWord 0) 0 18)) d.length = false) := by
  obtain ⟨hx, -⟩ | ⟨hx, hw, hm, -⟩ := h
  · exact ⟨by omega, fun h => by omega⟩
  · exact ⟨by omega, fun _ => ⟨hw, hm⟩⟩

theorem State.givenBytes.fits {d : List Byte} (h : s.givenBytes b q d) : ∀ o, q.scratchOff = some o →
    (s.scratchPlace b o d.length).1 = .ok := by
  obtain ⟨hx, -⟩ | ⟨hx, -, -, hp, -⟩ := h
  · simp [QInstr.scratchOff, hx]
  · simpa [QInstr.scratchOff, hx] using hp

/-! ### APPLY (R210) -/

/-- An APPLY whose set is there asks in a state that at most its own berth tells from `s`. -/
theorem State.applyBody_asks {d : List Byte} (hq : q.op = 0x67) (hf : q.only [fDst, fXc, (0, 9)] = true) (h1 : 1 ≤ q.imm 0 9)
    (h256 : q.imm 0 9 ≤ 256) (ha : s.scr.active = true) (hl : d.length = 12 * q.imm 0 9) (hd : s.givenBytes b q d)
    (hc : (s.berth b).cur = none) : ∃ (x : Vector Berth 512) (t : Bool), sameUse x s.berths ∧
      s.applyBody b q = (s.withBerths x).applyAsk b ((applyCur q d).withData d t) := by
  obtain ⟨hx, hw⟩ := hd.form
  rw [hl] at hw
  have hbody := State.applyBody_of_form hf h1 h256 hx hw
  rw [ha, if_neg (Bool.false_ne_true ·.symm), State.spanned_of_fits (hl ▸ hd.fits)] at hbody
  obtain ⟨hx, hd⟩ | ⟨hx, -, -, -, hread⟩ := hd
  · obtain ⟨ch, t, t', hdata⟩ := State.applyData_of_data hl hd
    refine ⟨_, t', State.sameUse_taken (c := (applyCur q []).withData d t) hc ?_ ch, ?_⟩
    · change readsRing q.op = false
      rw [hq]
      rfl
    · rw [hbody, if_neg (by omega), hdata]
      rfl
  · refine ⟨s.berths, false, sameUse.refl _, ?_⟩
    rw [hl] at hread
    rw [hbody, if_pos hx, State.applyScratch, State.scratchData, hread]
    rfl

/-- What refuses a set does not depend on berths that use the same segments. -/
theorem State.applyRefusal_congr {x : Vector Berth 512} {c c' : Cur} (hx : sameUse x s.berths) (hc : c'.entries = c.entries)
    (hw : c'.writeThrough = c.writeThrough) : (s.withBerths x).applyRefusal b c' = s.applyRefusal b c := by
  rw [hx.applyRefusal]
  have hp : s.planOf b c' = s.planOf b c := by rw [State.planOf, State.planOf, hc]
  rw [State.applyRefusal, State.applyRefusal, hp, hc, hw]

/-- The gate closes for the regions of the set, and the APPLY waits at it. -/
theorem State.applyAsk_closes {x : Vector Berth 512} {c c' : Cur} (hx : sameUse x s.berths) (hc : c'.entries = c.entries)
    (hw : c'.writeThrough = c.writeThrough) (hr : s.applyRefusal b c = none) (hrs : c.setRegions ≠ []) (hfl : s.flashReady)
    (ha : s.hup.answerItem commitCost = .admitted) (hg : s.grd.gate = none) :
    let u := (s.withBerths x).applyAsk b c'
    u.grd.gate = some { regions := BitVec.ofNat 64 (c.setRegions.map fun r => 2 ^ r).sum, owner := b, tidesLeft := 1 } ∧
      (u.berth b).state = .running ∧ u.rgn = s.rgn := by
  have hset : c'.setRegions = c.setRegions := by rw [Cur.setRegions, Cur.setRegions, hc]
  intro u
  have hu : u = _ := State.applyAsk_of_passed (s := s.withBerths x) ((State.applyRefusal_congr hx hc hw).trans hr) hfl ha
    (hset ▸ hrs) hg
  rw [hu, hset]
  exact State.closeGate_spec _ b _ _

/-! ### PATCH (R437) -/

/-- A PATCH whose blob is there judges it in a state with the control store of `s`. -/
theorem State.patchBody_judges {d : List Byte} (hf : q.only [fXc, (0, 20)] = true) (h1 : 0 < q.imm 0 20)
    (h8192 : q.imm 0 20 ≤ 8192) (ha : s.scr.active = true) (hb : bit s.scr.bits 1 = true) (hl : d.length = q.imm 0 20)
    (hd : s.givenBytes b q d) : ∃ t : State, t.ucs = s.ucs ∧ s.patchBody b q = t.patchWith b q d := by
  obtain ⟨hx, hw⟩ := hd.form
  rw [hl] at hw
  have hbody := State.patchBody_of_form hf h1 h8192 hx hw
  rw [ha, hb, Bool.and_self, if_neg (Bool.false_ne_true ·.symm), State.spanned_of_fits (hl ▸ hd.fits)] at hbody
  obtain ⟨hx, hd⟩ | ⟨hx, -, -, -, hread⟩ := hd
  · obtain ⟨ch, t, hdata⟩ := State.patchData_of_data hl hd
    rw [if_neg (by omega), hdata] at hbody
    exact ⟨(s.withChunks b ch).withCur b ((patchCur q).withData d t), rfl, hbody⟩
  · rw [hl] at hread
    exact ⟨s, rfl, by rw [hbody, if_pos hx, State.patchScratch, State.scratchData, hread]⟩

/-! ### HEALTH (R211) -/

/-- The block of a card that stands alone goes up in one parcel, and the result counts its bytes. -/
theorem State.healthTurn_alone_spec (hf : q.only [fDst, fXc] = true) (hx : q.xc = 0) (hp : s.healthPositions = [s.position])
    (hr : s.stagingRoom = true) (hl : 272 ≤ s.lnk.pay) (hm : s.lnk.mode = .narrow) : ∃ r,
      (s.healthTurn b q).nar.up = s.nar.up ++ ⟨BitVec.ofNat 16 b.val, q.tag, .data s.healthData true⟩ :: r ∧
      ((s.healthTurn b q).berth b).reg q.dst = 272 := by
  have hne : s.healthData ≠ [] := List.ne_nil_of_length_eq_add_one s.length_healthData
  obtain ⟨u, hup, hmode, hu⟩ := State.deliver_one (s := s.healthState) (b := b) (c := s.healthCur q) rfl (Nat.le_refl 0) hne
    (s.length_healthData.le.trans hl) hr hm
  rw [State.healthTurn_of_alone hf hx hp, hu]
  obtain ⟨-, r, hr⟩ := (u.reportsTo_finish b q .ok 0 none (some (BitVec.ofNat 64 272))).2 hmode
  refine ⟨r, ?_, u.reg_finish b q .ok 0 none _⟩
  exact hr.trans (by rw [hup, List.append_assoc]; rfl)

/-! ### HALTCTL (R212) -/

theorem State.haltctlBody_of_ask (hm : q.modeBit 0 = false) (hf : q.only [fDst] = true) : s.haltctlBody b q =
    s.finish b q .ok 0 none (some ((s.flt.haltSeq.map s.ownSeq).getD (BitVec.allOnes 64))) := by
  simp only [State.haltctlBody, hm, Bool.false_eq_true, if_false]
  rw [State.checked_of_ok hf]
  cases s.flt.haltSeq <;> rfl

theorem State.haltctlBody_halts (hm : q.modeBit 0 = true) (hf : q.only [(40, 1), (0, 32)] = true)
    (hk : q.imm 0 32 = 0x48414C54) : (s.haltctlBody b q).flt.halted = true := by
  have hok : (q.only [(40, 1), (0, 32)] && q.imm 0 32 == 0x48414C54) = true := by simp [hf, hk]
  simp only [State.haltctlBody, hm, if_true]
  rw [State.checked_of_ok hok]
  exact State.halted_haltEntry _ _

end

/-- Settles O40: the clauses of QUIESCE and RESUME rest on what holding and freeing berths leaves, those of APPLY and PATCH on
the state in which their data are there, that of HEALTH on its one parcel, and that of the deadline on the stop's own end. -/
theorem stopChangeRestart : Obligations.StopChangeRestart := by
  unfold Obligations.StopChangeRestart
  refine ⟨fun s b q hrun => ?_, fun s hd ht => ?_, fun s b c hr hc => State.applyInstall_waits hr hc⟩
  · intro s'
    refine ⟨fun hq hf ha hd => ?_, fun hq hf h => ?_, fun hq hf ha => ?_, fun hq hf hx h1 h256 ha => ?_,
      fun hq hf hx h1 h8192 ha => ?_, fun hq hf ha => ?_, fun d hq hf h1 h256 ha hl hd => ?_,
      fun d hq hf h1 h8192 ha hb hl hd => ?_, fun hq hf hx hp hr hl hm => ?_, fun hq hm hf => ?_, fun hq hm hf hk => ?_⟩
    · have hbody := State.quiesceBody_of_free (b := b) hf ha hd
      obtain ⟨hscr, hstate⟩ := s'.holdBerths_beginDrain b q
      exact ⟨_, exec_next_congr (turn_of_op hrun hq rfl fun q s => s.quiesceBody b q) hbody, hscr, hstate⟩
    · exact exec_next_congr (turn_of_op hrun hq rfl fun q s => s.quiesceBody b q) (State.quiesceBody_of_stopped hf h)
    · exact exec_next_congr (turn_of_op hrun hq rfl fun q s => s.resumeBody b q) (State.resumeBody_of_running hf ha)
    · have hbody : s'.applyBody b q = _ := State.applyBody_of_form hf h1 h256 (by omega) (fun h => by omega)
      exact exec_next_congr (turn_of_op hrun hq rfl fun q s => s.applyBody b q) (hbody.trans (if_pos ha))
    · have hbody : s'.patchBody b q = _ := State.patchBody_of_form hf h1 h8192 (by omega) (fun h => by omega)
      exact exec_next_congr (turn_of_op hrun hq rfl fun q s => s.patchBody b q) (hbody.trans (if_pos ha))
    · have hbody := State.resumeBody_of_stopped (b := b) hf ha
      obtain ⟨hscr, hpress⟩ := s'.leaveQuiesce_spec
      exact ⟨_, exec_next_congr (turn_of_op hrun hq rfl fun q s => s.resumeBody b q) hbody, (State.scr_finish _ b q _ _ _ _).trans hscr,
        fun h => (State.reportsTo_finish _ b q _ _ _ _).1.trans (hpress h)⟩
    · intro c rs hcur hrefuse hrs hfl hadm hgate
      obtain ⟨x, t, hx, hbody⟩ := State.applyBody_asks hq hf h1 h256 ha hl hd hcur
      have hspec := State.applyAsk_closes (b := b) (c := c) (c' := (applyCur q d).withData d t) hx rfl rfl hrefuse hrs hfl hadm hgate
      exact ⟨_, exec_next_congr (turn_of_op hrun hq rfl fun q s => s.applyBody b q) hbody, hspec⟩
    · obtain ⟨t, hucs, hbody⟩ := State.patchBody_judges hf h1 h8192 ha hb hl hd
      have hset : setsLastStat q.op = true := by
        rw [hq]
        rfl
      have hspec := State.patchWith_spec (s := t) (b := b) hset d
      rw [hucs] at hspec
      exact ⟨_, exec_next_congr (turn_of_op hrun hq rfl fun q s => s.patchBody b q) hbody, hspec⟩
    · obtain ⟨r, hup, hreg⟩ := State.healthTurn_alone_spec (b := b) hf hx hp hr hl hm
      exact ⟨_, s'.healthData, r, turn_of_op hrun hq rfl fun q s => s.healthTurn b q, hup, s'.length_healthData,
        s'.take_healthData, s'.crc_healthData, hreg⟩
    · have hbody := State.haltctlBody_of_ask (s := s') (b := b) hm hf
      refine exec_next_congr (turn_of_op hrun hq rfl fun q s => s.haltctlBody b q) (hbody.trans ?_)
      cases s'.flt.haltSeq <;> rfl
    · exact ⟨_, turn_of_op hrun hq rfl fun q s => s.haltctlBody b q, State.haltctlBody_halts hm hf hk⟩
  · have hend : exec .quiesceDeadline s = _ := if_pos ⟨hd, ht⟩
    exact ⟨_, hend, State.quiesceDone_spec _⟩

end Sys2Proof.Machine
end

section
/-! SUPPORT. What the end of one berth's instruction leaves of the other berths and of the rows (R157, R161, R163). -/

namespace Sys2Proof.Machine

/-- Where a berth stands: its state, its instruction in progress and its session. -/
def Berth.posture (x : Berth) : BState × Option Cur × Session := (x.state, x.cur, x.session)

theorem Berth.state_of_posture {x y : Berth} (h : x.posture = y.posture) : x.state = y.state := congrArg (·.1) h

theorem Berth.cur_of_posture {x y : Berth} (h : x.posture = y.posture) : x.cur = y.cur := congrArg (·.2.1) h

theorem Berth.session_of_posture {x y : Berth} (h : x.posture = y.posture) : x.session = y.session := congrArg (·.2.2) h

/-- From `s` to `t` every berth but `b` stands where it stood, and the firmware's tables are the same. -/
def State.keepsOthers (s t : State) (b : BerthId) : Prop :=
  t.ftl = s.ftl ∧ ∀ a, a ≠ b → (t.berth a).posture = (s.berth a).posture

theorem State.keepsOthers.refl (s : State) (b : BerthId) : s.keepsOthers s b := ⟨rfl, fun _ _ => rfl⟩

theorem State.keepsOthers.trans {s t u : State} {b : BerthId} (h : s.keepsOthers t b) (g : t.keepsOthers u b) : s.keepsOthers u b :=
  ⟨g.1.trans h.1, fun a ha => (g.2 a ha).trans (h.2 a ha)⟩

theorem State.keepsOthers_of_movesOn {s t : State} {b : BerthId} (h : s.movesOn t b) : s.keepsOthers t b := by
  refine ⟨?_, fun a ha => congrArg Berth.posture (State.berth_movesOn_other h ha)⟩
  obtain ⟨⟨n, l, d, y, rfl⟩, -⟩ := h
  rfl

theorem State.keepsOthers_modBerth (s : State) (b : BerthId) (f : Berth → Berth) : s.keepsOthers (s.modBerth b f) b :=
  ⟨rfl, fun _ ha => congrArg Berth.posture (s.berth_modBerth_other f ha)⟩

theorem State.posture_raiseEvent (s : State) (code : Nat) (arg : W32) (src : Option BerthId) (a : BerthId) :
    ((s.raiseEvent code arg src).berth a).posture = (s.berth a).posture := by
  obtain ⟨w, n, l, h⟩ := s.raiseEvent_spec code arg src
  rw [h]
  simp [State.berth, Berth.posture, Berth.pendEvent]

theorem State.ftl_raiseEvent (s : State) (code : Nat) (arg : W32) (src : Option BerthId) :
    (s.raiseEvent code arg src).ftl = s.ftl := by
  obtain ⟨w, n, l, h⟩ := s.raiseEvent_spec code arg src
  rw [h]
  rfl

theorem State.keepsOthers_sendCompletion (s : State) (b : BerthId) (tag : W16) (op : Byte) (st : Status) (done : Nat)
    (first : Option Nat) (res : W64) : s.keepsOthers (s.sendCompletion b tag op st done first res) b :=
  State.keepsOthers_of_movesOn (s.movesOn_sendCompletion b tag op st done first res)

theorem State.keepsOthers_flushQueue (b : BerthId) (l : List QInstr) (s : State) : s.keepsOthers (s.flushQueue b l) b := by
  induction l generalizing s with
  | nil => exact .refl s b
  | cons q l ih => exact ((s.keepsOthers_modBerth b _).trans (State.keepsOthers_sendCompletion _ b _ _ _ _ _ _)).trans (ih _)

theorem State.keepsOthers_stopBerth (s : State) (b : BerthId) (st : Status) : s.keepsOthers (s.stopBerth b st) b := by
  unfold State.stopBerth
  extract_lets u v
  have hu : s.keepsOthers u b := s.keepsOthers_modBerth b _
  have hv : u.keepsOthers v b := by
    simp only [v]
    split_ifs
    · exact .refl u b
    · exact (State.keepsOthers_flushQueue b _ u).trans
        ⟨State.ftl_raiseEvent _ _ _ _, fun a _ => State.posture_raiseEvent _ _ _ _ a⟩
  exact (hu.trans hv).trans (State.keepsOthers_of_movesOn (v.movesOn_dropChunks b _))

theorem State.keepsOthers_stopHere (s : State) (b : BerthId) : s.keepsOthers (s.stopHere b) b := by
  unfold State.stopHere
  extract_lets x
  split_ifs
  · exact ((s.keepsOthers_modBerth b _).trans (State.keepsOthers_sendCompletion _ b _ _ _ _ _ _)).trans (State.keepsOthers_stopBerth _ b _)
  · exact s.keepsOthers_stopBerth b _

theorem State.keepsOthers_concludes (s : State) (b : BerthId) (q : QInstr) (st : Status) (done : Nat) (first : Option Nat)
    (res : Option W64) (pc : Nat) : s.keepsOthers (s.concludes b q st done first res pc) b := by
  have hu := State.keepsOthers_of_movesOn (s.movesOn_reportsEnd b q st done first res)
  unfold State.concludes
  rw [← State.reportsEnd]
  generalize s.reportsEnd b q st done first res = u at *
  refine hu.trans ?_
  extract_lets x
  split_ifs
  · exact u.keepsOthers_stopBerth b st
  · exact ((u.keepsOthers_modBerth b _).trans (State.keepsOthers_sendCompletion _ b _ _ _ _ _ _)).trans (State.keepsOthers_stopBerth _ b _)
  · exact u.keepsOthers_stopHere b
  · exact State.keepsOthers_of_movesOn (u.movesOn_rest b)

/-- Beside the count of write-through completions the end of an instruction moves no table, and no other berth stands elsewhere. -/
theorem State.keepsOthers_finish (s : State) (b : BerthId) (q : QInstr) (st : Status) (done : Nat) (first : Option Nat)
    (res : Option W64) : (s.countThru st).keepsOthers (s.finish b q st done first res) b := by
  rw [State.finish, State.finishAt_eq]
  exact (((s.countThru st).keepsOthers_modBerth b _).trans (State.keepsOthers_of_movesOn (State.movesOn_leaveData _ b q _))).trans
    (State.keepsOthers_concludes _ b q st done first res _)

theorem State.posture_finish_other (s : State) {a b : BerthId} (h : a ≠ b) (q : QInstr) (st : Status) (done : Nat)
    (first : Option Nat) (res : Option W64) : ((s.finish b q st done first res).berth a).posture = (s.berth a).posture :=
  (s.keepsOthers_finish b q st done first res).2 a h

theorem State.ftl_finish_ok (s : State) (b : BerthId) (q : QInstr) (done : Nat) (first : Option Nat) (res : Option W64) :
    (s.finish b q .ok done first res).ftl = s.ftl := by
  rw [(s.keepsOthers_finish b q .ok done first res).1, State.countThru_ok]

theorem State.grd_finish (s : State) (b : BerthId) (q : QInstr) (st : Status) (done : Nat) (first : Option Nat)
    (res : Option W64) : (s.finish b q st done first res).grd = s.grd := by
  rw [State.completesTo_finish]

theorem State.rgn_finish (s : State) (b : BerthId) (q : QInstr) (st : Status) (done : Nat) (first : Option Nat)
    (res : Option W64) : (s.finish b q st done first res).rgn = s.rgn := by
  rw [State.completesTo_finish]

theorem State.store_finish (s : State) (b : BerthId) (q : QInstr) (st : Status) (done : Nat) (first : Option Nat)
    (res : Option W64) : (s.finish b q st done first res).store = s.store := by
  rw [State.completesTo_finish]

theorem State.grd_raiseEvent (s : State) (code : Nat) (arg : W32) (src : Option BerthId) :
    (s.raiseEvent code arg src).grd = s.grd := by
  rw [State.completesTo_raiseEvent]

theorem State.grd_sealCard (s : State) (typ : W16) (payload : List Byte) : (s.sealCard typ payload).grd = s.grd := by
  rw [State.sealCard_frame]

end Sys2Proof.Machine
end

section
/-! PROOFS. GUARD (O38): the gate that it closes, what the drain installs, and what a gate that does not drain leaves. -/

namespace Sys2Proof.Machine

/-! ### The gate closes (R229) -/

/-- A GUARD whose commit is admitted finds the gate open and closes it for its region. -/
theorem State.guardBody_of_open {s : State} {b : BerthId} {q : QInstr} (hf : q.only [fXc] = true) (hx : q.xc = 1)
    (hw : bits (q.extWord 0) 6 2 = 0) (hw' : bits (q.extWord 0) 13 51 = 0) (he : s.entryOk (guardRegion q))
    (hr : s.guardRefusal b q = none) (hfl : s.flashReady) (ha : s.hup.answerItem commitCost = .admitted)
    (hg : s.grd.gate = none) : s.guardBody b q = (s.charged b (Cur.init q .ledger) .commit commitCost).closeGate b
      (Cur.init q .ledger) (BitVec.ofNat 64 (2 ^ guardRegion q)) := by
  have hok : (q.only [fXc] && q.xc == 1 && bits (q.extWord 0) 6 2 == 0 && bits (q.extWord 0) 13 51 == 0) = true := by
    simp [hf, hx, hw, hw']
  have hg' : (s.charged b (Cur.init q .ledger) .commit commitCost).grd.gate = none := hg
  simp only [State.guardBody, State.checked_of_ok hok, State.checkEntry_of_entryOk he, hr, State.onFlash_of_ready hfl,
    State.askCommit_of_admitted ha, State.guardGo, State.berth_charged, State.takeGate, hg', Option.isSome_none,
    Bool.false_eq_true, if_false]
  rfl

theorem State.cur_closeGate (s : State) (b : BerthId) (c : Cur) (rs : W64) :
    ((s.closeGate b c rs).berth b).cur = some { c with phase := .drain } := by
  rw [State.closeGate, State.berth_modBerth]

/-! ### The gate opens (R230) -/

theorem completesTo_foldl {α : Type} {f : State → α → State} (h : ∀ (s : State) (a : α), s.CompletesTo (f s a)) (l : List α)
    (s : State) : s.CompletesTo (l.foldl f s) := by
  induction l generalizing s with
  | nil => exact .refl s
  | cons a l ih => exact (h s a).trans (ih _)

theorem State.completesTo_openGate (s : State) :
    ({ s with grd := { s.grd with gate := none } } : State).CompletesTo s.openGate := by
  refine completesTo_foldl (fun s b => ?_) _ _
  split
  · split_ifs
    · exact (s.completesTo_modBerth b _).trans (State.completesTo_rest _ b)
    · exact .refl s
  · exact .refl s

/-- The gate's owner leaves it. -/
def State.leaveGate (s : State) (b : BerthId) : State := if s.ownsGate b then s.openGate else s

theorem State.rgn_leaveGate (s : State) (b : BerthId) : (s.leaveGate b).rgn = s.rgn := by
  unfold State.leaveGate
  split_ifs
  · rw [State.completesTo_openGate]
  · rfl

theorem State.grd_leaveGate (s : State) (b : BerthId) :
    (s.leaveGate b).grd = if s.ownsGate b then { s.grd with gate := none } else s.grd := by
  unfold State.leaveGate
  split_ifs
  · rw [State.completesTo_openGate]
  · rfl

/-- A GUARD or APPLY that gives up opens its gate, and the rules stay (R219, R230). -/
theorem State.gateFail_spec {s : State} {b : BerthId} {c : Cur} (ho : s.ownsGate b = true)
    (hq : setsLastStat c.ins.op = true) (st : Status) (first : Option Nat) : let u := s.gateFail b c st first
    u.grd = { s.grd with gate := none } ∧ (u.berth b).lastStat = st ∧ (u.berth b).cur = none ∧ u.rgn = s.rgn := by
  obtain ⟨t, hg, hr, hu⟩ : ∃ t : State, t.grd = s.grd ∧ t.rgn = s.rgn ∧
      s.gateFail b c st first = (t.leaveGate b).finish b c.ins st 0 first none := by
    refine ⟨_, ?_, ?_, rfl⟩ <;> split_ifs <;> rfl
  have ho' : t.ownsGate b = true := by
    rw [State.ownsGate, hg]
    exact ho
  rw [hu]
  refine ⟨?_, State.lastStat_finish _ b hq _ _ _ _, State.cur_finish _ b _ _ _ _ _, ?_⟩
  · rw [State.grd_finish, State.grd_leaveGate, if_pos ho', hg]
  · rw [State.rgn_finish, State.rgn_leaveGate, hr]

/-! ### The new entry (R228, Table REGION-2) -/

/-- A region's entry with another colour and read-only bit. -/
def guardedCfg (old : W32) (colour : Nat) (ro : Bool) : W32 :=
  (old &&& ~~~(0xF8 : W32)) ||| word [(colour, 4), (ro.toNat, 3)]

/-- The bits that a GUARD sets lie in the colour's field and the read-only bit. -/
theorem guardWord_spec (c : Fin 16) (ro : Bool) : bits (word [(c.val, 4), (ro.toNat, 3)]) 4 4 = c ∧
    bit (word [(c.val, 4), (ro.toNat, 3)]) 3 = ro ∧ word [(c.val, 4), (ro.toNat, 3)] &&& ~~~(0xF8 : W32) = 0#32 := by
  revert c ro
  decide

theorem bits_eq_toNat_extractLsb' {w : Nat} (v : BitVec w) (lo n : Nat) : bits v lo n = (v.extractLsb' lo n).toNat := by
  rw [BitVec.extractLsb'_toNat, bits]

theorem guardedCfg_spec (old : W32) {c : Nat} (hc : c < 16) (ro : Bool) : bits (guardedCfg old c ro) 4 4 = c ∧
    bit (guardedCfg old c ro) 3 = ro ∧ guardedCfg old c ro &&& ~~~(0xF8 : W32) = old &&& ~~~(0xF8 : W32) := by
  obtain ⟨hcol, hro, hrest⟩ := guardWord_spec ⟨c, hc⟩ ro
  unfold guardedCfg
  generalize word [(c, 4), (ro.toNat, 3)] = w at *
  refine ⟨?_, ?_, ?_⟩
  · have hm : (~~~(0xF8 : W32)).extractLsb' 4 4 = 0#4 := by decide
    rw [bits_eq_toNat_extractLsb', BitVec.extractLsb'_or, BitVec.extractLsb'_and, hm, BitVec.and_zero, BitVec.zero_or,
      ← bits_eq_toNat_extractLsb', hcol]
  · have hm : (~~~(0xF8 : W32)).getLsbD 3 = false := by decide
    rw [bit, BitVec.getLsbD_or, BitVec.getLsbD_and, hm, Bool.and_false, Bool.false_or]
    exact hro
  · rw [BitVec.and_or_distrib_right, hrest, BitVec.and_assoc, BitVec.and_self, BitVec.or_zero]

/-! ### The drain (R230) -/

/-- The entry of a GUARD stands in the region's table, and its record is sealed. -/
def State.guarded (s : State) (b : BerthId) (q : QInstr) : State :=
  let x := s.region (guardRegion q)
  let new := guardedCfg x.cfg.val (guardColour q) (guardRo q)
  (s.setRegion (guardRegion q) { x with cfg := Pair.mk' new }).guardRecord (guardRegion q) x.cfg.val new 0 b

theorem State.rgn_guarded (s : State) (b : BerthId) (q : QInstr) : (s.guarded b q).rgn =
    (s.setRegion (guardRegion q) { s.region (guardRegion q) with
      cfg := Pair.mk' (guardedCfg (s.region (guardRegion q)).cfg.val (guardColour q) (guardRo q)) }).rgn := by
  rw [State.guarded, State.guardRecord, State.sealCard_frame]

theorem State.grd_guarded (s : State) (b : BerthId) (q : QInstr) : (s.guarded b q).grd = s.grd := by
  rw [State.guarded, State.guardRecord, State.sealCard_frame]
  rfl

theorem State.guardInstall_of_passed {s : State} {b : BerthId} {c : Cur} (hr : s.guardRefusal b c.ins = none) :
    ∃ after, s.guardInstall b c = (s.guarded b c.ins).gateCommit b c false [] after := by
  rw [State.guardInstall, hr]
  exact ⟨_, rfl⟩

/-- The change of a GUARD that the ledger covered waits for the journal. -/
def State.guardChange (s : State) (after : List After) : State :=
  s.retag.nextStamp.2.addChange { commitOf none true [] after with stamp := s.retag.nextStamp.1 }

/-- A change that the ledger covered, and whose durability is not awaited, opens the gate and ends its instruction. -/
theorem State.gateCommit_of_covered (s : State) (b : BerthId) {c : Cur} (hw : c.writeThrough = false) (after : List After) :
    s.gateCommit b c false [] after =
      ((s.guardChange after).leaveGate b).finish b c.ins c.status c.done c.first c.result := by
  simp only [State.gateCommit, hw, Bool.not_false, Bool.not_true, Bool.or_self, Bool.false_eq_true, if_false]
  rfl

theorem State.region_of_rgn {s t : State} (h : t.rgn = s.rgn) (n : Nat) : t.region n = s.region n := by
  rw [State.region, State.region, h]

theorem State.guardInstall_spec {s : State} {b : BerthId} {c : Cur} (hop : c.ins.op = 0x61) (hw : c.writeThrough = false)
    (hs : c.status = .ok) (hr : s.guardRefusal b c.ins = none) : let u := s.guardInstall b c
    u.rgn = (s.guarded b c.ins).rgn ∧ (s.ownsGate b = true → u.grd.gate = none) ∧ (u.berth b).lastStat = .ok ∧
      (u.berth b).cur = none := by
  obtain ⟨after, hcommit⟩ := State.guardInstall_of_passed hr
  have hu := hcommit.trans ((s.guarded b c.ins).gateCommit_of_covered b hw after)
  have hgrd : ((s.guarded b c.ins).guardChange after).grd = s.grd := s.grd_guarded b c.ins
  have hset : setsLastStat c.ins.op = true := by
    rw [hop]
    rfl
  rw [hu]
  refine ⟨?_, fun ho => ?_, ?_, State.cur_finish _ b _ _ _ _ _⟩
  · rw [State.rgn_finish, State.rgn_leaveGate]
    rfl
  · have ho' : ((s.guarded b c.ins).guardChange after).ownsGate b = true := by
      rw [State.ownsGate, hgrd]
      exact ho
    rw [State.grd_finish, State.grd_leaveGate, if_pos ho']
  · rw [State.lastStat_finish _ b hset, hs]

/-- Settles O38: the admitted GUARD closes the gate that it finds open, the drain writes one region's entry, and a gate that fails
opens with the regions as they were. -/
theorem guardCompletes : Obligations.GuardCompletes := by
  unfold Obligations.GuardCompletes
  refine ⟨fun s b q hrun => ?_, fun s b c hop hw hs hr => ?_, fun s g c hg h0 hc hp hop => ?_⟩
  · intro s' hq hf hx hx1 hx2 he hr hfl ha hg
    have hbody := State.guardBody_of_open hf hx hx1 hx2 he hr hfl ha hg
    obtain ⟨hgate, hstate, hrgn⟩ := State.closeGate_spec (s'.charged b (Cur.init q .ledger) .commit commitCost) b
      (Cur.init q .ledger) (BitVec.ofNat 64 (2 ^ guardRegion q))
    exact ⟨_, exec_next_congr (turn_of_op hrun hq rfl fun q s => s.guardBody b q) hbody, hgate, hstate,
      congrArg (Option.map (·.phase)) (State.cur_closeGate _ b _ _), hrgn, Hup.d_take ha (by decide) _⟩
  · intro r u old new
    obtain ⟨hrgn, hgate, hstat, hcur⟩ := State.guardInstall_spec hop hw hs hr
    have hreg (n : Nat) : u.region n = _ := State.region_of_rgn (hrgn.trans (s.rgn_guarded b c.ins)) n
    have hcfg : (u.region r).cfg = Pair.mk' (guardedCfg old (guardColour c.ins) (guardRo c.ins)) := by
      rw [hreg, State.region_setRegion]
    obtain ⟨hcol, hro, hrest⟩ := guardedCfg_spec old (bits_lt _ 8 4 : guardColour c.ins < 2 ^ 4) (guardRo c.ins)
    have hnew : new = guardedCfg old (guardColour c.ins) (guardRo c.ins) := congrArg Pair.val hcfg
    rw [hnew, hcfg]
    refine ⟨Pair.ok_mk _ _, hcol, hro, hrest, fun n hn hne => ?_, hgate, hstat, hcur⟩
    have hr64 : r < 64 := bits_lt _ 0 6
    refine (hreg n).trans (State.region_setRegion_other s _ fun h => hne ?_)
    have hmod : n % 64 = r % 64 := congrArg Fin.val h
    omega
  · have ho : ({ s with grd := { s.grd with timeouts := satInc s.grd.timeouts } } : State).ownsGate g.owner = true := by
      simp [State.ownsGate, hg]
    have hset : setsLastStat c.ins.op = true := by
      obtain hop | hop := hop
      all_goals
        rw [hop]
        rfl
    obtain ⟨hgrd, hstat, hcur, hrgn⟩ := State.gateFail_spec ho hset .gateTimeout none
    have hexec : exec .gateTimeout s = .next (s.close (State.gateFail
        { s with grd := { s.grd with timeouts := satInc s.grd.timeouts } } g.owner c .gateTimeout none)) := by
      change execGateTimeout s = _
      rw [execGateTimeout, hg]
      simp only [hc]
      exact if_pos ⟨h0, hp⟩
    exact ⟨_, hexec, by rw [hgrd], by rw [hgrd], hstat, hcur, hrgn⟩

end Sys2Proof.Machine
end

section
/-! PROOFS. LOCK, UNLOCK and FERASE (O39). -/

namespace Sys2Proof.Machine

/-! ### LOCK and UNLOCK (R236 to R239) -/

section
variable {s : State} {b : BerthId} {q : QInstr}

/-- What a LOCK or an UNLOCK asks of the lock, of the password and of the tries (Table REGION-6). -/
theorem State.lockRefusal_of_passed (hk : q.key.all (· == 0) = false) (ht : s.grd.tries < 5) (h2 : bits s.grd.lock.val 0 2 ≠ 2)
    (hl : q.op = 0x62 → bits s.grd.lock.val 0 2 = 0) (hu : q.op ≠ 0x62 → s.grd.password ≠ none) : s.lockRefusal q = none := by
  have hb : s.entryBlocked = false := decide_eq_false (by omega)
  have hstate : ¬(bits s.grd.lock.val 0 2 = 2 ∨ ((q.op == 0x62) = true ∧ bits s.grd.lock.val 0 2 = 1) ∨
      (¬(q.op == 0x62) = true ∧ s.grd.password.isNone = true)) := by
    rintro (h | ⟨ho, h1⟩ | ⟨ho, hp⟩)
    · exact h2 h
    · have := hl (beq_iff_eq.1 ho)
      omega
    · exact hu (fun h => ho (beq_iff_eq.2 h)) (Option.isNone_iff_eq_none.1 hp)
  simp only [State.lockRefusal, hk, Bool.false_eq_true, if_false, if_neg hstate, hb]

theorem State.lockBody_of_admitted (hf : q.only [fXc] = true) (hx : q.xc = 2) (hr : s.lockRefusal q = none) (hfl : s.flashReady)
    (ha : s.hup.answerItem commitCost = .admitted) :
    s.lockBody b q = (s.charged b (Cur.init q .ledger) .commit commitCost).lockGo b true := by
  have hok : (q.only [fXc] && q.xc == 2) = true := by simp [hf, hx]
  simp only [State.lockBody, State.checked_of_ok hok, hr, State.onFlash_of_ready hfl, State.askCommit_of_admitted ha]

/-- The change of the lock waits for its durability (R238). -/
def State.lockWaits (s : State) (b : BerthId) (c : Cur) (st : BitVec 2) (pw : PwChange) : State :=
  (s.addChange (commitOf (some b) true [] [.lock b st pw])).untilDurable b c 1

variable {c : Cur} (hc : (s.berth b).cur = some c) (hr : s.lockRefusal c.ins = none)
include hc hr

/-- Without a password the key becomes the password. -/
theorem State.lockGo_of_none (hp : s.grd.password = none) : s.lockGo b true =
    (s.newPassword c.ins.key).2.lockWaits b c 1 (.store (s.newPassword c.ins.key).1) := by
  simp only [State.lockGo, hc, hr, hp]
  rfl

/-- The password's own key clears the tries, and an UNLOCK of an unlocked card takes the password away (Table REGION-6). -/
theorem State.lockGo_of_right {p : Password} (hp : s.grd.password = some p)
    (hk : Config.passwordMac p.salt c.ins.key = p.mac) : s.lockGo b true =
    let t := { s with grd := { s.grd with tries := 0 } }
    if c.ins.op = 0x62 then t.lockWaits b c 1 .keep
    else t.lockWaits b c 0 (if bits s.grd.lock.val 0 2 = 1 then .keep else .remove) := by
  simp only [State.lockGo, hc, hr, hp, State.tryPassword_of_right hk, Bool.not_true, Bool.false_eq_true, if_false, beq_iff_eq]
  by_cases ho : c.ins.op = 0x62
  · rw [if_pos ho, if_pos ho]
    rfl
  · rw [if_neg ho, if_neg ho]
    split_ifs
    · rfl
    · rfl

theorem State.lockGo_of_wrong {p : Password} (hp : s.grd.password = some p)
    (hk : Config.passwordMac p.salt c.ins.key ≠ p.mac) (ht : s.grd.tries < 4) : s.lockGo b true =
    s.counted.commitFail b c.ins true .badPassword := by
  have hb : ¬s.counted.entryBlocked = true := fun h => absurd (of_decide_eq_true h) (Nat.not_le.2 (Nat.succ_lt_succ ht))
  simp only [State.lockGo, hc, hr, hp, State.tryPassword_of_wrong hk, if_neg hb, Bool.not_false, if_true]

end

/-- A wrong key adds to the count of tries, and the lock stays (R223, R239). -/
theorem State.commitFail_counted (s : State) (b : BerthId) {q : QInstr} (hq : setsLastStat q.op = true) :
    let u := s.counted.commitFail b q true .badPassword
    u.grd.tries = s.grd.tries + 1 ∧ u.grd.lock = s.grd.lock ∧ (u.berth b).lastStat = .badPassword := by
  have hgrd : (s.counted.commitFail b q true .badPassword).grd = s.counted.grd := State.grd_finish _ _ _ _ _ _ _
  intro u
  rw [hgrd]
  exact ⟨rfl, rfl, State.lastStat_finish _ b hq _ _ _ _⟩

/-! ### The lock changes (R236 to R238) -/

/-- The guard with another lock state, and its password kept, set or removed. -/
def Guard.relocked (g : Guard) (st : BitVec 2) (pw : PwChange) : Guard :=
  { g with
    lock := Pair.mk' st
    password := match pw with
      | .keep => g.password
      | .store p => some p
      | .remove => none }

/-- A change of the lock that does not lock the card seals its record and raises its event; no berth stands elsewhere. -/
theorem State.lockChange_spec (s : State) (b : BerthId) {st : BitVec 2} (h : st ≠ 1) (pw : PwChange) :
    let u := s.lockChange b st pw
    u.grd = s.grd.relocked st pw ∧ u.store = s.store ∧ u.ftl = s.ftl ∧ ∀ a, (u.berth a).posture = (s.berth a).posture := by
  unfold State.lockChange
  extract_lets old g t v w u
  have ht : t.grd = s.grd.relocked st pw := by cases pw <;> rfl
  have hv : v = t := if_neg fun hst => h hst.1
  have hw : w.grd = v.grd ∧ w.store = v.store ∧ w.ftl = v.ftl ∧ w.berths = v.berths := by
    simp only [w]
    rw [State.lockRecord, State.sealCard_frame]
    exact ⟨rfl, rfl, rfl, rfl⟩
  obtain ⟨hg, hs, hf, hb⟩ := hw
  rw [hv] at hg hs hf hb
  refine ⟨(State.grd_raiseEvent _ _ _ _).trans (hg.trans ht), ?_, (State.ftl_raiseEvent _ _ _ _).trans hf, fun a => ?_⟩
  · simp only [u]
    rw [State.completesTo_raiseEvent]
    exact hs
  · refine (State.posture_raiseEvent _ _ _ _ a).trans (congrArg Berth.posture ?_)
    rw [State.berth, State.berth, hb]

/-! ### A forced erase begins (step 1 of Table REGION-7) -/

/-- A berth that is turned away leaves the guard and every session, and no other berth stands elsewhere (R180). -/
theorem State.busyOut_spec (s : State) (x : BerthId) : (s.busyOut x).grd = s.grd ∧
    (∀ a, ((s.busyOut x).berth a).session = (s.berth a).session) ∧
    ∀ a, a ≠ x → ((s.busyOut x).berth a).posture = (s.berth a).posture := by
  unfold State.busyOut
  split
  next c hc =>
    split_ifs
    · refine ⟨State.grd_finish _ _ _ _ _ _ _, fun a => ?_, fun a ha => State.posture_finish_other _ ha _ _ _ _ _⟩
      by_cases ha : a = x
      · rw [ha]
        exact State.session_finish _ _ _ _ _ _ _
      · exact Berth.session_of_posture (State.posture_finish_other _ ha _ _ _ _ _)
    · exact ⟨rfl, fun _ => rfl, fun _ _ => rfl⟩
  next => exact ⟨rfl, fun _ => rfl, fun _ _ => rfl⟩

/-- The berths of a list but `b` are turned away. -/
def State.turnAway (s : State) (b : BerthId) (l : List BerthId) : State :=
  l.foldl (fun s x => if x = b then s else s.busyOut x) s

theorem State.turnAway_spec (b : BerthId) (l : List BerthId) (s : State) : (s.turnAway b l).grd = s.grd ∧
    (∀ a, ((s.turnAway b l).berth a).session = (s.berth a).session) ∧
    ((s.turnAway b l).berth b).posture = (s.berth b).posture := by
  induction l generalizing s with
  | nil => exact ⟨rfl, fun _ => rfl, rfl⟩
  | cons x l ih =>
    rw [State.turnAway, List.foldl_cons]
    obtain ⟨hg, hs, hp⟩ := ih (if x = b then s else s.busyOut x)
    by_cases hx : x = b
    · rw [if_pos hx] at hg hs hp ⊢
      exact ⟨hg, hs, hp⟩
    · rw [if_neg hx] at hg hs hp ⊢
      obtain ⟨kg, ks, kp⟩ := s.busyOut_spec x
      exact ⟨hg.trans kg, fun a => (hs a).trans (ks a), hp.trans (kp b (Ne.symm hx))⟩

theorem State.berth_closeSessions (s : State) (a : BerthId) : s.closeSessions.berth a =
    { s.berth a with session := { (s.berth a).session with set := 1 } } := by
  simp [State.closeSessions, State.berth]

/-- Where the card is not being erased, step 1 locks it out, closes the sessions, and turns away what waits elsewhere. -/
theorem State.eraseStart_turnsAway {s : State} (b : BerthId) (h : bits s.grd.lock.val 0 2 ≠ 2) : ∃ w : State,
    s.eraseStart b = w.turnAway b allBerths ∧ w.grd.lock = ((s.refuseReq 7).lockChange b 2 .keep).grd.lock ∧
      w.grd.erasePct = 0 ∧ w.berths = ((s.refuseReq 7).lockChange b 2 .keep).closeSessions.berths := by
  rw [State.eraseStart, if_neg h]
  exact ⟨_, rfl, rfl, rfl, rfl⟩

/-- Step 1 leaves every session with colour 0 alone, and its own berth where it stood. -/
theorem State.eraseStart_spec {s : State} (b : BerthId) (h : bits s.grd.lock.val 0 2 ≠ 2) : let u := s.eraseStart b
    bits u.grd.lock.val 0 2 = 2 ∧ u.grd.erasePct = 0 ∧ (∀ x, (u.berth x).session.set = 1) ∧
      (u.berth b).state = (s.berth b).state ∧ (u.berth b).cur = (s.berth b).cur := by
  obtain ⟨w, hu, hlock, hpct, hberths⟩ := s.eraseStart_turnsAway b h
  obtain ⟨hgrd, -, -, hpost⟩ := (s.refuseReq 7).lockChange_spec b (st := 2) (by decide) .keep
  obtain ⟨hg, hs, hp⟩ := State.turnAway_spec b allBerths w
  generalize (s.refuseReq 7).lockChange b 2 .keep = v at *
  have hrefuse : (s.refuseReq 7).berth b = s.berth b := by
    rw [State.refuseReq]
    split_ifs <;> rfl
  have hw (a : BerthId) : w.berth a = { v.berth a with session := { (v.berth a).session with set := 1 } } := by
    rw [← State.berth_closeSessions, State.berth, hberths]
    rfl
  have hv := hpost b
  rw [hrefuse] at hv
  rw [hu]
  refine ⟨?_, (congrArg Guard.erasePct hg).trans hpct, fun x => by rw [hs, hw], ?_, ?_⟩
  · rw [hg, hlock, hgrd]
    rfl
  · rw [Berth.state_of_posture hp, hw, Berth.state_of_posture hv]
  · rw [Berth.cur_of_posture hp, hw, Berth.cur_of_posture hv]

/-- A covered FERASE of a card that no erase holds begins its erase at once (R241). -/
theorem State.feraseBody_of_admitted {s : State} {b : BerthId} {q : QInstr} (hf : q.only [fXc] = true) (hx : q.xc = 1)
    (hw : q.extWord 0 = 0x46455241) (ha : s.scr.active = false) (hd : s.scr.draining = false) (hfl : s.flashReady)
    (had : s.hup.answerItem commitCost = .admitted) : s.feraseBody b q =
      (((s.charged b (Cur.init q .ledger) .commit commitCost).waitFor b .die (Cur.init q .erase)).eraseStart b).addChange
        (commitOf none true [] [.ferase b]) := by
  have hok : (q.only [fXc] && q.xc == 1 && q.extWord 0 == 0x46455241) = true := by simp [hf, hx, hw]
  have hscr : ((s.charged b (Cur.init q .ledger) .commit commitCost).scr.active ||
      (s.charged b (Cur.init q .ledger) .commit commitCost).scr.draining) = false := by
    change (s.scr.active || s.scr.draining) = false
    rw [ha, hd, Bool.or_self]
  simp only [State.feraseBody, State.checked_of_ok hok, ha, hd, Bool.or_self, Bool.false_eq_true, if_false,
    State.onFlash_of_ready hfl, State.askCommit_of_admitted had, State.feraseGo, State.berth_charged, hscr, if_true]
  rfl

/-! ### A forced erase ends (steps 4 to 6) -/

theorem State.mem_rows_freeRow {s : State} {id : Nat} {r : Row} (h : r ∈ (s.freeRow id).ftl.rows) :
    r ∈ s.ftl.rows ∧ r.id ≠ id := by
  unfold State.freeRow at h
  split at h
  next hn => exact ⟨h, by simpa using List.find?_eq_none.1 hn r h⟩
  next => simpa using h

theorem State.mem_rows_freeRows {ids : List Nat} {s : State} {r : Row} (h : r ∈ (s.freeRows ids).ftl.rows) :
    r ∈ s.ftl.rows ∧ r.id ∉ ids := by
  induction ids generalizing s with
  | nil => exact ⟨h, List.not_mem_nil⟩
  | cons i ids ih =>
    obtain ⟨hrow, hids⟩ := ih (s := s.freeRow i) h
    obtain ⟨hmem, hne⟩ := State.mem_rows_freeRow hrow
    exact ⟨hmem, by simp [hne, hids]⟩

/-- Freeing rows moves the firmware's tables alone. -/
theorem State.freeRows_frame (ids : List Nat) (s : State) : s.freeRows ids = { s with ftl := (s.freeRows ids).ftl } := by
  induction ids generalizing s with
  | nil => rfl
  | cons i ids ih =>
    have hrow : s.freeRow i = { s with ftl := (s.freeRow i).ftl } := by
      unfold State.freeRow
      split <;> rfl
    have h : s.freeRows (i :: ids) = { s.freeRow i with ftl := (s.freeRows (i :: ids)).ftl } := ih (s.freeRow i)
    rw [h, hrow]

/-- The rows that hold data: all but those of the map. -/
def State.dataRows (s : State) : List Nat :=
  (s.ftl.rows.filter fun (r : Row) => r.cls == .tlc || r.cls == .seedbed).map Row.id

theorem State.eraseLocal_frees (s : State) (n : W32) : ∃ v : State, s.eraseLocal n = v.freeRows s.dataRows ∧
    (v.grd.lock = s.grd.lock ∧ v.grd.erasePct = 100 ∧ v.grd.eraseBerth = s.grd.eraseBerth) ∧ v.quy = s.quy ∧
      v.berths = s.berths ∧ v.store = [] ∧ v.ftl.rows = s.ftl.rows := ⟨_, rfl, ⟨rfl, rfl, rfl⟩, rfl, rfl, rfl, rfl⟩

/-- Step 4 empties the controller: no data is stored, and no row of data stands. -/
theorem State.eraseLocal_spec (s : State) (n : W32) : let t := s.eraseLocal n
    (t.grd.lock = s.grd.lock ∧ t.grd.erasePct = 100 ∧ t.grd.eraseBerth = s.grd.eraseBerth) ∧ t.quy = s.quy ∧
      t.berths = s.berths ∧ t.store = [] ∧ ∀ r ∈ t.ftl.rows, r.cls ≠ .tlc ∧ r.cls ≠ .seedbed := by
  obtain ⟨v, hv, hgrd, hquy, hberths, hstore, hrows⟩ := s.eraseLocal_frees n
  rw [hv]
  intro t
  have ht : t = { v with ftl := t.ftl } := State.freeRows_frame _ v
  refine ⟨by rw [ht]; exact hgrd, by rw [ht]; exact hquy, by rw [ht]; exact hberths, by rw [ht]; exact hstore, fun r hr => ?_⟩
  obtain ⟨hmem, hid⟩ := State.mem_rows_freeRows hr
  have hcls : ¬(r.cls == .tlc || r.cls == .seedbed) = true := fun h =>
    hid (List.mem_map_of_mem (List.mem_filter.2 ⟨hrows ▸ hmem, h⟩))
  simpa using hcls

theorem State.erasePart_congr {s t : State} (hb : t.berths = s.berths) (he : t.grd.eraseBerth = s.grd.eraseBerth) (o : SubOut) :
    t.erasePart o = s.erasePart o := by
  simp only [State.erasePart, State.berth, hb, he]

/-- Steps 5 and 6 unlock the card without a password, and leave what is stored as it is. -/
theorem State.eraseEnd_spec {s : State} (hl : bits s.grd.lock.val 0 2 = 2) (hp : s.grd.erasePct = 100)
    (ho : s.quy.out.any s.erasePart = false) : let u := s.eraseEnd
    bits u.grd.lock.val 0 2 = 0 ∧ u.grd.password = none ∧ u.grd.erasePct = 100 ∧ u.store = s.store ∧ u.ftl = s.ftl := by
  have hcond : ¬(bits s.grd.lock.val 0 2 ≠ 2 ∨ s.grd.erasePct ≠ 100 ∨ s.quy.out.any s.erasePart = true) := by simp [hl, hp, ho]
  unfold State.eraseEnd
  rw [if_neg hcond]
  extract_lets b had g v w t u
  obtain ⟨hg, hs, hf, -⟩ := v.lockChange_spec b (st := 0) (by decide) (if had then .remove else .keep)
  have hpw : w.grd.password = none := by
    refine (congrArg Guard.password hg).trans ?_
    cases h : s.grd.password with
    | none =>
      have hhad : had = false := by simp [had, h]
      rw [hhad]
      exact h
    | some p =>
      have hhad : had = true := by simp [had, h]
      rw [hhad]
      rfl
  have ht : (bits t.grd.lock.val 0 2 = 0 ∧ t.grd.password = none ∧ t.grd.erasePct = 100) ∧ t.store = s.store ∧ t.ftl = s.ftl := by
    have hseal : t.grd = w.grd ∧ t.store = w.store ∧ t.ftl = w.ftl := by
      simp only [t]
      rw [State.sealCard_frame]
      exact ⟨rfl, rfl, rfl⟩
    obtain ⟨h1, h2, h3⟩ := hseal
    rw [h1, h2, h3]
    exact ⟨⟨by rw [hg]; rfl, hpw, by rw [hg]; exact hp⟩, hs, hf⟩
  obtain ⟨⟨h1, h2, h3⟩, h4, h5⟩ := ht
  clear_value t
  have hu : (u.grd = t.grd ∧ u.store = t.store) ∧ u.ftl = t.ftl := by
    simp only [u]
    split
    next c hc =>
      split_ifs
      · exact ⟨⟨State.grd_finish _ _ _ _ _ _ _, State.store_finish _ _ _ _ _ _ _⟩, State.ftl_finish_ok _ _ _ _ _ _⟩
      · exact ⟨⟨rfl, rfl⟩, rfl⟩
    next =>
      split_ifs
      · exact ⟨⟨rfl, rfl⟩, rfl⟩
      · exact ⟨⟨rfl, rfl⟩, rfl⟩
  obtain ⟨⟨hgrd, hstore⟩, hftl⟩ := hu
  rw [hgrd, hstore, hftl]
  exact ⟨h1, h2, h3, h4, h5⟩

/-- Settles O39: the key decides an admitted LOCK or UNLOCK, whose change waits; an admitted FERASE begins at once, and its end
empties and unlocks the card. -/
theorem lockAndErase : Obligations.LockAndErase := by
  unfold Obligations.LockAndErase
  refine ⟨fun s b q hrun => ?_, fun s n hl hk hh ha hp hpos ho => ?_⟩
  · intro s' hfl ha st waits keyed
    have hcur : ((s'.charged b (Cur.init q .ledger) .commit commitCost).berth b).cur = some (Cur.init q .ledger) := by
      rw [State.berth_charged]
    have hadmit : keyed → s'.lockRefusal q = none →
        s'.lockBody b q = (s'.charged b (Cur.init q .ledger) .commit commitCost).lockGo b true :=
      fun ⟨hf, hx, _⟩ hr => State.lockBody_of_admitted hf hx hr hfl ha
    have hlock : keyed → q.op = 0x62 → st = 0 → s'.lockRefusal q = none := fun ⟨_, _, hkey, ht⟩ hq h0 =>
      State.lockRefusal_of_passed hkey ht (by omega) (fun _ => h0) fun hn => absurd hq hn
    have hunlock (p : Password) : keyed → q.op = 0x63 → st ≤ 1 → s'.grd.password = some p → s'.lockRefusal q = none :=
      fun ⟨_, _, hkey, ht⟩ hq h1 hpw =>
        State.lockRefusal_of_passed hkey ht (by omega) (fun hn => absurd (hq.symm.trans hn) (by decide)) fun _ => by simp [hpw]
    have hwaits (t : State) (x : BitVec 2) (pw : PwChange) (hg : t.grd.lock = s'.grd.lock ∧ t.grd.password = s'.grd.password)
        (hf : t.ftl = s'.ftl) : waits (t.lockWaits b (Cur.init q .ledger) x pw) x pw := by
      refine ⟨?_, State.waitsDurable_untilDurable _ b 1 rfl, hg⟩
      rw [← hf]
      rfl
    refine ⟨fun hq hkeyed h0 hpw => ?_, fun p hq hkeyed h0 hpw hright => ?_, fun p hq hkeyed h1 hpw hright => ?_,
      fun p hkeyed hpw hwrong h4 => ⟨fun hq h0 => ?_, fun hq h1 => ?_⟩, fun hq hf hx hw hact hdr h2 => ?_⟩
    · have hr := hlock hkeyed hq h0
      have hbody := (hadmit hkeyed hr).trans (State.lockGo_of_none hcur hr hpw)
      exact ⟨_, _, exec_next_congr (turn_of_op hrun hq rfl fun q s => s.lockBody b q) hbody, rfl, hwaits _ _ _ ⟨rfl, rfl⟩ rfl⟩
    · have hr := hlock hkeyed hq h0
      have hbody := (hadmit hkeyed hr).trans (State.lockGo_of_right hcur hr hpw hright)
      exact ⟨_, exec_next_congr (turn_of_op hrun hq rfl fun q s => s.lockBody b q) (hbody.trans (if_pos (by exact hq))),
        hwaits _ _ _ ⟨rfl, rfl⟩ rfl, rfl⟩
    · have hr := hunlock p hkeyed hq h1 hpw
      have hbody := (hadmit hkeyed hr).trans (State.lockGo_of_right hcur hr hpw hright)
      have hne : ¬q.op = 0x62 := fun h => absurd (hq.symm.trans h) (by decide)
      exact ⟨_, exec_next_congr (turn_of_op hrun hq rfl fun q s => s.lockBody b q) (hbody.trans (if_neg (by exact hne))),
        hwaits _ _ _ ⟨rfl, rfl⟩ rfl, rfl⟩
    · have hr := hlock hkeyed hq h0
      have hbody := (hadmit hkeyed hr).trans (State.lockGo_of_wrong hcur hr hpw hwrong h4)
      exact ⟨_, exec_next_congr (turn_of_op hrun hq rfl fun q s => s.lockBody b q) hbody,
        State.commitFail_counted _ b (by exact hq ▸ rfl)⟩
    · have hr := hunlock p hkeyed hq h1 hpw
      have hbody := (hadmit hkeyed hr).trans (State.lockGo_of_wrong hcur hr hpw hwrong h4)
      exact ⟨_, exec_next_congr (turn_of_op hrun hq rfl fun q s => s.lockBody b q) hbody,
        State.commitFail_counted _ b (by exact hq ▸ rfl)⟩
    · have hbody := State.feraseBody_of_admitted (b := b) hf hx hw hact hdr hfl ha
      obtain ⟨hl, hpct, hsess, hstate, hc⟩ := State.eraseStart_spec
        (s := (s'.charged b (Cur.init q .ledger) .commit commitCost).waitFor b .die (Cur.init q .erase)) b h2
      rw [State.waitFor, State.berth_modBerth] at hstate hc
      exact ⟨_, exec_next_congr (turn_of_op hrun hq rfl fun q s => s.feraseBody b q) hbody, hl, hpct, hsess, hstate,
        congrArg (Option.map (·.phase)) hc⟩
  · obtain ⟨⟨hlock, hpct, hberth⟩, hquy, hberths, hstore, hrows⟩ := s.eraseLocal_spec n
    have hout : (s.eraseLocal n).quy.out.any (s.eraseLocal n).erasePart = false := by
      rw [hquy, funext (State.erasePart_congr hberths hberth)]
      exact ho
    obtain ⟨hl', hpw', hpct', hstore', hftl'⟩ := State.eraseEnd_spec (by rw [hlock]; exact hl) hpct hout
    have hexec : exec (.feraseEraseDone n) s = .next (s.close (s.eraseLocal n).eraseEnd) := by
      change execFeraseEraseDone n s = _
      rw [execFeraseEraseDone, if_pos ⟨hk, hp, by simp [hh], ha⟩]
      simp only [if_pos hpos]
      rfl
    exact ⟨_, hexec, hl', hpw', hpct', hstore'.trans hstore, by rw [hftl']; exact hrows⟩

end Sys2Proof.Machine
end

section
/-! PROOFS. The release sequence (O45): step 4 where the berth that it ends has a QUIESCE, and a press waits. -/

namespace Sys2Proof.Machine

/-! ### Berths that come to rest -/

/-- Berths that come to rest move with the path up and the count of parcels dropped, and nothing else does. -/
theorem foldl_rest_frame {p : State → BerthId → Prop} [∀ s b, Decidable (p s b)] (bs : List BerthId) (s : State) : ∃ n l d x,
    bs.foldl (fun s b => if p s b then s.rest b else s) s = { s with nar := n, lnk := l, bth := d, berths := x } := by
  induction bs generalizing s with
  | nil => exact ⟨_, _, _, _, rfl⟩
  | cons b bs ih =>
    rw [List.foldl_cons]
    split_ifs
    · obtain ⟨⟨n, l, d, y, h⟩, -⟩ := s.movesOn_rest b
      rw [h]
      exact ih _
    · exact ih s

theorem State.holdBerths_frame (s : State) : ∃ n l d x,
    s.holdBerths = { s with nar := n, lnk := l, bth := d, berths := x } := foldl_rest_frame _ s

/-! ### Step 4 where nothing is promised (Table HUP-7) -/

/-- No die operation, change or signature is under way, and no record's completion is awaited. -/
def State.owesNothing (s : State) : Prop :=
  s.dies = [] ∧ s.ftl.changes = [] ∧ s.log.signing = [] ∧ ∀ r ∈ s.log.recs, r.owner = none

theorem State.owesNothing_of_same {s t : State} (h : s.owesNothing) (hd : t.dies = s.dies) (hf : t.ftl = s.ftl)
    (hl : t.log = s.log) : t.owesNothing := by
  rw [State.owesNothing, hd, hf, hl]
  exact h

theorem State.keepPromises_of_owesNothing {s : State} (h : s.owesNothing) : s.keepPromises = s := by
  obtain ⟨hdies, hchanges, hsigning, -⟩ := h
  have hsign : s.signPromised = s := by rw [State.signPromised, hsigning, List.foldl_nil]
  rw [State.keepPromises, hsign, State.finishPromised, State.promisedFuel, State.finishWhere, hdies, List.find?_nil]
  exact if_pos (by rw [hchanges]; rfl)

/-- The checkpoint of a release leaves the release sequence where it is. -/
theorem State.hup_lastCheckpoint {s : State} (h : s.owesNothing) : s.lastCheckpoint.hup = s.hup := by
  obtain ⟨-, -, hsigning, -⟩ := h
  have hsign : s.signAll = s := by rw [State.signAll, hsigning, List.foldl_nil]
  unfold State.lastCheckpoint
  rw [hsign, State.startCheckpoint, State.command]
  split_ifs
  · rfl
  · rfl
  · rfl
  · rfl

/-- With nothing promised, the end of step 4 leaves the release sequence where its aborts leave it. -/
theorem State.release_releaseStill {s t : State} (hs : s.owesNothing) (ht : s.abortHigh = t) (h : t.owesNothing) :
    s.releaseStill.hup.release = t.hup.release := by
  obtain ⟨n, l, d, x, hhold⟩ := State.holdBerths_frame { t with hup := { t.hup with relLeft := 0 } }
  rw [State.releaseStill, State.keepPromises_of_owesNothing hs, ht, hhold, State.keepPromises_of_owesNothing (by exact h),
    State.hup_lastCheckpoint (by exact h)]

/-! ### A QUIESCE is aborted while a press waits (R466, R467) -/

/-- A release asks the host, and nothing is promised. -/
def State.asksAgain (s : State) : Prop := s.hup.release = .pending ∧ s.owesNothing

theorem State.startRelease_frame (s : State) :
    s.startRelease.dies = s.dies ∧ s.startRelease.ftl = s.ftl ∧ s.startRelease.log = s.log := by
  have hrefuse : (s.refuseReq 7).dies = s.dies ∧ (s.refuseReq 7).ftl = s.ftl ∧ (s.refuseReq 7).log = s.log := by
    unfold State.refuseReq
    split_ifs
    · exact ⟨rfl, rfl, rfl⟩
    · exact ⟨rfl, rfl, rfl⟩
  unfold State.startRelease
  generalize s.refuseReq 7 = t at *
  obtain ⟨w, n, l, h⟩ := State.raiseEvent_spec { t with hup := { s.hup with release := .pending, pressLatched := false } } 2 0 none
  rw [h]
  exact hrefuse

theorem State.asksAgain_leaveQuiesce {s : State} (h : s.owesNothing) (hp : s.hup.pressLatched = true) :
    s.leaveQuiesce.asksAgain := by
  obtain ⟨n, l, d, x, hfree⟩ : ∃ n l d x, ({ s with scr := Scr.init } : State).freeBerths =
      { s with scr := Scr.init, nar := n, lnk := l, bth := d, berths := x } := foldl_rest_frame _ _
  refine ⟨s.leaveQuiesce_spec.2 hp, ?_⟩
  rw [State.leaveQuiesce_of_freed hfree, if_pos (by exact hp)]
  obtain ⟨hd, hf, hl⟩ := State.startRelease_frame { s with scr := Scr.init, nar := n, lnk := l, bth := d, berths := x }
  exact State.owesNothing_of_same h hd hf hl

theorem State.asksAgain_withdraw {s : State} (h : s.asksAgain) (p : Change → Bool) : (s.withdraw p).asksAgain := by
  obtain ⟨hrel, hdies, hchanges, hsigning, hrecs⟩ := h
  simp only [State.withdraw, State.openChanges, hdies, hchanges, List.flatMap_nil, List.filter_nil, List.append_nil,
    List.reverse_nil, List.foldl_nil, List.filterMap_nil]
  exact ⟨hrel, rfl, rfl, hsigning, hrecs⟩

theorem State.asksAgain_unstep {s : State} (h : s.asksAgain) (b : BerthId) : (s.unstep b).asksAgain := by
  obtain ⟨hrel, hdies, hrest⟩ := h
  have hsteps : s.stepsOf b = [] := by rw [State.stepsOf, hdies, List.filterMap_nil]
  rw [State.unstep, hsteps]
  exact ⟨hrel, hdies, hrest⟩

theorem State.asksAgain_unsign {s : State} (h : s.asksAgain) (b : BerthId) : (s.unsign b).asksAgain := by
  obtain ⟨hrel, hdies, hchanges, hsigning, hrecs⟩ := h
  simp only [State.unsign, hsigning, List.filter_nil, List.foldl_nil]
  exact ⟨hrel, hdies, hchanges, rfl, hrecs⟩

theorem State.unsealLast_of_owesNothing {s : State} (h : s.owesNothing) (b : BerthId) : s.unsealLast b = none := by
  obtain ⟨-, -, -, hrecs⟩ := h
  unfold State.unsealLast
  split
  next r hr =>
    have hown : r.owner = none := hrecs r (List.mem_of_getLast? hr)
    exact if_neg fun hb => absurd (hown.symm.trans hb.1) (by simp)
  next => rfl

theorem State.asksAgain_disown {s : State} (h : s.asksAgain) (b : BerthId) : (s.disown b).asksAgain := by
  obtain ⟨hrel, hdies, hchanges, hsigning, hrecs⟩ := h
  simp only [State.disown, State.disownBy, hdies, hchanges, hsigning, List.map_nil]
  refine ⟨hrel, rfl, rfl, rfl, fun r hr => ?_⟩
  obtain ⟨x, hx, rfl⟩ := List.mem_map.1 hr
  exact congrArg (Option.filter _) (hrecs x hx)

/-- Withdrawing a QUIESCE ends the stop, so the press that waits starts a release anew. -/
theorem State.asksAgain_withdrawCur {s : State} {c : Cur} (hop : c.ins.op = 0x66) (hc : c.phase = .drain)
    (hp : s.hup.pressLatched = true) (hg : s.grd.gate = none) (h : s.owesNothing) (b : BerthId) :
    (s.withdrawCur b c).asksAgain := by
  have hnat : c.ins.op.toNat = 0x66 := by
    rw [hop]
    rfl
  unfold State.withdrawCur
  extract_lets op s1 write s2 inLedger s3 s4 s5 s6 s7 s8 s9
  have h2 : s2 = s1 := if_neg (by simp [write, op, hnat])
  have h3 : s3 = s2 := if_neg (by simp [inLedger, op, hnat, hc])
  have h4 : s4 = s3 := by
    refine if_neg ?_
    rw [h3, h2, State.ownsGate, show s1.grd.gate = none from hg]
    exact Bool.false_ne_true
  have h5 : s5.asksAgain := by
    have h1 : s1.owesNothing := h
    have hp1 : s1.hup.pressLatched = true := hp
    rw [show s5 = s4.leaveQuiesce from if_pos hnat, h4, h3, h2]
    exact State.asksAgain_leaveQuiesce h1 hp1
  clear_value s5
  have h7 : s7.asksAgain := State.asksAgain_unsign (State.asksAgain_unstep (State.asksAgain_withdraw h5 _) b) b
  clear_value s7
  have h8 : s8 = s7 := by rw [show s8 = (s7.unsealLast b).getD s7 from rfl, State.unsealLast_of_owesNothing h7.2, Option.getD_none]
  obtain ⟨hrel, hdies, hchanges, hsigning, hrecs⟩ : s9.asksAgain := State.asksAgain_disown (h8 ▸ h7) b
  clear_value s9
  exact ⟨hrel, by rw [hdies]; rfl, hchanges, hsigning, hrecs⟩

theorem State.asksAgain_abortCur {s : State} {b : BerthId} {c : Cur} (hc : (s.berth b).cur = some c)
    (h : (s.withdrawCur b c).asksAgain) : (s.abortCur b .aborted).asksAgain := by
  have hu : s.abortCur b .aborted = (s.withdrawCur b c).finish b c.ins .aborted (s.abortDone b c) none (s.abortResult b c) := by
    rw [State.abortCur, hc]
  rw [hu]
  obtain ⟨hrel, howes⟩ := h
  refine ⟨(State.reportsTo_finish _ b _ _ _ _ _).1.trans hrel, State.owesNothing_of_same howes ?_ ?_ ?_⟩
  · rw [State.completesTo_finish]
  · exact (State.keepsOthers_finish _ b _ _ _ _ _).1
  · rw [State.completesTo_finish]

/-! ### The aborts of step 4 -/

theorem foldl_abort_of_idle {s : State} {l : List BerthId} (h : ∀ b ∈ l, (s.berth b).cur = none) :
    l.foldl (fun s b => if 8 ≤ b.val then s.abortCur b .aborted else s) s = s := by
  induction l with
  | nil => rfl
  | cons b l ih =>
    have hb : (if 8 ≤ b.val then s.abortCur b .aborted else s) = s := by
      rw [State.abortCur, h b List.mem_cons_self]
      exact ite_self s
    rw [List.foldl_cons, hb]
    exact ih fun a ha => h a (List.mem_cons_of_mem b ha)

theorem State.abortHigh_of_last {s : State} (h : ∀ b : BerthId, b ≠ Fin.last 511 → (s.berth b).cur = none) :
    s.abortHigh = s.abortCur (Fin.last 511) .aborted := by
  have hall : allBerths = (List.finRange 511).map Fin.castSucc ++ [Fin.last 511] := List.finRange_succ_last
  have hlow : ∀ b ∈ (List.finRange 511).map Fin.castSucc, (s.berth b).cur = none := by
    intro b hb
    obtain ⟨a, -, rfl⟩ := List.mem_map.1 hb
    exact h _ (Fin.castSucc_lt_last a).ne
  rw [State.abortHigh, hall, List.foldl_append, foldl_abort_of_idle hlow, List.foldl_cons, List.foldl_nil, if_pos (by decide)]

/-! ### The state that refutes -/

/-- Step 4 of a release that is at its last boundary, while a press waits. -/
def State.lastBoundary : State := { State.reset with
  rst := { State.reset.rst with power := .on, phase := .running }
  hup := { State.reset.hup with release := .closing, relLeft := 1, pressLatched := true } }

/-- A QUIESCE whose drain has not ended. -/
def drainingQuiesce : Cur := Cur.init { tag := 0, word := 0x66 <<< 56, ext := [] } .drain

/-- The last berth has a QUIESCE in progress. -/
def State.latePress : State := State.lastBoundary.withCur (Fin.last 511) drainingQuiesce

theorem State.owesNothing_latePress : State.latePress.owesNothing :=
  ⟨rfl, rfl, rfl, fun _ hr => List.mem_singleton.1 hr ▸ rfl⟩

theorem State.cur_latePress_other {b : BerthId} (h : b ≠ Fin.last 511) : (State.latePress.berth b).cur = none := by
  rw [State.latePress, State.withCur, State.berth_modBerth_other _ _ h]
  simp [State.lastBoundary, State.reset, State.berth, Berth.init]

/-- The QUIESCE is aborted at the end of step 4, and the release begins anew. -/
theorem State.release_latePress : State.latePress.releaseStill.hup.release = .pending := by
  have hcur : (State.latePress.berth (Fin.last 511)).cur = some drainingQuiesce :=
    congrArg Berth.cur (State.berth_withCur _ _ _)
  have hwith := State.asksAgain_withdrawCur (c := drainingQuiesce) (by decide) rfl (by rfl) (by rfl) State.owesNothing_latePress
    (Fin.last 511)
  obtain ⟨hrel, howes⟩ := State.asksAgain_abortCur hcur hwith
  exact (State.release_releaseStill State.owesNothing_latePress (State.abortHigh_of_last fun _ => State.cur_latePress_other)
    howes).trans hrel

/-- Refutes O45: step 4 need not end with the release still closing. In `State.latePress` it aborts a QUIESCE, which ends the stop,
and the press that waits for the end of the stop starts the sequence again (R467). The statement takes every state that is alive,
not halted, closing and at its last boundary. It does not ask that no press waits, which `State.pressCounts` sees to while a release
is under way, nor that no berth above 7 has a QUIESCE, which `State.begin` sees to. -/
theorem not_holdUpEvents : ¬ Obligations.HoldUpEvents := by
  unfold Obligations.HoldUpEvents
  intro h
  obtain ⟨-, -, -, -, -, -, -, hclosing, -⟩ := h State.latePress rfl
  obtain ⟨hrel, -⟩ := (hclosing rfl rfl).2 (by decide) (.inl rfl)
  rw [State.releaseDue, if_neg (by decide), if_neg (by decide), if_pos (.inl rfl), State.release_latePress] at hrel
  cases hrel

end Sys2Proof.Machine
end
